-- ==== Sys2Proof/Word.lean ====
section
/-!
DEFINITION. The word types of the model and the sorted key-value lists in which it keeps sparse data.
Multi-byte values are little-endian throughout (R12).
-/

namespace Sys2Proof

/-- One byte. -/
abbrev Byte := BitVec 8

/-- A 32-bit word. -/
abbrev W32 := BitVec 32

/-- A 64-bit word, the size of a tile scalar register. -/
abbrev W64 := BitVec 64

/-- A 64-byte depot line; byte k is bits [8k+7:8k]. -/
abbrev Line := BitVec 512

/-- Sparse data by key: pairs with strictly rising keys, none equal to the value an unlisted key reads as. -/
abbrev NMap (α : Type) := List (Nat × α)

/-- Byte memory of any size. -/
abbrev Mem := List (Nat × BitVec 8)

end Sys2Proof
end

