-- ==== Sys2Proof/Syntax.lean ====
section
/-!
DEFINITION. The commands of the block: one constructor per row of spec/opcode_table.json, with the row's operands, and the
operand types they need.
-/

namespace Sys2Proof

/-- One of the two compute halves (R15); the up half is the lead half. -/
inductive Half where
  | up | down
  deriving DecidableEq, Repr

/-- 0 for the up half, 1 for the down half. -/
def Half.num : Half → Nat
  | .up => 0
  | .down => 1

/-- The other half. -/
def Half.other : Half → Half
  | .up => .down
  | .down => .up

/-- The half with a given number. -/
def Half.ofNum (n : Nat) : Half := if n % 2 = 0 then .up else .down

/-- Damage found on one 72/64 code block: symbol i XORed with bits [8i+7:8i] (R153); 0 where there is none. -/
abbrev Damage := BitVec 576

/-- Who issues a tile instruction: thread `thread` of tile `tile`. The instruction's word is the row's own operand; what
the fetch and the tile store have met since the last step comes with it: damage on tile-store blocks, and damage on the
program-store line that was fetched. -/
structure Issue where
  tile    : BitVec 12
  thread  : BitVec 3
  upsets  : List (BitVec 13 × Damage)
  progErr : Damage
  deriving DecidableEq, Repr

/-- Width of a home load or store (R173). -/
inductive HomeWidth where
  | w4 | w8 | line
  deriving DecidableEq, Repr

/-- A fabric port 0 to 31 or a signal port S0, S1 (R18). -/
inductive PortId where
  | fab (p : BitVec 5)
  | sig (h : Half)
  deriving DecidableEq, Repr

/-- The index of a port's register window: 0 to 31, then S0 and S1 (R31, R32). -/
def PortId.idx : PortId → Nat
  | .fab p => p.toNat
  | .sig h => 32 + h.num

/-- What a start meets (R158, R502 to R505, R521): the flash absent, its counters refusing authentication, the PUF failing, a
torn record at the head of the journal, the journal's records whose seal is bad, the vias that fail training by depot channel,
and a firmware core that does not start (in the order of R512). -/
structure BootIn where
  noFlash : Bool
  noCtr   : Bool
  noPuf   : Bool
  torn    : Bool
  bad     : List (BitVec 16)
  vias    : List (Fin 384 × List (Fin 72))
  core    : Option (Fin 85)
  deriving DecidableEq, Repr


/-- An application core's access other than an AMO (R514): a load or a store of 4 or 8 bytes. -/
inductive AppAcc where
  | load (wide : Bool)
  | store (wide : Bool) (value : BitVec 64)
  deriving DecidableEq, Repr

/-- An application core's AMO (R515); `other` is every AMO that R515 does not list, and LR/SC. -/
inductive AppAmo where
  | add | min | max | xor | swap | cas | other
  deriving DecidableEq, Repr


/-- The commands, row by row of the operation table. -/
inductive Instr where
  -- Management (R8)
  | mgmtRegisterWrite (addr : BitVec 32) (wide : Bool) (value : BitVec 64)
  -- Tile instructions: the word's bits [63:8]; the opcode byte is the row's own (R104 to R127)
  | add (x : Issue) (f : BitVec 56)
  | sub (x : Issue) (f : BitVec 56)
  | and (x : Issue) (f : BitVec 56)
  | or (x : Issue) (f : BitVec 56)
  | xor (x : Issue) (f : BitVec 56)
  | shl (x : Issue) (f : BitVec 56)
  | shr (x : Issue) (f : BitVec 56)
  | sra (x : Issue) (f : BitVec 56)
  | mul (x : Issue) (f : BitVec 56)
  | mulh (x : Issue) (f : BitVec 56)
  | min (x : Issue) (f : BitVec 56)
  | max (x : Issue) (f : BitVec 56)
  | slt (x : Issue) (f : BitVec 56)
  | sltu (x : Issue) (f : BitVec 56)
  | div (x : Issue) (f : BitVec 56)
  | divu (x : Issue) (f : BitVec 56)
  | rem (x : Issue) (f : BitVec 56)
  | remu (x : Issue) (f : BitVec 56)
  | lui (x : Issue) (f : BitVec 56)
  | ld (x : Issue) (f : BitVec 56)
  | st (x : Issue) (f : BitVec 56)
  | b (x : Issue) (f : BitVec 56)
  | bcf (x : Issue) (f : BitVec 56)
  | jal (x : Issue) (f : BitVec 56)
  | jr (x : Issue) (f : BitVec 56)
  | mma4 (x : Issue) (f : BitVec 56)
  | mma8 (x : Issue) (f : BitVec 56)
  | mma16 (x : Issue) (f : BitVec 56)
  | mrd (x : Issue) (f : BitVec 56)
  -- The array (R41 to R52)
  | arrayAdmitOpener (tile : BitVec 12)
  | arrayGroupLatch (tile : BitVec 12)
  | arrayDrainDone (tile : BitVec 12)
  | tileScrubWrite (tile : BitVec 12) (block : BitVec 13)
  -- The vector unit
  | vld (x : Issue) (f : BitVec 56)
  | vst (x : Issue) (f : BitVec 56)
  | vbc (x : Issue) (f : BitVec 56)
  | vadd (x : Issue) (f : BitVec 56)
  | vsub (x : Issue) (f : BitVec 56)
  | vmul (x : Issue) (f : BitVec 56)
  | vfma (x : Issue) (f : BitVec 56)
  | vfma2 (x : Issue) (f : BitVec 56)
  | vmin (x : Issue) (f : BitVec 56)
  | vmax (x : Issue) (f : BitVec 56)
  | vcmp (x : Issue) (f : BitVec 56)
  | vsel (x : Issue) (f : BitVec 56)
  | vdiv (x : Issue) (f : BitVec 56)
  | vrsq (x : Issue) (f : BitVec 56)
  | vexp2 (x : Issue) (f : BitVec 56)
  | vsexp (x : Issue) (f : BitVec 56)
  | vsmax (x : Issue) (f : BitVec 56)
  | vred (x : Issue) (f : BitVec 56)
  | vcvt (x : Issue) (f : BitVec 56)
  | vabs (x : Issue) (f : BitVec 56)
  | viadd (x : Issue) (f : BitVec 56)
  | vand (x : Issue) (f : BitVec 56)
  | vor (x : Issue) (f : BitVec 56)
  | vxor (x : Issue) (f : BitVec 56)
  | vlane (x : Issue) (f : BitVec 56)
  -- Transfers, remote access and thread control
  | xget (x : Issue) (f : BitVec 56)
  | xput (x : Issue) (f : BitVec 56)
  | xgetp (x : Issue) (f : BitVec 56)
  | xwait (x : Issue) (f : BitVec 56)
  | fence (x : Issue) (f : BitVec 56)
  | ldg (x : Issue) (f : BitVec 56)
  | stg (x : Issue) (f : BitVec 56)
  | amo (x : Issue) (f : BitVec 56)
  | tevInc (x : Issue) (f : BitVec 56)
  | tevWait (x : Issue) (f : BitVec 56)
  | halt (x : Issue) (f : BitVec 56)
  | tstart (x : Issue) (f : BitVec 56)
  | crd (x : Issue) (f : BitVec 56)
  | cwr (x : Issue) (f : BitVec 56)
  | remoteResponseArrival (tile : BitVec 12)
  -- Tile and block control (R130, R134, R146)
  | tileCtlRun (tile : BitVec 12) (run : Bool)
  | tileCtlStart (tile : BitVec 12)
  | tileCtlAbort (tile : BitVec 12)
  | tileCtlCntClr (tile : BitVec 12)
  | tileArrayCntClr (tile : BitVec 12)
  | blkCtlRetire (block : BitVec 6) (tile : BitVec 6)
  | retirementTakesEffect (tile : BitVec 12)
  | retiredMapTaken (tile : BitVec 12) (block : BitVec 6)
  -- The home slices (R173 to R180)
  | homeLoad (addr : BitVec 36) (w : HomeWidth) (tag : BitVec 16) (cerr : Damage)
  | homeStore (addr : BitVec 36) (w : HomeWidth) (data : BitVec 512) (tag : BitVec 16)
  | homeAdd (addr : BitVec 36) (wide : Bool) (operand : BitVec 64) (tag : BitVec 16)
  | homeMin (addr : BitVec 36) (wide : Bool) (operand : BitVec 64) (tag : BitVec 16)
  | homeMax (addr : BitVec 36) (wide : Bool) (operand : BitVec 64) (tag : BitVec 16)
  | homeXor (addr : BitVec 36) (wide : Bool) (operand : BitVec 64) (tag : BitVec 16)
  | homeSwap (addr : BitVec 36) (wide : Bool) (operand : BitVec 64) (tag : BitVec 16)
  | homeCompareAndSwap (addr : BitVec 36) (wide : Bool) (operand : BitVec 64) (compare : BitVec 64) (tag : BitVec 16)
  | homeExactInt32Accumulate (addr : BitVec 36) (operand : BitVec 32) (tag : BitVec 16)
  | homeFp32Add (addr : BitVec 36) (operand : BitVec 32) (tag : BitVec 16)
  | depotFillComplete (line : BitVec 30) (err1 : Damage) (err2 : Damage) (evictErr : Damage)
  | hotLineSlot (line : BitVec 30)
  | hotQueueRelease (line : BitVec 30)
  | closureRecordMove (h : Half)
  | depChRetrain (h : Half) (stack : Fin 12) (ch : BitVec 4)
  | channelRetrainDone (h : Half) (stack : Fin 12) (ch : BitVec 4) (failed : List (Fin 76))
  | depScrubNow (h : Half)
  | depCntClr (h : Half)
  | scrubAccess (h : Half) (err1 : Damage) (err2 : Damage)
  | refreshTimer (h : Half) (stack : Fin 12)
  -- Memory fabric: arrivals carry the 56-byte transaction header (R207, R208) and their data flits
  | ingressLoad (port : BitVec 5) (hdr : BitVec 448) (data : List (BitVec 512))
  | ingressStore (port : BitVec 5) (hdr : BitVec 448) (data : List (BitVec 512))
  | ingressAtomic (port : BitVec 5) (hdr : BitVec 448) (data : List (BitVec 512))
  | ingressRead (port : BitVec 5) (hdr : BitVec 448) (data : List (BitVec 512))
  | ingressWrite (port : BitVec 5) (hdr : BitVec 448) (data : List (BitVec 512))
  | ingressBatch (port : BitVec 5) (hdr : BitVec 448) (data : List (BitVec 512))
  | ingressAck (port : BitVec 5) (hdr : BitVec 448) (data : List (BitVec 512))
  | ingressTaken (src : BitVec 16) (job : BitVec 12)
  | responseArrival (port : BitVec 5) (hdr : BitVec 448)
  | readDataArrival (port : BitVec 5) (hdr : BitVec 448) (data : List (BitVec 512))
  | retransmitTimer (dst : BitVec 16) (job : BitVec 12) (seq : BitVec 32)
  | requestTimeout (dst : BitVec 16) (job : BitVec 12) (seq : BitVec 32)
  | retryDelayExpiry (dst : BitVec 16) (job : BitVec 12) (seq : BitVec 32)
  | idleAckTimer (dst : BitVec 16) (job : BitVec 12)
  | gatewayBatchDelay (district : BitVec 10)
  | winWriteWindow (slot : BitVec 6) (window : BitVec 6)
  | winBindJob (slot : BitVec 6) (job : BitVec 12)
  | winUnbindJob (slot : BitVec 6)
  | winCommitComplete
  -- Link layer and routing (R343 to R364): flits as received, with the damage of their slot
  | headFlitReceived (port : PortId) (flit : BitVec 512) (err : Damage)
  | dataFlitReceived (port : PortId) (flit : BitVec 512) (err : Damage)
  | idleFlitReceived (port : PortId) (flit : BitVec 512) (err : Damage)
  | controlFlitReceived (port : PortId) (flit : BitVec 512) (slot1 : Bool) (err : Damage)
  | linkNak (port : PortId) (seq : BitVec 16)
  | linkReplay (port : PortId) (seq : BitVec 16)
  | missNotice (port : BitVec 5) (district : Bool) (again : Bool) (id : BitVec 16)
  | linkRtoExpiry (port : PortId)
  | creditReportTimer (port : PortId)
  | throttleRelease (port : BitVec 5)
  -- The shunter (R280 to R290): the command as the home slice performed its write
  | shnGather (h : Half) (slot : BitVec 6) (job : BitVec 12) (cmd : BitVec 512)
  | shnGatherRange (h : Half) (slot : BitVec 6) (job : BitVec 12) (cmd : BitVec 512)
  | shnScatter (h : Half) (slot : BitVec 6) (job : BitVec 12) (cmd : BitVec 512)
  | shnCommandComplete (h : Half)
  | shnCntClr
  -- Light (R291 to R343, R542, R543): measured values come with their rows. `whole`: every slot of the frame before held markers
  | markerReceived (port : PortId) (lane : BitVec 3) (marker : BitVec 72) (whole : Bool)
  | laneRestoreTimer (port : PortId) (lane : BitVec 3)
  | widthChangeEffect (port : PortId) (tx : Bool)
  | ringLoopUpdate (port : PortId) (tx : Bool) (lane : BitVec 3) (heater : BitVec 16)
  | ringRelockDone (port : PortId) (lane : BitVec 3) (found : Bool) (heater : BitVec 16)
  | ringResweepTimer (port : PortId) (lane : BitVec 3)
  | laserBiasLoop (chiplet : BitVec 2) (laser : Fin 26) (bias : BitVec 10) (mon : BitVec 16) (onGrid : Bool)
  | laserBiasDaily (chiplet : BitVec 2)
  | changeoverStart (chiplet : BitVec 2) (laser : BitVec 4)
  | changeoverDeferExpiry (chiplet : BitVec 2) (laser : BitVec 4)
  | understudyOnGrid (chiplet : BitVec 2) (wl : BitVec 3)
  | laserFailure (chiplet : BitVec 2) (laser : Fin 26)
  | lasCtlChange (chiplet : BitVec 2) (laser : BitVec 4)
  | presenceSeen (ferrule : Half)
  | presenceLost (ferrule : Half)
  | bankLightUp (chiplet : BitVec 2)
  | portTrainingComplete (port : PortId)
  | portCtlRetrain (port : PortId)
  | portCtlRelock (port : PortId) (rings : BitVec 8)
  | portCtlCntClr (port : PortId)
  | rehearsalDwell (port : BitVec 5) (errors : BitVec 32) (bytes : BitVec 32)
  | rehearsalNoPattern (port : BitVec 5)
  | portSteerGo (port : BitVec 5) (fibre : BitVec 4)
  | steerSwitchDone (port : BitVec 5) (marker : BitVec 72)
  | steerTimeout (port : BitVec 5)
  | converterSample (chiplet : BitVec 2) (value : BitVec 16)
  | lossOfLight (port : PortId) (lane : BitVec 3)
  -- The interlocking (R374 to R418): records as bytes 8 to 63 of their flit, and the plane they came on
  | heartbeatSendTimer
  | ilkHeartbeat (plane : Half) (rec : BitVec 448)
  | ilkProbe (plane : Half) (rec : BitVec 448)
  | ilkAnswer (plane : Half) (rec : BitVec 448)
  | ilkRequest (plane : Half) (rec : BitVec 448)
  | ilkPropose (plane : Half) (rec : BitVec 448)
  | ilkVote (plane : Half) (rec : BitVec 448)
  | epochRecord (plane : Half) (rec : BitVec 448)
  | ilkEpochAck (plane : Half) (rec : BitVec 448)
  | ilkFetch (plane : Half) (rec : BitVec 448)
  | ilkVerdict (plane : Half) (rec : BitVec 448)
  | ilkHall (plane : Half) (rec : BitVec 448)
  | ilkPortcheck (port : BitVec 5) (rec : BitVec 448)
  | suspicionTimeout (member : BitVec 6)
  | probeRepeat (member : BitVec 6)
  | probeConfirmTimeout (member : BitVec 6)
  | chairHandoverTimeout (op : BitVec 4) (subj : BitVec 16)
  | voteTimeout
  | requestResend (member : BitVec 6)
  | epochResendTimer
  | epochCompleteTimeout
  | epochLogbookTimer
  | portcheckSendTimer
  | portcheckMissing (port : BitVec 5)
  | fetchRetry
  | boxSilenceFence
  | selfCheckDone (passed : Bool)
  | formWaitExpiry
  | hallWaitExpiry
  | ilkCtlExpel (subj : BitVec 16) (job : BitVec 12)
  | ilkCtlLeave
  | ilkCtlReadmit
  | partnerCopyDone (slot : BitVec 6) (pos : BitVec 14)
  | districtChangeEnd
  -- The module management controller (R453 to R473)
  | standbyPowerUp
  | presenceDebounced (slot : BitVec 7) (autoOn : Bool) (vin : BitVec 10) (flow : BitVec 12)
  | presenceContactBreak (b : Bool)
  | hotSwapFault (cause : Fin 3)
  | modPowerOn
  | modPowerOff
  | modDrain (i3c : Bool)
  | modReset
  | resetRailsOn
  | modLocate (on : Bool)
  | removalButton
  | drainRelease
  | drainWaitExpiry
  | coolantWarning (hot low : Bool)
  | coolantFlowFault (flow : BitVec 12)
  | flowFaultSwitchOpen
  | i3cPrivateWrite (addr : BitVec 32) (value : BitVec 32)
  | i3cPrivateRead (addr : BitVec 32)
  | entdaa (addr : BitVec 7)
  | setdasa (addr : BitVec 7)
  | setnewda (addr : BitVec 7)
  | rstdaa
  | enec
  | disec
  | getpid
  | getbcr
  | getdcr
  | getstatus
  | getmwl
  | getmrl
  -- The Lysdex link (R474 to R490): flits after FEC without their FEC bytes; messages as a header slot with its payload
  | lrstN (low : Bool)
  | lysLinkUp (x16 : Bool)
  | lysTrainRetry
  | lysFeature (hdr : BitVec 128)
  | lysFeatureTimeout
  | lysFlit (flit : BitVec 2000) (corrected : Bool)
  | lysReplayTimeout
  | lysLoad (hdr : BitVec 128)
  | lysStore (hdr : BitVec 128) (payload : List (BitVec 128))
  | lysAtomic (hdr : BitVec 128) (payload : List (BitVec 128))
  | lysRead (hdr : BitVec 128)
  | lysWrite (hdr : BitVec 128) (payload : List (BitVec 128))
  | lysReadShared (hdr : BitVec 128)
  | lysReadOwn (hdr : BitVec 128)
  | lysEvict (hdr : BitVec 128)
  | lysWriteback (hdr : BitVec 128) (payload : List (BitVec 128))
  | lysRecallAck (hdr : BitVec 128) (payload : List (BitVec 128))
  | lysMgmtRd (hdr : BitVec 128)
  | lysMgmtWr (hdr : BitVec 128) (payload : List (BitVec 128))
  | lysCredit (hdr : BitVec 128)
  | lysReservedMt (hdr : BitVec 128)
  | recallTimeout (tag : BitVec 12)
  | lysCtlRetrain
  | lysCtlCntClr
  -- Start, security, logbook, log and modes (chapters 14 and 15)
  | powerGood (b : BootIn)
  | selfTestComplete (failed : List (BitVec 12))
  | switchDiscoveryDone
  | recoveryChunkGo (chunk : BitVec 8) (last : Bool) (b : BootIn)
  | secWriteBank
  | secWriteConfig
  | secEnrol
  | secLiveLoad
  | secUpdateDone (ok : Bool)
  | liveLoadCoreDone (ok : Bool)
  | secAttest
  | attestDone
  | logbookAppend (ok : Bool)
  | classBWriteTimer
  | logRecordWrite
  | cuePointWrite
  | modeCtlGo (target : BitVec 3)
  | modeCfgWrite (power : BitVec 2) (trace : Bool)
  | modeRequestComplete
  -- Application cores (R514, R515): the core's job CSR and the aperture entry it goes through come with the access
  | appCoreGlobalAccess (core : BitVec 4) (job : BitVec 12) (dev : BitVec 16) (pa : BitVec 56) (acc : AppAcc) (tag : BitVec 16)
  | appCoreAmo (core : BitVec 4) (job : BitVec 12) (dev : BitVec 16) (pa : BitVec 56) (amo : AppAmo) (wide : Bool) (operand compare : BitVec 64) (tag : BitVec 16)
  -- Cue engine and stationmaster (R235 to R267): cue slots, mailbox records as the job slot's mailbox took them
  | cueNop (slot : BitVec 14)
  | cueShift (slot : BitVec 14)
  | cuePermute (slot : BitVec 14)
  | cueInc (slot : BitVec 14)
  | cueClose (slot : BitVec 14)
  | cueReady (slot : BitVec 14)
  | cuePoints (slot : BitVec 14)
  | mboxAnnounce (slot : BitVec 6) (record : BitVec 512)
  | mboxInc (slot : BitVec 6) (record : BitVec 512)
  | mboxArm (slot : BitVec 6) (record : BitVec 512)
  | mboxArmc (slot : BitVec 6) (record : BitVec 512)
  | mboxDone (slot : BitVec 6) (record : BitVec 512)
  | mboxCommit (slot : BitVec 6) (record : BitVec 512)
  | mboxAbort (slot : BitVec 6) (record : BitVec 512)
  | mboxAccept (slot : BitVec 6) (record : BitVec 512)
  | mboxReady (slot : BitVec 6) (record : BitVec 512)
  | mboxNotYet (slot : BitVec 6) (record : BitVec 512)
  | mboxPoison (slot : BitVec 6) (record : BitVec 512)
  | mboxStepOpen (slot : BitVec 6) (record : BitVec 512)
  | mboxConsist (slot : BitVec 6) (record : List (BitVec 512))
  | mboxTakeover (slot : BitVec 6) (record : BitVec 512)
  | consistStandbyAck (slot : BitVec 6)
  | cueMessageComplete (src : BitVec 16) (job : BitVec 12) (msg : BitVec 16)
  | closeRoundTimeout (coll : BitVec 10)
  | stepDeadline (slot : BitVec 6)
  | stepBackstop (slot : BitVec 6)
  | takeoverWaitExpiry (slot : BitVec 6)
  | stmReplayOff (slot : BitVec 6)
  | cueCtlAbort (slot : BitVec 6)
  | cueCtlCntClr
  -- The bridge (R419 to R435): `h` is the half that takes the flit or message; flits come with the damage of their group
  | brgControlFlit (h : Half) (flit : BitVec 512) (err : Damage)
  | brgPacket (h : Half) (seq : BitVec 32) (flits : List (BitVec 512 × Damage))
  | brgPowerMessage (h : Half) (body : BitVec 448)
  | brgRetryTimeout (h : Half)
  | brgTrainStart (msg : BitVec 256)
  | brgPrbsDone (h : Half) (failed : List (BitVec 7 × BitVec 7))
  | brgTrainMap (msg : BitVec 256)
  | brgTrainAgree (msg : BitVec 256)
  | brgTrainEcho (msg : BitVec 256)
  | brgTrainRefuse (msg : BitVec 256)
  | brgEchoTimeout
  | brgRetrain
  | brgPresetUp
  | brgPresetDown
  | brgCntClr
  | watchdogExpiry (h : Half)
  | blockLinkStall (block : BitVec 6)
  | fwStoreUncorr (h : Half)
  | presetReturn (h : Half)
  | presetHoldExpiry (h : Half)
  | clockLoss
  | crystalLoss
  -- Power and heat (R436 to R448): what the sensors measured comes with the row, powers in 0.1 W and temperatures in 0.1 °C
  | powerMessageTimer (h : Half) (meas pkg input : BitVec 16) (below : Bool)
  | grantEffect (h : Half)
  | slowControlTick (h : Half) (mean : BitVec 16)
  | fastTrip (h : Half)
  | fastTripEnd (h : Half)
  | adaptiveLoopTick (block : BitVec 6) (waves : BitVec 12) (slack : BitVec 7)
  | thermalModelUpdate (h : Half) (fast : Bool) (inlet outlet : BitVec 12) (power : List (BitVec 6 × BitVec 16))
  | t4ThrottleStep (block : BitVec 6)
  | calibration (h : Half) (offsets : List (BitVec 6 × BitVec 16)) (diode : BitVec 12)
  | arrayInstructionComplete (tile : BitVec 12) (stall : BitVec 32)
  deriving DecidableEq, Repr

end Sys2Proof
end

