-- ==== Sys2Proof/Decode.lean ====
section
/-!
DEFINITION. What words spell. No row of spec/opcode_table.json gives its command any bits: a command reaches the block as an event
or an access with its operands, not as a word. The 64-bit words of the tiles' programs do spell tile instructions, by the opcode
byte of R104.
-/

namespace Sys2Proof

/-- The command that a word spells by the operation table's bits: none, since no row of the table has bits. -/
def decodeTableWord (_nbits _w : Nat) : Option Instr := none

/-- The tile instruction of an opcode byte (R104, with the opcodes of R106, R109, R110, R113, R115, R121 to R123 and R125 to
R127); none for a reserved opcode. -/
def tileRow : Nat → Option (Issue → BitVec 56 → Instr)
  | 0x00 => some .add | 0x01 => some .sub | 0x02 => some .and | 0x03 => some .or | 0x04 => some .xor | 0x05 => some .shl
  | 0x06 => some .shr | 0x07 => some .sra | 0x08 => some .mul | 0x09 => some .mulh | 0x0A => some .min | 0x0B => some .max
  | 0x0C => some .slt | 0x0D => some .sltu | 0x0E => some .div | 0x0F => some .divu | 0x10 => some .rem | 0x11 => some .remu
  | 0x12 => some .lui | 0x20 => some .ld | 0x21 => some .st | 0x30 => some .b | 0x31 => some .bcf | 0x32 => some .jal
  | 0x33 => some .jr | 0x40 => some .mma4 | 0x41 => some .mma8 | 0x42 => some .mma16 | 0x48 => some .mrd | 0x50 => some .vld
  | 0x51 => some .vst | 0x52 => some .vbc | 0x53 => some .vadd | 0x54 => some .vsub | 0x55 => some .vmul | 0x56 => some .vfma
  | 0x57 => some .vfma2 | 0x58 => some .vmin | 0x59 => some .vmax | 0x5A => some .vcmp | 0x5B => some .vsel | 0x5C => some .vdiv
  | 0x5D => some .vrsq | 0x5E => some .vexp2 | 0x5F => some .vsexp | 0x60 => some .vsmax | 0x61 => some .vred
  | 0x62 => some .vcvt | 0x63 => some .vabs | 0x64 => some .viadd | 0x65 => some .vand | 0x66 => some .vor | 0x67 => some .vxor
  | 0x68 => some .vlane | 0x80 => some .xget | 0x81 => some .xput | 0x82 => some .xgetp | 0x84 => some .ldg | 0x85 => some .stg
  | 0x86 => some .amo | 0x87 => some .xwait | 0x88 => some .fence | 0xA0 => some .tevInc | 0xA1 => some .tevWait
  | 0xA2 => some .crd | 0xA3 => some .cwr | 0xA4 => some .halt | 0xA5 => some .tstart
  | _ => none

/-- Read a program word (R98, R104): its opcode byte names the instruction, and bits [63:8] are its fields. -/
def decodeTile (x : Issue) (w : BitVec 64) : Option Instr :=
  (tileRow (w.toNat % 256)).map (fun c => c x (BitVec.ofNat 56 (w.toNat / 256)))

/-- The opcode byte of a tile instruction, who issues it, and its fields; none for a command that is no tile instruction. -/
def tileCode : Instr → Option (Nat × Issue × BitVec 56)
  | .add x f => some (0x00, x, f) | .sub x f => some (0x01, x, f) | .and x f => some (0x02, x, f) | .or x f => some (0x03, x, f)
  | .xor x f => some (0x04, x, f) | .shl x f => some (0x05, x, f) | .shr x f => some (0x06, x, f) | .sra x f => some (0x07, x, f)
  | .mul x f => some (0x08, x, f) | .mulh x f => some (0x09, x, f) | .min x f => some (0x0A, x, f)
  | .max x f => some (0x0B, x, f) | .slt x f => some (0x0C, x, f) | .sltu x f => some (0x0D, x, f)
  | .div x f => some (0x0E, x, f) | .divu x f => some (0x0F, x, f) | .rem x f => some (0x10, x, f)
  | .remu x f => some (0x11, x, f) | .lui x f => some (0x12, x, f) | .ld x f => some (0x20, x, f) | .st x f => some (0x21, x, f)
  | .b x f => some (0x30, x, f) | .bcf x f => some (0x31, x, f) | .jal x f => some (0x32, x, f) | .jr x f => some (0x33, x, f)
  | .mma4 x f => some (0x40, x, f) | .mma8 x f => some (0x41, x, f) | .mma16 x f => some (0x42, x, f)
  | .mrd x f => some (0x48, x, f) | .vld x f => some (0x50, x, f) | .vst x f => some (0x51, x, f) | .vbc x f => some (0x52, x, f)
  | .vadd x f => some (0x53, x, f) | .vsub x f => some (0x54, x, f) | .vmul x f => some (0x55, x, f)
  | .vfma x f => some (0x56, x, f) | .vfma2 x f => some (0x57, x, f) | .vmin x f => some (0x58, x, f)
  | .vmax x f => some (0x59, x, f) | .vcmp x f => some (0x5A, x, f) | .vsel x f => some (0x5B, x, f)
  | .vdiv x f => some (0x5C, x, f) | .vrsq x f => some (0x5D, x, f) | .vexp2 x f => some (0x5E, x, f)
  | .vsexp x f => some (0x5F, x, f) | .vsmax x f => some (0x60, x, f) | .vred x f => some (0x61, x, f)
  | .vcvt x f => some (0x62, x, f) | .vabs x f => some (0x63, x, f) | .viadd x f => some (0x64, x, f)
  | .vand x f => some (0x65, x, f) | .vor x f => some (0x66, x, f) | .vxor x f => some (0x67, x, f)
  | .vlane x f => some (0x68, x, f) | .xget x f => some (0x80, x, f) | .xput x f => some (0x81, x, f)
  | .xgetp x f => some (0x82, x, f) | .ldg x f => some (0x84, x, f) | .stg x f => some (0x85, x, f)
  | .amo x f => some (0x86, x, f) | .xwait x f => some (0x87, x, f) | .fence x f => some (0x88, x, f)
  | .tevInc x f => some (0xA0, x, f) | .tevWait x f => some (0xA1, x, f) | .crd x f => some (0xA2, x, f)
  | .cwr x f => some (0xA3, x, f) | .halt x f => some (0xA4, x, f) | .tstart x f => some (0xA5, x, f)
  | _ => none

/-- The word of a tile instruction. -/
def tileWord (i : Instr) : Option (BitVec 64) := (tileCode i).map (fun c => BitVec.ofNat 64 (c.1 + 256 * c.2.2.toNat))

end Sys2Proof
end

