-- ==== Sys2Proof/Config.lean ====
section
/-!
DEFINITION. The free values: what the spec leaves open although the machine goes on. Each is an opaque constant, so no
statement can depend on a particular value of it. `freeValue` is applied to the step counter `freeCtr` that State holds;
the keyed constants stand for secrets and contents that the spec gives no value for.
-/

namespace Sys2Proof.Config

/-- An open value of the spec, drawn afresh at each count of `State.freeCtr`. Log entry 8 (DESIGN CHOICE). -/
opaque freeValue : Nat → Nat

/-- The device's attestation key (R509): its value is secret. Log entry 130 (DESIGN CHOICE). -/
opaque deviceKey : Nat

/-- The secret the physical unclonable function yields (R497, R508). Log entry 130 (DESIGN CHOICE). -/
opaque pufSecret : Nat

/-- The SHA-256 of Jentovin's root public key, held in the boot ROM (R500). Log entry 130 (DESIGN CHOICE). -/
opaque rootKeyHash : Nat

/-- The SHA-256 of the device's identity public key (R508, R510). Log entry 130 (DESIGN CHOICE). -/
opaque identityHash : Nat

/-- The electronic serial number and provisioned ID of the module (R471). Log entry 98 (DESIGN CHOICE). -/
opaque provisionedId : Nat

/-- The I3C bus and device characteristics registers (R471 gives no values). Log entry 98 (DESIGN CHOICE). -/
opaque i3cBcr : Nat
opaque i3cDcr : Nat

/-- The elements beside element `e` of the thermal model (R443): the spec gives no floor plan. Log entry 89 (DESIGN CHOICE). -/
opaque neighbours : Nat → List Nat

/-- The learned gain of a ring heater (R447), in steps of its setting for 0.1 °C: the module's own. Log entry 89 (DESIGN CHOICE). -/
opaque ringGain : Nat → Nat

end Sys2Proof.Config
end

