-- ==== Sys2Proof/Machine/NMap.lean ====
section
/-!
DEFINITION. Operations on sparse data by key: lookup, and the one update, which keeps the canonical form (keys strictly
rising, no entry equal to the value an unlisted key reads as), so that equal contents are equal lists.
-/

namespace Sys2Proof.Machine

/-- The value at key `k`, or `d` where nothing is listed. Log entry 11 (DESIGN CHOICE). -/
def mget {α : Type} (m : NMap α) (k : Nat) (d : α) : α :=
  match m with
  | [] => d
  | (j, v) :: r => if j = k then v else mget r k d

/-- Insert an entry in key order (the key is not listed). -/
def mins {α : Type} (k : Nat) (v : α) : NMap α → NMap α
  | [] => [(k, v)]
  | (j, w) :: r => if k < j then (k, v) :: (j, w) :: r else (j, w) :: mins k v r

/-- Remove every entry at key `k`. -/
def mdel {α : Type} (k : Nat) : NMap α → NMap α
  | [] => []
  | (j, w) :: r => if j = k then mdel k r else (j, w) :: mdel k r

/-- Set key `k` to `v`; `d` is what an unlisted key reads as, so that setting it removes the entry. -/
def mput {α : Type} [DecidableEq α] (m : NMap α) (k : Nat) (v d : α) : NMap α :=
  if v = d then mdel k m else mins k v (mdel k m)

/-- Change the value at key `k` by `f`. -/
def mmod {α : Type} [DecidableEq α] (m : NMap α) (k : Nat) (d : α) (f : α → α) : NMap α :=
  mput m k (f (mget m k d)) d

/-- Keys strictly above `b` and rising, no entry equal to `d`. -/
def mwfFrom {α : Type} [DecidableEq α] (d : α) : Option Nat → NMap α → Bool
  | _, [] => true
  | b, (j, v) :: r => (match b with | none => true | some x => decide (x < j)) && decide (v ≠ d) && mwfFrom d (some j) r

/-- The canonical form. -/
def mwf {α : Type} [DecidableEq α] (d : α) (m : NMap α) : Bool := mwfFrom d none m

/-- Byte memory in its canonical form: what an unlisted address reads as is 0. -/
def Memory.wf (m : Mem) : Bool := mwf 0 m

/-- `n` consecutive keys from `a`, read as one number, byte `k` at bits [8k+7:8k] (R12). -/
def mreadLE (m : NMap Byte) (a : Nat) : Nat → Nat
  | 0 => 0
  | n + 1 => (mget m a 0).toNat + 256 * mreadLE m (a + 1) n

/-- Store the low `n` bytes of `v` at `a` upwards (R12). -/
def mwriteLE (m : NMap Byte) (a : Nat) (v : Nat) : Nat → NMap Byte
  | 0 => m
  | n + 1 => mwriteLE (mput m a (BitVec.ofNat 8 v) 0) (a + 1) (v / 256) n

/-- The 64-byte line or block number `l`. -/
def mline (m : NMap Byte) (l : Nat) : Line := BitVec.ofNat 512 (mreadLE m (64 * l) 64)

/-- Store a whole line or block. -/
def mputLine (m : NMap Byte) (l : Nat) (v : Line) : NMap Byte := mwriteLE m (64 * l) v.toNat 64

/-- Bits [lo+w-1:lo] of a number. -/
def bitsAt (v lo w : Nat) : Nat := v / 2 ^ lo % 2 ^ w

/-- Bit `k` of a number. -/
def bitAt (v k : Nat) : Bool := v / 2 ^ k % 2 == 1

/-- `v` with bits [lo+w-1:lo] replaced by `x`. -/
def setBits (v lo w x : Nat) : Nat := v - bitsAt v lo w * 2 ^ lo + x % 2 ^ w * 2 ^ lo

/-- `v` with bit `k` set, or cleared. -/
def setBit (v k : Nat) (b : Bool) : Nat := setBits v k 1 (if b then 1 else 0)

/-- A number read as a `w`-bit two's complement integer. -/
def sext (v w : Nat) : Int := (BitVec.ofNat w v).toInt

/-- An integer as a `w`-bit two's complement word. -/
def wrap (v : Int) (w : Nat) : Nat := (BitVec.ofInt w v).toNat

/-- Saturating increment of a `w`-bit counter by `n`. -/
def satAdd (v n w : Nat) : Nat := min (v + n) (2 ^ w - 1)

/-- Sequence comparison of R29: `a` is newer than `b` when the distance from b to a, modulo 2^32, lies in 1 to 2^31 − 1. -/
def seqNewer (a b : Nat) : Bool :=
  let d := (BitVec.ofNat 32 a - BitVec.ofNat 32 b).toNat
  d != 0 && decide (d < 2 ^ 31)

/-- The next sequence number, modulo 2^32. -/
def seqNext (a : Nat) : Nat := (a + 1) % 2 ^ 32

/-- Number of set bits below bit `n`. -/
def popcount (v : Nat) : Nat → Nat
  | 0 => 0
  | n + 1 => popcount v n + (if bitAt v n then 1 else 0)

/-- The set bits below `n`, in rising order. -/
def bitList (v n : Nat) : List Nat := (List.range n).filter (bitAt v ·)

/-- Half the port, tile or block belongs to and similar small choices: `some` where the condition holds. -/
def guardOpt {α : Type} (c : Bool) (v : α) : Option α := if c then some v else none

end Sys2Proof.Machine
end

