-- ==== Sys2Proof/Machine/Code.lean ====
section
/-!
DEFINITION. The 72/64 block code (R153 to R157): a Reed-Solomon code over GF(2^8). What is kept of a stored block is its
data and the damage it has met, one byte for each of the 72 symbols; the code is linear, so what a decoder reports depends
on the damage alone. The decoder corrects errors and erasures with 2e + f at most 8, and beyond that limit finds another
code word where one lies within it (R154).
-/

namespace Sys2Proof.Machine

/-- Damage to a stored block: symbol i of the code word is XORed with bits [8i+7:8i]; symbols 0 to 63 are the data bytes. -/
abbrev ErrPat := BitVec 576

/-- A decoder's report (R154). `resid` is what remains on the data: zero for a true correction. -/
inductive Decoded where
  | clean (resid : Line)
  | corrected (resid : Line)
  | uncorrectable
  deriving DecidableEq, Repr

/-- One step of a GF(2^8) product: fold bit `k` of `b`. -/
def gfMulAux (a b : Nat) : Nat → Nat → Nat
  | 0, acc => acc
  | k + 1, acc =>
    let acc2 := acc * 2
    let acc3 := if acc2 ≥ 256 then Nat.xor (acc2 % 256) 0x1D else acc2
    gfMulAux a b k (if bitAt b k then Nat.xor acc3 a else acc3)

/-- Product in GF(2^8) with the field polynomial of R153. -/
def gfMul (a b : Nat) : Nat := gfMulAux a b 8 0

/-- α^n, α = 0x02. -/
def gfAlpha : Nat → Nat
  | 0 => 1
  | n + 1 => gfMul (gfAlpha n) 2

/-- x^n in GF(2^8). -/
def gfPow (x : Nat) : Nat → Nat
  | 0 => 1
  | n + 1 => gfMul (gfPow x n) x

/-- Inverse in GF(2^8): x^254 (0 for 0). -/
def gfInv (x : Nat) : Nat :=
  let x2 := gfMul x x; let x4 := gfMul x2 x2; let x8 := gfMul x4 x4; let x16 := gfMul x8 x8
  let x32 := gfMul x16 x16; let x64 := gfMul x32 x32; let x128 := gfMul x64 x64
  gfMul (gfMul (gfMul x2 x4) (gfMul x8 x16)) (gfMul (gfMul x32 x64) x128)

/-- Value of a polynomial, low coefficient first, at x. -/
def polyEval (p : List Nat) (x : Nat) : Nat := p.foldr (fun c a => Nat.xor c (gfMul a x)) 0

/-- Sum of two polynomials. -/
def polyAdd : List Nat → List Nat → List Nat
  | [], q => q
  | p, [] => p
  | a :: p, b :: q => Nat.xor a b :: polyAdd p q

/-- A polynomial times a constant. -/
def polyScale (k : Nat) (p : List Nat) : List Nat := p.map (gfMul k ·)

/-- Product of two polynomials. -/
def polyMul : List Nat → List Nat → List Nat
  | [], _ => []
  | a :: p, q => polyAdd (polyScale a q) (0 :: polyMul p q)

/-- Formal derivative: over GF(2^8) the odd coefficients remain. -/
def polyDeriv : List Nat → List Nat
  | [] => []
  | [_] => []
  | [_, b] => [b]
  | _ :: b :: r => b :: 0 :: polyDeriv r

/-- Symbol i of a damage pattern. -/
def symAt (e : ErrPat) (i : Nat) : Nat := bitsAt e.toNat (8 * i) 8

/-- Position value of symbol i: α^(71 − i) (R153). -/
def posVal (i : Nat) : Nat := gfAlpha (71 - i)

/-- Syndrome j: the damage polynomial at α^j. -/
def syndrome (e : ErrPat) (j : Nat) : Nat :=
  (List.range 72).foldl (fun a i => Nat.xor (gfMul a (gfAlpha j)) (symAt e i)) 0

/-- The eight syndromes. -/
def syndromes (e : ErrPat) : List Nat := (List.range 8).map (syndrome e)

/-- State of the locator search: the locator, the correction polynomial and the register length. -/
abbrev BmState := List Nat × List Nat × Nat

/-- The discrepancy at step r (1 to 8). -/
def bmDelta (s : List Nat) (lam : List Nat) (r : Nat) : Nat :=
  (List.range r).foldl (fun a j => Nat.xor a (gfMul (lam.getD j 0) (s.getD (r - 1 - j) 0))) 0

/-- One step of the errors-and-erasures locator search with f erasures. -/
def bmStep (s : List Nat) (f : Nat) (st : BmState) (r : Nat) : BmState :=
  let d := bmDelta s st.1 r
  if d = 0 then (st.1, 0 :: st.2.1, st.2.2)
  else
    let t := polyAdd st.1 (polyScale d (0 :: st.2.1))
    if 2 * st.2.2 < r + f then (t, polyScale (gfInv d) st.1, r + f - st.2.2)
    else (t, 0 :: st.2.1, st.2.2)

/-- The locator of errors and erasures from the syndromes. -/
def locator (s : List Nat) (erasures : List Nat) : List Nat :=
  let g := erasures.foldl (fun p i => polyMul p [1, posVal i]) [1]
  let f := erasures.length
  (((List.range 8).filter (f ≤ ·)).foldl (fun st k => bmStep s f st (k + 1)) (g, g, f)).1

/-- The error value at symbol i, by the locator and the evaluator polynomial. -/
def errorValue (lam om : List Nat) (i : Nat) : Nat :=
  let x := posVal i; let xi := gfInv x
  gfMul x (gfMul (polyEval om xi) (gfInv (polyEval (polyDeriv lam) xi)))

/-- The correction a decoder finds: symbols at which the locator has a root, each with its value. -/
def corrections (s : List Nat) (erasures : List Nat) : List (Nat × Nat) :=
  let lam := locator s erasures
  let om := (polyMul s lam).take 8
  ((List.range 72).filter (fun i => polyEval lam (gfInv (posVal i)) == 0)).map (fun i => (i, errorValue lam om i))

/-- A correction as a pattern. -/
def patOf (c : List (Nat × Nat)) : ErrPat := c.foldl (fun a p => a ^^^ BitVec.ofNat 576 (p.2 % 256 * 2 ^ (8 * p.1))) 0

/-- The data part of a pattern. -/
def ErrPat.data (e : ErrPat) : Line := e.truncate 512

/-- The damage of a poisoned line: all 8 check bytes XORed with 0xFF (R157). -/
def poisonPat : ErrPat := BitVec.ofNat 576 ((2 ^ 64 - 1) * 2 ^ 512)

/-- The decoder of R154 on a block with damage `e`, erasures at known symbols, correcting at most `maxE` unknown errors
(4, or 3 where `DEP_CFG.STRICT` is 1, R155). -/
def decodeBlock (maxE : Nat) (erasures : List Nat) (e : ErrPat) : Decoded :=
  if e = 0 then .clean 0
  else
    let s := syndromes e
    if s.all (· == 0) then .clean e.data
    else
      let c := corrections s erasures
      let unknown := (c.filter (fun p => p.2 != 0 && !erasures.contains p.1)).length
      let r := e ^^^ patOf c
      if 2 * unknown + erasures.length ≤ 8 ∧ unknown ≤ maxE ∧ (syndromes r).all (· == 0) then .corrected r.data
      else .uncorrectable

/-- A depot decoder: it tests for the poison syndrome before it corrects (R157). -/
def decodeDepot (strict : Bool) (erasures : List Nat) (e : ErrPat) : Decoded :=
  if e = 0 then .clean 0
  else if syndromes e = syndromes poisonPat then .uncorrectable
  else decodeBlock (if strict then 3 else 4) erasures e

end Sys2Proof.Machine
end

