-- ==== Sys2Proof/Machine/Regs.lean ====
section
/-!
DEFINITION. Every register of the management address map (R31): its fields with their bits, access codes and resets
(the field maps of spec/ chapters 01 to 15), and the address at which each lies (R32 and the offset tables). The tables
are transcribed from the spec's field maps and offset tables, one row per register and one constant per field.
-/

namespace Sys2Proof.Machine

/-- The registers, under the manual's names. -/
inductive Reg where
  | MOD_IDENT | MOD_DEVICE_ID | MOD_STATUS | TILE_FLAGS | TILE_ARRAY_STATUS | TILE_ARRAY_CODE
  | TILE_ARRAY_ERRBLK | TILE_ARRAY_BUSY | TILE_ARRAY_STALL | TILE_ARRAY_CTL | TILE_CTL | TILE_THREAD_STATE
  | TILE_LOGICAL | TILE_JOB | TILE_JOB_SEED | TILE_STEP | TILE_ENTRY | TILE_FAULT
  | TILE_FAULT_PC | TILE_OUTSTANDING | TILE_ISSUED | TILE_SWITCHES | BLK_STATUS | BLK_RETIRED
  | BLK_RETIRE_PEND | BLK_CTL | BLK_LINK_RD | BLK_LINK_WR | DEP_STATUS | DEP_CFG
  | DEP_BAND | DEP_CTL | DEP_CORR | DEP_UNCORR | DEP_ERR_ADDR | DEP_HOT_OPS
  | DEP_HOT_REFUSED | DEP_HOT_STATUS | DEP_ACC_SAT | DEP_SCRUB | DEP_CH_STATUS | DEP_CH_CTL
  | DEP_CH_SPARE | DEP_CH_ERASE | DEP_CH_CORR | WIN_CFG | WIN_STATUS | WIN_COMMIT
  | WIN_STAGE_PERM | WIN_STAGE_BASE | WIN_STAGE_SIZE | WIN_JOB | WIN_INFLIGHT | WIN_GW_CFG
  | WIN_GW_LIST | WIN_REFUSED | WIN_RETX | WIN_TIMEOUTS | WIN_LAST_REFUSAL | CUE_CFG
  | CUE_STATUS | CUE_CTL | CUE_STORE_BASE | CUE_MBOX_BASE | CUE_FIRED | CUE_LAST_ERR
  | CUE_JOB | CUE_MAP | CUE_COLL | CUE_CTR | STM_CFG | STM_STATUS
  | STM_STEP | STM_DEADLINE | STM_PEERS | STM_JOURNAL | STM_REPLAY | STM_JLEN
  | STM_LAST | STM_LAST_DIV | STM_LATE | DEP_SHN_STATUS | DEP_SHN_CTL | DEP_SHN_QBASE
  | DEP_SHN_ROWS | DEP_SHN_FAILED | DEP_SHN_LAST_ERR | PORT_CFG | PORT_STATUS | PORT_LANES
  | PORT_CTL | PORT_PEER | PORT_STEER | PORT_RING | PORT_RXPWR_LO | PORT_RXPWR_HI
  | PORT_FARPWR_LO | PORT_FARPWR_HI | PORT_MARGIN | PORT_LANE_CORR_LO | PORT_LANE_CORR_HI | PORT_SLASER
  | LAS_CFG | LAS_STATUS | LAS_CTL | LAS_LASER | FAB_CFG | FAB_ARB
  | FAB_CREDIT | FAB_STATUS | FAB_DROPS | FAB_LAST_DROP | FAB_FIBRE_EXP | FAB_ROUTE_MEMBER
  | FAB_ROUTE_DIST | FAB_PORT_CFG | FAB_PORT_STATUS | FAB_PORT_CTL | FAB_PORT_REPLAYS | FAB_PORT_TX
  | FAB_PORT_RX | FAB_PORT_QUEUE | ILK_CFG | ILK_STATUS | ILK_EPOCH | ILK_CTL
  | ILK_MEMBERS | ILK_SUSPECT | ILK_HALL_MEMBERS | ILK_BOXES | ILK_HEALTH | ILK_LAST_CHANGE
  | ILK_CKPT | ILK_COUNTS | ILK_INST | ILK_MARGIN | ILK_DISTRICT | ILK_PTAB
  | ILK_HALL_EPOCH | ILK_SPORT_STATUS | ILK_SPORT_RX | ILK_SPORT_TX | BRG_CFG | BRG_STATUS
  | BRG_CTL | BRG_EPOCH | BRG_GOOD | BRG_ERRORS | BRG_GROUP_SEL | BRG_GROUP_INFO
  | BRG_FLITS_UD | BRG_FLITS_DU | PWR_CFG | THM_CFG | PWR_DEVICE | PWR_STATUS
  | PWR_MEAS | PWR_EXCH | THM_COOLANT | THM_CAL | THM_CHIP | THM_BLK
  | MOD_MSTATUS | MOD_CTL | MOD_CFG | MOD_INPUT | MOD_COOLANT | MOD_HISTORY
  | MOD_I3C | LYS_STATUS | LYS_CFG | LYS_CTL | LYS_ERRORS | LYS_FEAT_DEV
  | LYS_FEAT_PEER | LYS_FEATURES | LYS_DIR | LYS_RECALLS | LYS_TX_FLITS | LYS_RX_FLITS
  | SEC_BOOT | SEC_CTL | SEC_FW_AREA | SEC_CTR0 | SEC_CTR1 | SEC_CTR2
  | SEC_OWNERS | SEC_STAGE | SEC_ATT | SEC_UPD_STATUS | SEC_FW | SEC_RCV_CTL
  | LOG_STATUS | LOG_RETIRE_CFG | LOG_RING_BASE | LOG_TRACE_BASE | LOG_RING_HEAD | LOG_RING_READ
  | LOG_TRACE_HEAD | LOG_TRACE_READ | LOG_BOOK | LOG_BOOK_BUDGET | MODE_STATE | MODE_CFG
  | MODE_CTL | MODE_PORTS | MODE_ARB | WIN_BASE | WIN_SIZE | WIN_PERM
  deriving DecidableEq, Repr

/-- Access codes of R8. -/
inductive Acc where
  | rw | ro | wo | w1c | rc
  deriving DecidableEq, Repr

/-- A field's reset value: a constant, the register's own index (`TILE_LOGICAL`), the port number mod 8 (`PORT_CFG`,
`PORT_STEER`) or the wavelength of laser n (`LAS_LASER`). -/
inductive Rst where
  | const (v : Nat) | index | mod8 | laser
  deriving DecidableEq, Repr

/-- One field of a register: where it lies, how it is accessed, what reset leaves and, for a customer-chosen field, its
range (R14). -/
structure Fld where
  reg   : Reg
  lo    : Nat
  width : Nat
  acc   : Acc
  rst   : Rst
  vmin  : Nat
  vmax  : Nat
  deriving DecidableEq, Repr

/-- The reset value of a field of the register with index `i`. -/
def Fld.reset (f : Fld) (i : Nat) : Nat :=
  match f.rst with
  | .const v => v
  | .index => i
  | .mod8 => i % 8
  | .laser => if i % 24 < 16 then i % 24 / 2 else i % 24 - 16

namespace F

/-! `MOD_IDENT` (R35, spec/01_one_device_two_halves.md). -/
abbrev MOD_IDENT_PART : Fld := ⟨.MOD_IDENT, 0, 16, .ro, .const 18482, 0, 65535⟩
abbrev MOD_IDENT_STEPPING : Fld := ⟨.MOD_IDENT, 16, 8, .ro, .const 1, 0, 255⟩
abbrev MOD_IDENT_GEN : Fld := ⟨.MOD_IDENT, 24, 4, .ro, .const 2, 0, 15⟩
/-! `MOD_DEVICE_ID` (R36, spec/01_one_device_two_halves.md). -/
abbrev MOD_DEVICE_ID_ID : Fld := ⟨.MOD_DEVICE_ID, 0, 16, .ro, .const 65535, 0, 65535⟩
abbrev MOD_DEVICE_ID_VALID : Fld := ⟨.MOD_DEVICE_ID, 16, 1, .ro, .const 0, 0, 1⟩
/-! `MOD_STATUS` (R37, spec/01_one_device_two_halves.md). -/
abbrev MOD_STATUS_UP_READY : Fld := ⟨.MOD_STATUS, 0, 1, .ro, .const 0, 0, 1⟩
abbrev MOD_STATUS_DOWN_READY : Fld := ⟨.MOD_STATUS, 1, 1, .ro, .const 0, 0, 1⟩
abbrev MOD_STATUS_BRIDGE_UP : Fld := ⟨.MOD_STATUS, 2, 1, .ro, .const 0, 0, 1⟩
abbrev MOD_STATUS_CLK_LOSS : Fld := ⟨.MOD_STATUS, 3, 1, .w1c, .const 0, 0, 1⟩
abbrev MOD_STATUS_UP_PRESET : Fld := ⟨.MOD_STATUS, 4, 1, .ro, .const 0, 0, 1⟩
abbrev MOD_STATUS_DOWN_PRESET : Fld := ⟨.MOD_STATUS, 5, 1, .ro, .const 0, 0, 1⟩
abbrev MOD_STATUS_DEV_FAULT : Fld := ⟨.MOD_STATUS, 6, 1, .ro, .const 0, 0, 1⟩
/-! `TILE_FLAGS` (R65, spec/02_dot_cell_array.md). -/
abbrev TILE_FLAGS_INEXACT : Fld := ⟨.TILE_FLAGS, 0, 1, .w1c, .const 0, 0, 1⟩
abbrev TILE_FLAGS_OVF : Fld := ⟨.TILE_FLAGS, 1, 1, .w1c, .const 0, 0, 1⟩
abbrev TILE_FLAGS_NAN : Fld := ⟨.TILE_FLAGS, 2, 1, .w1c, .const 0, 0, 1⟩
abbrev TILE_FLAGS_UNCORR : Fld := ⟨.TILE_FLAGS, 3, 1, .w1c, .const 0, 0, 1⟩
abbrev TILE_FLAGS_CORR : Fld := ⟨.TILE_FLAGS, 4, 1, .w1c, .const 0, 0, 1⟩
abbrev TILE_FLAGS_LAYOUT : Fld := ⟨.TILE_FLAGS, 5, 1, .w1c, .const 0, 0, 1⟩
abbrev TILE_FLAGS_SEQ : Fld := ⟨.TILE_FLAGS, 6, 1, .w1c, .const 0, 0, 1⟩
/-! `TILE_ARRAY_STATUS` (R67, spec/02_dot_cell_array.md). -/
abbrev TILE_ARRAY_STATUS_BUSY : Fld := ⟨.TILE_ARRAY_STATUS, 0, 1, .ro, .const 0, 0, 1⟩
abbrev TILE_ARRAY_STATUS_GROUP_OPEN : Fld := ⟨.TILE_ARRAY_STATUS, 1, 1, .ro, .const 0, 0, 1⟩
abbrev TILE_ARRAY_STATUS_OWNER : Fld := ⟨.TILE_ARRAY_STATUS, 2, 3, .ro, .const 0, 0, 7⟩
abbrev TILE_ARRAY_STATUS_QUEUED : Fld := ⟨.TILE_ARRAY_STATUS, 5, 3, .ro, .const 0, 0, 7⟩
abbrev TILE_ARRAY_STATUS_WAITERS : Fld := ⟨.TILE_ARRAY_STATUS, 8, 8, .ro, .const 0, 0, 255⟩
abbrev TILE_ARRAY_STATUS_DRAINING : Fld := ⟨.TILE_ARRAY_STATUS, 16, 1, .ro, .const 0, 0, 1⟩
abbrev TILE_ARRAY_STATUS_PACKED : Fld := ⟨.TILE_ARRAY_STATUS, 17, 1, .ro, .const 0, 0, 1⟩
/-! `TILE_ARRAY_CODE` (R68, spec/02_dot_cell_array.md). -/
abbrev TILE_ARRAY_CODE_CORR_CNT : Fld := ⟨.TILE_ARRAY_CODE, 0, 16, .rc, .const 0, 0, 65535⟩
abbrev TILE_ARRAY_CODE_UNCORR_CNT : Fld := ⟨.TILE_ARRAY_CODE, 16, 8, .rc, .const 0, 0, 255⟩
/-! `TILE_ARRAY_ERRBLK` (R69, spec/02_dot_cell_array.md). -/
abbrev TILE_ARRAY_ERRBLK_BLOCK : Fld := ⟨.TILE_ARRAY_ERRBLK, 0, 13, .ro, .const 0, 0, 8191⟩
abbrev TILE_ARRAY_ERRBLK_VALID : Fld := ⟨.TILE_ARRAY_ERRBLK, 31, 1, .w1c, .const 0, 0, 1⟩
/-! `TILE_ARRAY_BUSY` (R70, spec/02_dot_cell_array.md). -/
abbrev TILE_ARRAY_BUSY_COUNT : Fld := ⟨.TILE_ARRAY_BUSY, 0, 64, .ro, .const 0, 0, 18446744073709551615⟩
/-! `TILE_ARRAY_STALL` (R70, spec/02_dot_cell_array.md). -/
abbrev TILE_ARRAY_STALL_COUNT : Fld := ⟨.TILE_ARRAY_STALL, 0, 64, .ro, .const 0, 0, 18446744073709551615⟩
/-! `TILE_ARRAY_CTL` (R71, spec/02_dot_cell_array.md). -/
abbrev TILE_ARRAY_CTL_CNT_CLR : Fld := ⟨.TILE_ARRAY_CTL, 0, 1, .wo, .const 0, 0, 1⟩
/-! `TILE_CTL` (R134, spec/04_tile_program.md). -/
abbrev TILE_CTL_RUN : Fld := ⟨.TILE_CTL, 0, 1, .rw, .const 0, 0, 1⟩
abbrev TILE_CTL_START : Fld := ⟨.TILE_CTL, 1, 1, .wo, .const 0, 0, 1⟩
abbrev TILE_CTL_ABORT : Fld := ⟨.TILE_CTL, 2, 1, .wo, .const 0, 0, 1⟩
abbrev TILE_CTL_CNT_CLR : Fld := ⟨.TILE_CTL, 3, 1, .wo, .const 0, 0, 1⟩
/-! `TILE_THREAD_STATE` (R135, spec/04_tile_program.md). -/
abbrev TILE_THREAD_STATE_T0 : Fld := ⟨.TILE_THREAD_STATE, 0, 4, .ro, .const 0, 0, 15⟩
abbrev TILE_THREAD_STATE_T1 : Fld := ⟨.TILE_THREAD_STATE, 4, 4, .ro, .const 0, 0, 15⟩
abbrev TILE_THREAD_STATE_T2 : Fld := ⟨.TILE_THREAD_STATE, 8, 4, .ro, .const 0, 0, 15⟩
abbrev TILE_THREAD_STATE_T3 : Fld := ⟨.TILE_THREAD_STATE, 12, 4, .ro, .const 0, 0, 15⟩
abbrev TILE_THREAD_STATE_T4 : Fld := ⟨.TILE_THREAD_STATE, 16, 4, .ro, .const 0, 0, 15⟩
abbrev TILE_THREAD_STATE_T5 : Fld := ⟨.TILE_THREAD_STATE, 20, 4, .ro, .const 0, 0, 15⟩
abbrev TILE_THREAD_STATE_T6 : Fld := ⟨.TILE_THREAD_STATE, 24, 4, .ro, .const 0, 0, 15⟩
abbrev TILE_THREAD_STATE_T7 : Fld := ⟨.TILE_THREAD_STATE, 28, 4, .ro, .const 0, 0, 15⟩
/-! `TILE_LOGICAL` (R136, spec/04_tile_program.md). -/
abbrev TILE_LOGICAL_LTN : Fld := ⟨.TILE_LOGICAL, 0, 12, .rw, .index, 0, 4095⟩
/-! `TILE_JOB` (R137, spec/04_tile_program.md). -/
abbrev TILE_JOB_JOB : Fld := ⟨.TILE_JOB, 0, 12, .rw, .const 0, 0, 4095⟩
/-! `TILE_JOB_SEED` (R138, spec/04_tile_program.md). -/
abbrev TILE_JOB_SEED_SEED : Fld := ⟨.TILE_JOB_SEED, 0, 64, .rw, .const 0, 0, 18446744073709551615⟩
/-! `TILE_STEP` (R138, spec/04_tile_program.md). -/
abbrev TILE_STEP_STEP : Fld := ⟨.TILE_STEP, 0, 40, .rw, .const 0, 0, 1099511627775⟩
/-! `TILE_ENTRY` (R139, spec/04_tile_program.md). -/
abbrev TILE_ENTRY_ENTRY : Fld := ⟨.TILE_ENTRY, 3, 12, .rw, .const 0, 0, 4095⟩
/-! `TILE_FAULT` (R140, spec/04_tile_program.md). -/
abbrev TILE_FAULT_CAUSE : Fld := ⟨.TILE_FAULT, 0, 4, .ro, .const 0, 0, 15⟩
abbrev TILE_FAULT_THREAD : Fld := ⟨.TILE_FAULT, 4, 3, .ro, .const 0, 0, 7⟩
abbrev TILE_FAULT_BLOCK : Fld := ⟨.TILE_FAULT, 8, 13, .ro, .const 0, 0, 8191⟩
abbrev TILE_FAULT_VALID : Fld := ⟨.TILE_FAULT, 31, 1, .w1c, .const 0, 0, 1⟩
/-! `TILE_FAULT_PC` (R140, spec/04_tile_program.md). -/
abbrev TILE_FAULT_PC_PC : Fld := ⟨.TILE_FAULT_PC, 0, 15, .ro, .const 0, 0, 32767⟩
/-! `TILE_OUTSTANDING` (R141, spec/04_tile_program.md). -/
abbrev TILE_OUTSTANDING_COUNT : Fld := ⟨.TILE_OUTSTANDING, 0, 10, .ro, .const 0, 0, 1023⟩
/-! `TILE_ISSUED` (R142, spec/04_tile_program.md). -/
abbrev TILE_ISSUED_COUNT : Fld := ⟨.TILE_ISSUED, 0, 64, .ro, .const 0, 0, 18446744073709551615⟩
/-! `TILE_SWITCHES` (R142, spec/04_tile_program.md). -/
abbrev TILE_SWITCHES_COUNT : Fld := ⟨.TILE_SWITCHES, 0, 64, .ro, .const 0, 0, 18446744073709551615⟩
/-! `BLK_STATUS` (R144, spec/04_tile_program.md). -/
abbrev BLK_STATUS_CTRL_UP : Fld := ⟨.BLK_STATUS, 0, 1, .ro, .const 0, 0, 1⟩
abbrev BLK_STATUS_LINK_UP : Fld := ⟨.BLK_STATUS, 1, 1, .ro, .const 0, 0, 1⟩
abbrev BLK_STATUS_RETIRED_CNT : Fld := ⟨.BLK_STATUS, 8, 7, .ro, .const 0, 0, 127⟩
/-! `BLK_RETIRED` (R145, spec/04_tile_program.md). -/
abbrev BLK_RETIRED_MAP : Fld := ⟨.BLK_RETIRED, 0, 64, .ro, .const 0, 0, 18446744073709551615⟩
/-! `BLK_RETIRE_PEND` (R145, spec/04_tile_program.md). -/
abbrev BLK_RETIRE_PEND_MAP : Fld := ⟨.BLK_RETIRE_PEND, 0, 64, .ro, .const 0, 0, 18446744073709551615⟩
/-! `BLK_CTL` (R146, spec/04_tile_program.md). -/
abbrev BLK_CTL_TILE : Fld := ⟨.BLK_CTL, 0, 6, .rw, .const 0, 0, 63⟩
abbrev BLK_CTL_RETIRE : Fld := ⟨.BLK_CTL, 6, 1, .wo, .const 0, 0, 1⟩
/-! `BLK_LINK_RD` (R147, spec/04_tile_program.md). -/
abbrev BLK_LINK_RD_BYTES : Fld := ⟨.BLK_LINK_RD, 0, 64, .ro, .const 0, 0, 18446744073709551615⟩
/-! `BLK_LINK_WR` (R147, spec/04_tile_program.md). -/
abbrev BLK_LINK_WR_BYTES : Fld := ⟨.BLK_LINK_WR, 0, 64, .ro, .const 0, 0, 18446744073709551615⟩
/-! `DEP_STATUS` (R183, spec/05_depot.md). -/
abbrev DEP_STATUS_READY : Fld := ⟨.DEP_STATUS, 0, 1, .ro, .const 0, 0, 1⟩
abbrev DEP_STATUS_INIT_BUSY : Fld := ⟨.DEP_STATUS, 1, 1, .ro, .const 0, 0, 1⟩
abbrev DEP_STATUS_DEGRADED : Fld := ⟨.DEP_STATUS, 2, 1, .ro, .const 0, 0, 1⟩
abbrev DEP_STATUS_FAILED : Fld := ⟨.DEP_STATUS, 3, 1, .ro, .const 0, 0, 1⟩
abbrev DEP_STATUS_RETRAINING : Fld := ⟨.DEP_STATUS, 8, 8, .ro, .const 0, 0, 255⟩
/-! `DEP_CFG` (R184, spec/05_depot.md). -/
abbrev DEP_CFG_ERASE_THR : Fld := ⟨.DEP_CFG, 0, 8, .rw, .const 16, 4, 255⟩
abbrev DEP_CFG_SCRUB_H : Fld := ⟨.DEP_CFG, 8, 8, .rw, .const 24, 1, 168⟩
abbrev DEP_CFG_QWAYS : Fld := ⟨.DEP_CFG, 16, 3, .ro, .const 1, 0, 7⟩
abbrev DEP_CFG_STRICT : Fld := ⟨.DEP_CFG, 19, 1, .rw, .const 0, 0, 1⟩
/-! `DEP_BAND` (R185, spec/05_depot.md). -/
abbrev DEP_BAND_BAND : Fld := ⟨.DEP_BAND, 0, 3, .ro, .const 0, 0, 7⟩
abbrev DEP_BAND_REFRESH_MS : Fld := ⟨.DEP_BAND, 8, 8, .ro, .const 32, 0, 255⟩
abbrev DEP_BAND_BEAT : Fld := ⟨.DEP_BAND, 16, 10, .ro, .const 512, 0, 1023⟩
/-! `DEP_CTL` (R186, spec/05_depot.md). -/
abbrev DEP_CTL_CNT_CLR : Fld := ⟨.DEP_CTL, 0, 1, .wo, .const 0, 0, 1⟩
abbrev DEP_CTL_SCRUB_NOW : Fld := ⟨.DEP_CTL, 1, 1, .wo, .const 0, 0, 1⟩
/-! `DEP_CORR` (R187, spec/05_depot.md). -/
abbrev DEP_CORR_COUNT : Fld := ⟨.DEP_CORR, 0, 64, .ro, .const 0, 0, 18446744073709551615⟩
/-! `DEP_UNCORR` (R187, spec/05_depot.md). -/
abbrev DEP_UNCORR_COUNT : Fld := ⟨.DEP_UNCORR, 0, 64, .ro, .const 0, 0, 18446744073709551615⟩
/-! `DEP_ERR_ADDR` (R188, spec/05_depot.md). -/
abbrev DEP_ERR_ADDR_ADDR : Fld := ⟨.DEP_ERR_ADDR, 6, 30, .ro, .const 0, 0, 1073741823⟩
abbrev DEP_ERR_ADDR_VALID : Fld := ⟨.DEP_ERR_ADDR, 63, 1, .w1c, .const 0, 0, 1⟩
/-! `DEP_HOT_OPS` (R189, spec/05_depot.md). -/
abbrev DEP_HOT_OPS_COUNT : Fld := ⟨.DEP_HOT_OPS, 0, 64, .ro, .const 0, 0, 18446744073709551615⟩
/-! `DEP_HOT_REFUSED` (R189, spec/05_depot.md). -/
abbrev DEP_HOT_REFUSED_COUNT : Fld := ⟨.DEP_HOT_REFUSED, 0, 64, .ro, .const 0, 0, 18446744073709551615⟩
/-! `DEP_HOT_STATUS` (R189, spec/05_depot.md). -/
abbrev DEP_HOT_STATUS_INUSE : Fld := ⟨.DEP_HOT_STATUS, 0, 13, .ro, .const 0, 0, 8191⟩
abbrev DEP_HOT_STATUS_PEAK : Fld := ⟨.DEP_HOT_STATUS, 16, 13, .rc, .const 0, 0, 8191⟩
/-! `DEP_ACC_SAT` (R190, spec/05_depot.md). -/
abbrev DEP_ACC_SAT_COUNT : Fld := ⟨.DEP_ACC_SAT, 0, 16, .rc, .const 0, 0, 65535⟩
/-! `DEP_SCRUB` (R191, spec/05_depot.md). -/
abbrev DEP_SCRUB_PASSES : Fld := ⟨.DEP_SCRUB, 0, 16, .ro, .const 0, 0, 65535⟩
abbrev DEP_SCRUB_PROGRESS : Fld := ⟨.DEP_SCRUB, 16, 8, .ro, .const 0, 0, 255⟩
/-! `DEP_CH_STATUS` (R192, spec/05_depot.md). -/
abbrev DEP_CH_STATUS_TRAINED : Fld := ⟨.DEP_CH_STATUS, 0, 1, .ro, .const 0, 0, 1⟩
abbrev DEP_CH_STATUS_RETRAINING : Fld := ⟨.DEP_CH_STATUS, 1, 1, .ro, .const 0, 0, 1⟩
abbrev DEP_CH_STATUS_FAILED : Fld := ⟨.DEP_CH_STATUS, 2, 1, .ro, .const 0, 0, 1⟩
abbrev DEP_CH_STATUS_SPARES_USED : Fld := ⟨.DEP_CH_STATUS, 8, 3, .ro, .const 0, 0, 7⟩
abbrev DEP_CH_STATUS_ERASED : Fld := ⟨.DEP_CH_STATUS, 12, 3, .ro, .const 0, 0, 7⟩
abbrev DEP_CH_STATUS_LAST_SYM : Fld := ⟨.DEP_CH_STATUS, 16, 7, .ro, .const 0, 0, 127⟩
abbrev DEP_CH_STATUS_LSV : Fld := ⟨.DEP_CH_STATUS, 23, 1, .ro, .const 0, 0, 1⟩
/-! `DEP_CH_CTL` (R192, spec/05_depot.md). -/
abbrev DEP_CH_CTL_RETRAIN : Fld := ⟨.DEP_CH_CTL, 0, 1, .wo, .const 0, 0, 1⟩
/-! `DEP_CH_SPARE` (R193, spec/05_depot.md). -/
abbrev DEP_CH_SPARE_VIA0 : Fld := ⟨.DEP_CH_SPARE, 0, 7, .ro, .const 0, 0, 127⟩
abbrev DEP_CH_SPARE_VIA1 : Fld := ⟨.DEP_CH_SPARE, 8, 7, .ro, .const 0, 0, 127⟩
abbrev DEP_CH_SPARE_VIA2 : Fld := ⟨.DEP_CH_SPARE, 16, 7, .ro, .const 0, 0, 127⟩
abbrev DEP_CH_SPARE_VIA3 : Fld := ⟨.DEP_CH_SPARE, 24, 7, .ro, .const 0, 0, 127⟩
abbrev DEP_CH_SPARE_VALID0 : Fld := ⟨.DEP_CH_SPARE, 7, 1, .ro, .const 0, 0, 1⟩
abbrev DEP_CH_SPARE_VALID1 : Fld := ⟨.DEP_CH_SPARE, 15, 1, .ro, .const 0, 0, 1⟩
abbrev DEP_CH_SPARE_VALID2 : Fld := ⟨.DEP_CH_SPARE, 23, 1, .ro, .const 0, 0, 1⟩
abbrev DEP_CH_SPARE_VALID3 : Fld := ⟨.DEP_CH_SPARE, 31, 1, .ro, .const 0, 0, 1⟩
/-! `DEP_CH_ERASE` (R193, spec/05_depot.md). -/
abbrev DEP_CH_ERASE_VIA0 : Fld := ⟨.DEP_CH_ERASE, 0, 7, .ro, .const 0, 0, 127⟩
abbrev DEP_CH_ERASE_VIA1 : Fld := ⟨.DEP_CH_ERASE, 8, 7, .ro, .const 0, 0, 127⟩
abbrev DEP_CH_ERASE_VIA2 : Fld := ⟨.DEP_CH_ERASE, 16, 7, .ro, .const 0, 0, 127⟩
abbrev DEP_CH_ERASE_VIA3 : Fld := ⟨.DEP_CH_ERASE, 24, 7, .ro, .const 0, 0, 127⟩
abbrev DEP_CH_ERASE_VALID0 : Fld := ⟨.DEP_CH_ERASE, 7, 1, .ro, .const 0, 0, 1⟩
abbrev DEP_CH_ERASE_VALID1 : Fld := ⟨.DEP_CH_ERASE, 15, 1, .ro, .const 0, 0, 1⟩
abbrev DEP_CH_ERASE_VALID2 : Fld := ⟨.DEP_CH_ERASE, 23, 1, .ro, .const 0, 0, 1⟩
abbrev DEP_CH_ERASE_VALID3 : Fld := ⟨.DEP_CH_ERASE, 31, 1, .ro, .const 0, 0, 1⟩
/-! `DEP_CH_CORR` (R194, spec/05_depot.md). -/
abbrev DEP_CH_CORR_CORR : Fld := ⟨.DEP_CH_CORR, 0, 16, .rc, .const 0, 0, 65535⟩
abbrev DEP_CH_CORR_UNCORR : Fld := ⟨.DEP_CH_CORR, 16, 8, .rc, .const 0, 0, 255⟩
/-! `WIN_CFG` (R223, spec/06_one_memory_space.md). -/
abbrev WIN_CFG_RETX : Fld := ⟨.WIN_CFG, 0, 10, .rw, .const 100, 20, 1000⟩
abbrev WIN_CFG_TIMEOUT : Fld := ⟨.WIN_CFG, 16, 7, .rw, .const 2, 1, 100⟩
/-! `WIN_STATUS` (R224, spec/06_one_memory_space.md). -/
abbrev WIN_STATUS_BUSY : Fld := ⟨.WIN_STATUS, 0, 1, .ro, .const 0, 0, 1⟩
abbrev WIN_STATUS_BOUND : Fld := ⟨.WIN_STATUS, 8, 7, .ro, .const 0, 0, 127⟩
abbrev WIN_STATUS_GATEWAY : Fld := ⟨.WIN_STATUS, 16, 1, .ro, .const 0, 0, 1⟩
/-! `WIN_COMMIT` (R225, spec/06_one_memory_space.md). -/
abbrev WIN_COMMIT_SLOT : Fld := ⟨.WIN_COMMIT, 0, 6, .rw, .const 0, 0, 63⟩
abbrev WIN_COMMIT_WINDOW : Fld := ⟨.WIN_COMMIT, 6, 6, .rw, .const 0, 0, 63⟩
abbrev WIN_COMMIT_OP : Fld := ⟨.WIN_COMMIT, 12, 2, .rw, .const 0, 0, 3⟩
abbrev WIN_COMMIT_JOB : Fld := ⟨.WIN_COMMIT, 14, 12, .rw, .const 0, 0, 4095⟩
abbrev WIN_COMMIT_GO : Fld := ⟨.WIN_COMMIT, 31, 1, .wo, .const 0, 0, 1⟩
/-! `WIN_STAGE_PERM` (R226, spec/06_one_memory_space.md). -/
abbrev WIN_STAGE_PERM_R : Fld := ⟨.WIN_STAGE_PERM, 0, 1, .rw, .const 0, 0, 1⟩
abbrev WIN_STAGE_PERM_W : Fld := ⟨.WIN_STAGE_PERM, 1, 1, .rw, .const 0, 0, 1⟩
abbrev WIN_STAGE_PERM_A : Fld := ⟨.WIN_STAGE_PERM, 2, 1, .rw, .const 0, 0, 1⟩
abbrev WIN_STAGE_PERM_LOCAL : Fld := ⟨.WIN_STAGE_PERM, 3, 1, .rw, .const 0, 0, 1⟩
abbrev WIN_STAGE_PERM_VALID : Fld := ⟨.WIN_STAGE_PERM, 31, 1, .rw, .const 0, 0, 1⟩
/-! `WIN_STAGE_BASE` (R226, spec/06_one_memory_space.md). -/
abbrev WIN_STAGE_BASE_BASE : Fld := ⟨.WIN_STAGE_BASE, 12, 24, .rw, .const 0, 0, 16777215⟩
/-! `WIN_STAGE_SIZE` (R226, spec/06_one_memory_space.md). -/
abbrev WIN_STAGE_SIZE_SIZE : Fld := ⟨.WIN_STAGE_SIZE, 12, 24, .rw, .const 0, 0, 16777215⟩
/-! `WIN_JOB` (R228, spec/06_one_memory_space.md). -/
abbrev WIN_JOB_JOB : Fld := ⟨.WIN_JOB, 0, 12, .ro, .const 0, 0, 4095⟩
abbrev WIN_JOB_BOUND : Fld := ⟨.WIN_JOB, 12, 1, .ro, .const 0, 0, 1⟩
/-! `WIN_INFLIGHT` (R228, spec/06_one_memory_space.md). -/
abbrev WIN_INFLIGHT_COUNT : Fld := ⟨.WIN_INFLIGHT, 0, 16, .ro, .const 0, 0, 65535⟩
/-! `WIN_GW_CFG` (R229, spec/06_one_memory_space.md). -/
abbrev WIN_GW_CFG_GATEWAY : Fld := ⟨.WIN_GW_CFG, 0, 1, .ro, .const 0, 0, 1⟩
abbrev WIN_GW_CFG_NGW : Fld := ⟨.WIN_GW_CFG, 4, 3, .ro, .const 0, 0, 7⟩
abbrev WIN_GW_CFG_DELAY : Fld := ⟨.WIN_GW_CFG, 8, 8, .rw, .const 20, 5, 200⟩
/-! `WIN_GW_LIST` (R229, spec/06_one_memory_space.md). -/
abbrev WIN_GW_LIST_GW0 : Fld := ⟨.WIN_GW_LIST, 0, 16, .ro, .const 65535, 0, 65535⟩
abbrev WIN_GW_LIST_GW1 : Fld := ⟨.WIN_GW_LIST, 16, 16, .ro, .const 65535, 0, 65535⟩
abbrev WIN_GW_LIST_GW2 : Fld := ⟨.WIN_GW_LIST, 32, 16, .ro, .const 65535, 0, 65535⟩
abbrev WIN_GW_LIST_GW3 : Fld := ⟨.WIN_GW_LIST, 48, 16, .ro, .const 65535, 0, 65535⟩
/-! `WIN_REFUSED` (R230, spec/06_one_memory_space.md). -/
abbrev WIN_REFUSED_COUNT : Fld := ⟨.WIN_REFUSED, 0, 64, .ro, .const 0, 0, 18446744073709551615⟩
/-! `WIN_RETX` (R230, spec/06_one_memory_space.md). -/
abbrev WIN_RETX_COUNT : Fld := ⟨.WIN_RETX, 0, 64, .ro, .const 0, 0, 18446744073709551615⟩
/-! `WIN_TIMEOUTS` (R230, spec/06_one_memory_space.md). -/
abbrev WIN_TIMEOUTS_COUNT : Fld := ⟨.WIN_TIMEOUTS, 0, 16, .rc, .const 0, 0, 65535⟩
/-! `WIN_LAST_REFUSAL` (R231, spec/06_one_memory_space.md). -/
abbrev WIN_LAST_REFUSAL_STATUS : Fld := ⟨.WIN_LAST_REFUSAL, 0, 8, .ro, .const 0, 0, 255⟩
abbrev WIN_LAST_REFUSAL_SRC : Fld := ⟨.WIN_LAST_REFUSAL, 16, 16, .ro, .const 0, 0, 65535⟩
abbrev WIN_LAST_REFUSAL_JOB : Fld := ⟨.WIN_LAST_REFUSAL, 32, 12, .ro, .const 0, 0, 4095⟩
abbrev WIN_LAST_REFUSAL_WINDOW : Fld := ⟨.WIN_LAST_REFUSAL, 44, 6, .ro, .const 0, 0, 63⟩
abbrev WIN_LAST_REFUSAL_VALID : Fld := ⟨.WIN_LAST_REFUSAL, 63, 1, .w1c, .const 0, 0, 1⟩
/-! `CUE_CFG` (R267, spec/07_cue_lists_and_gradients.md). -/
abbrev CUE_CFG_CLOSE_TO : Fld := ⟨.CUE_CFG, 0, 10, .rw, .const 10, 1, 1000⟩
/-! `CUE_STATUS` (R267, spec/07_cue_lists_and_gradients.md). -/
abbrev CUE_STATUS_READY : Fld := ⟨.CUE_STATUS, 0, 1, .ro, .const 0, 0, 1⟩
abbrev CUE_STATUS_ARMED : Fld := ⟨.CUE_STATUS, 1, 13, .ro, .const 0, 0, 8191⟩
abbrev CUE_STATUS_HELD : Fld := ⟨.CUE_STATUS, 16, 11, .ro, .const 0, 0, 2047⟩
/-! `CUE_CTL` (R267, spec/07_cue_lists_and_gradients.md). -/
abbrev CUE_CTL_CNT_CLR : Fld := ⟨.CUE_CTL, 0, 1, .wo, .const 0, 0, 1⟩
abbrev CUE_CTL_SLOT : Fld := ⟨.CUE_CTL, 2, 6, .rw, .const 0, 0, 63⟩
abbrev CUE_CTL_ABORT : Fld := ⟨.CUE_CTL, 8, 1, .wo, .const 0, 0, 1⟩
/-! `CUE_STORE_BASE` (R267, spec/07_cue_lists_and_gradients.md). -/
abbrev CUE_STORE_BASE_ADDR : Fld := ⟨.CUE_STORE_BASE, 12, 24, .ro, .const 0, 0, 16777215⟩
/-! `CUE_MBOX_BASE` (R267, spec/07_cue_lists_and_gradients.md). -/
abbrev CUE_MBOX_BASE_ADDR : Fld := ⟨.CUE_MBOX_BASE, 12, 24, .ro, .const 0, 0, 16777215⟩
/-! `CUE_FIRED` (R267, spec/07_cue_lists_and_gradients.md). -/
abbrev CUE_FIRED_COUNT : Fld := ⟨.CUE_FIRED, 0, 64, .ro, .const 0, 0, 18446744073709551615⟩
/-! `CUE_LAST_ERR` (R267, spec/07_cue_lists_and_gradients.md). -/
abbrev CUE_LAST_ERR_CAUSE : Fld := ⟨.CUE_LAST_ERR, 0, 4, .ro, .const 0, 0, 15⟩
abbrev CUE_LAST_ERR_SLOT : Fld := ⟨.CUE_LAST_ERR, 4, 14, .ro, .const 0, 0, 16383⟩
abbrev CUE_LAST_ERR_JSLOT : Fld := ⟨.CUE_LAST_ERR, 18, 6, .ro, .const 0, 0, 63⟩
abbrev CUE_LAST_ERR_STATUS : Fld := ⟨.CUE_LAST_ERR, 24, 8, .ro, .const 0, 0, 255⟩
abbrev CUE_LAST_ERR_VALID : Fld := ⟨.CUE_LAST_ERR, 63, 1, .w1c, .const 0, 0, 1⟩
/-! `CUE_JOB` (R267, spec/07_cue_lists_and_gradients.md). -/
abbrev CUE_JOB_CTR_BASE : Fld := ⟨.CUE_JOB, 0, 12, .rw, .const 0, 0, 4095⟩
abbrev CUE_JOB_CTR_CNT : Fld := ⟨.CUE_JOB, 12, 13, .rw, .const 0, 0, 4096⟩
abbrev CUE_JOB_MMAP : Fld := ⟨.CUE_JOB, 32, 8, .rw, .const 0, 0, 255⟩
abbrev CUE_JOB_MBOX_WIN : Fld := ⟨.CUE_JOB, 40, 6, .rw, .const 0, 0, 63⟩
abbrev CUE_JOB_BK : Fld := ⟨.CUE_JOB, 46, 2, .rw, .const 1, 0, 2⟩
abbrev CUE_JOB_K : Fld := ⟨.CUE_JOB, 48, 3, .rw, .const 2, 0, 7⟩
abbrev CUE_JOB_SCALE0 : Fld := ⟨.CUE_JOB, 55, 8, .rw, .const 111, 1, 254⟩
abbrev CUE_JOB_VALID : Fld := ⟨.CUE_JOB, 63, 1, .rw, .const 0, 0, 1⟩
/-! `CUE_MAP` (R267, spec/07_cue_lists_and_gradients.md). -/
abbrev CUE_MAP_ADDR : Fld := ⟨.CUE_MAP, 6, 30, .rw, .const 0, 0, 1073741823⟩
abbrev CUE_MAP_N : Fld := ⟨.CUE_MAP, 36, 15, .rw, .const 0, 1, 16384⟩
abbrev CUE_MAP_VALID : Fld := ⟨.CUE_MAP, 63, 1, .rw, .const 0, 0, 1⟩
/-! `CUE_COLL` (R267, spec/07_cue_lists_and_gradients.md). -/
abbrev CUE_COLL_STATE : Fld := ⟨.CUE_COLL, 0, 3, .ro, .const 0, 0, 7⟩
abbrev CUE_COLL_ERROR : Fld := ⟨.CUE_COLL, 4, 4, .ro, .const 0, 0, 15⟩
abbrev CUE_COLL_DESC : Fld := ⟨.CUE_COLL, 8, 14, .ro, .const 0, 0, 16383⟩
/-! `CUE_CTR` (R267, spec/07_cue_lists_and_gradients.md). -/
abbrev CUE_CTR_VALUE : Fld := ⟨.CUE_CTR, 0, 32, .rw, .const 0, 0, 4294967295⟩
/-! `STM_CFG` (R267, spec/07_cue_lists_and_gradients.md). -/
abbrev STM_CFG_ENABLE : Fld := ⟨.STM_CFG, 0, 1, .rw, .const 0, 0, 1⟩
abbrev STM_CFG_POLICY : Fld := ⟨.STM_CFG, 1, 1, .rw, .const 0, 0, 1⟩
abbrev STM_CFG_REPLAY : Fld := ⟨.STM_CFG, 2, 1, .rw, .const 0, 0, 1⟩
abbrev STM_CFG_BACKSTOP : Fld := ⟨.STM_CFG, 16, 16, .rw, .const 1000, 1, 60000⟩
/-! `STM_STATUS` (R267, spec/07_cue_lists_and_gradients.md). -/
abbrev STM_STATUS_OPEN : Fld := ⟨.STM_STATUS, 0, 1, .ro, .const 0, 0, 1⟩
abbrev STM_STATUS_ACTIVE : Fld := ⟨.STM_STATUS, 1, 1, .ro, .const 0, 0, 1⟩
abbrev STM_STATUS_MIRRORED : Fld := ⟨.STM_STATUS, 2, 1, .ro, .const 0, 0, 1⟩
abbrev STM_STATUS_MARKED : Fld := ⟨.STM_STATUS, 16, 15, .ro, .const 0, 0, 32767⟩
/-! `STM_STEP` (R267, spec/07_cue_lists_and_gradients.md). -/
abbrev STM_STEP_STEP : Fld := ⟨.STM_STEP, 0, 40, .rw, .const 0, 0, 1099511627775⟩
/-! `STM_DEADLINE` (R267, spec/07_cue_lists_and_gradients.md). -/
abbrev STM_DEADLINE_US : Fld := ⟨.STM_DEADLINE, 0, 32, .rw, .const 2000000, 50, 100000000⟩
/-! `STM_PEERS` (R267, spec/07_cue_lists_and_gradients.md). -/
abbrev STM_PEERS_PRIMARY : Fld := ⟨.STM_PEERS, 0, 16, .rw, .const 65535, 0, 65535⟩
abbrev STM_PEERS_STANDBY : Fld := ⟨.STM_PEERS, 16, 16, .rw, .const 65535, 0, 65535⟩
/-! `STM_JOURNAL` (R267, spec/07_cue_lists_and_gradients.md). -/
abbrev STM_JOURNAL_ADDR : Fld := ⟨.STM_JOURNAL, 0, 64, .rw, .const 0, 0, 18446744073709551615⟩
/-! `STM_REPLAY` (R267, spec/07_cue_lists_and_gradients.md). -/
abbrev STM_REPLAY_ADDR : Fld := ⟨.STM_REPLAY, 0, 64, .rw, .const 0, 0, 18446744073709551615⟩
/-! `STM_JLEN` (R267, spec/07_cue_lists_and_gradients.md). -/
abbrev STM_JLEN_RECORDS : Fld := ⟨.STM_JLEN, 0, 16, .rw, .const 1024, 16, 65535⟩
/-! `STM_LAST` (R267, spec/07_cue_lists_and_gradients.md). -/
abbrev STM_LAST_STEP : Fld := ⟨.STM_LAST, 0, 40, .ro, .const 0, 0, 1099511627775⟩
abbrev STM_LAST_NINC : Fld := ⟨.STM_LAST, 40, 15, .ro, .const 0, 0, 32767⟩
abbrev STM_LAST_FLAGS : Fld := ⟨.STM_LAST, 56, 8, .ro, .const 0, 0, 255⟩
/-! `STM_LAST_DIV` (R267, spec/07_cue_lists_and_gradients.md). -/
abbrev STM_LAST_DIV_DIVISOR : Fld := ⟨.STM_LAST_DIV, 0, 32, .ro, .const 0, 0, 4294967295⟩
/-! `STM_LATE` (R267, spec/07_cue_lists_and_gradients.md). -/
abbrev STM_LATE_LATE : Fld := ⟨.STM_LATE, 0, 16, .rc, .const 0, 0, 65535⟩
abbrev STM_LATE_POISONED : Fld := ⟨.STM_LATE, 16, 16, .rc, .const 0, 0, 65535⟩
/-! `DEP_SHN_STATUS` (R289, spec/08_long_sequences.md). -/
abbrev DEP_SHN_STATUS_READY : Fld := ⟨.DEP_SHN_STATUS, 0, 1, .ro, .const 0, 0, 1⟩
abbrev DEP_SHN_STATUS_PEND_UP : Fld := ⟨.DEP_SHN_STATUS, 8, 9, .ro, .const 0, 0, 511⟩
abbrev DEP_SHN_STATUS_PEND_DOWN : Fld := ⟨.DEP_SHN_STATUS, 20, 9, .ro, .const 0, 0, 511⟩
/-! `DEP_SHN_CTL` (R289, spec/08_long_sequences.md). -/
abbrev DEP_SHN_CTL_CNT_CLR : Fld := ⟨.DEP_SHN_CTL, 0, 1, .wo, .const 0, 0, 1⟩
/-! `DEP_SHN_QBASE` (R289, spec/08_long_sequences.md). -/
abbrev DEP_SHN_QBASE_ADDR : Fld := ⟨.DEP_SHN_QBASE, 19, 17, .ro, .const 0, 0, 131071⟩
/-! `DEP_SHN_ROWS` (R289, spec/08_long_sequences.md). -/
abbrev DEP_SHN_ROWS_COUNT : Fld := ⟨.DEP_SHN_ROWS, 0, 64, .ro, .const 0, 0, 18446744073709551615⟩
/-! `DEP_SHN_FAILED` (R289, spec/08_long_sequences.md). -/
abbrev DEP_SHN_FAILED_COUNT : Fld := ⟨.DEP_SHN_FAILED, 0, 64, .ro, .const 0, 0, 18446744073709551615⟩
/-! `DEP_SHN_LAST_ERR` (R289, spec/08_long_sequences.md). -/
abbrev DEP_SHN_LAST_ERR_KIND : Fld := ⟨.DEP_SHN_LAST_ERR, 0, 4, .ro, .const 0, 0, 15⟩
abbrev DEP_SHN_LAST_ERR_STATUS : Fld := ⟨.DEP_SHN_LAST_ERR, 8, 8, .ro, .const 0, 0, 255⟩
abbrev DEP_SHN_LAST_ERR_JOB : Fld := ⟨.DEP_SHN_LAST_ERR, 16, 12, .ro, .const 0, 0, 4095⟩
abbrev DEP_SHN_LAST_ERR_TILE : Fld := ⟨.DEP_SHN_LAST_ERR, 32, 12, .ro, .const 0, 0, 4095⟩
abbrev DEP_SHN_LAST_ERR_VALID : Fld := ⟨.DEP_SHN_LAST_ERR, 63, 1, .w1c, .const 0, 0, 1⟩
/-! `PORT_CFG` (R326, spec/09_light.md). -/
abbrev PORT_CFG_ENABLE : Fld := ⟨.PORT_CFG, 0, 1, .rw, .const 0, 0, 1⟩
abbrev PORT_CFG_MODE : Fld := ⟨.PORT_CFG, 1, 1, .rw, .const 0, 0, 1⟩
abbrev PORT_CFG_REHEARSE : Fld := ⟨.PORT_CFG, 2, 1, .rw, .const 0, 0, 1⟩
abbrev PORT_CFG_MIN_WIDTH : Fld := ⟨.PORT_CFG, 3, 2, .rw, .const 0, 0, 2⟩
abbrev PORT_CFG_FIBRE_DEF : Fld := ⟨.PORT_CFG, 5, 4, .ro, .mod8, 0, 15⟩
/-! `PORT_STATUS` (R327, spec/09_light.md). -/
abbrev PORT_STATUS_UP : Fld := ⟨.PORT_STATUS, 0, 1, .ro, .const 0, 0, 1⟩
abbrev PORT_STATUS_TX_WIDTH : Fld := ⟨.PORT_STATUS, 1, 4, .ro, .const 0, 0, 15⟩
abbrev PORT_STATUS_RX_WIDTH : Fld := ⟨.PORT_STATUS, 5, 4, .ro, .const 0, 0, 15⟩
abbrev PORT_STATUS_STEERING : Fld := ⟨.PORT_STATUS, 9, 1, .ro, .const 0, 0, 1⟩
abbrev PORT_STATUS_REHEARSING : Fld := ⟨.PORT_STATUS, 10, 1, .ro, .const 0, 0, 1⟩
abbrev PORT_STATUS_TRAINING : Fld := ⟨.PORT_STATUS, 11, 1, .ro, .const 0, 0, 1⟩
abbrev PORT_STATUS_DARK : Fld := ⟨.PORT_STATUS, 12, 1, .ro, .const 1, 0, 1⟩
abbrev PORT_STATUS_NARROW_CO : Fld := ⟨.PORT_STATUS, 13, 1, .ro, .const 0, 0, 1⟩
abbrev PORT_STATUS_UH1 : Fld := ⟨.PORT_STATUS, 14, 1, .ro, .const 0, 0, 1⟩
abbrev PORT_STATUS_STEER_FAIL : Fld := ⟨.PORT_STATUS, 15, 1, .w1c, .const 0, 0, 1⟩
abbrev PORT_STATUS_REH_FAIL : Fld := ⟨.PORT_STATUS, 16, 1, .w1c, .const 0, 0, 1⟩
/-! `PORT_LANES` (R328, spec/09_light.md). -/
abbrev PORT_LANES_RX_GOOD : Fld := ⟨.PORT_LANES, 0, 8, .ro, .const 0, 0, 255⟩
abbrev PORT_LANES_RX_LIVE : Fld := ⟨.PORT_LANES, 8, 8, .ro, .const 0, 0, 255⟩
abbrev PORT_LANES_TX_LIVE : Fld := ⟨.PORT_LANES, 16, 8, .ro, .const 0, 0, 255⟩
abbrev PORT_LANES_PEER_RXMASK : Fld := ⟨.PORT_LANES, 24, 8, .ro, .const 0, 0, 255⟩
/-! `PORT_CTL` (R329, spec/09_light.md). -/
abbrev PORT_CTL_CNT_CLR : Fld := ⟨.PORT_CTL, 0, 1, .wo, .const 0, 0, 1⟩
abbrev PORT_CTL_RETRAIN : Fld := ⟨.PORT_CTL, 1, 1, .wo, .const 0, 0, 1⟩
abbrev PORT_CTL_RELOCK : Fld := ⟨.PORT_CTL, 8, 8, .wo, .const 0, 0, 255⟩
/-! `PORT_PEER` (R330, spec/09_light.md). -/
abbrev PORT_PEER_DEVICE : Fld := ⟨.PORT_PEER, 0, 16, .ro, .const 65535, 0, 65535⟩
abbrev PORT_PEER_PORT : Fld := ⟨.PORT_PEER, 16, 5, .ro, .const 0, 0, 31⟩
abbrev PORT_PEER_S : Fld := ⟨.PORT_PEER, 21, 1, .ro, .const 0, 0, 1⟩
abbrev PORT_PEER_VALID : Fld := ⟨.PORT_PEER, 31, 1, .ro, .const 0, 0, 1⟩
/-! `PORT_STEER` (R331, spec/09_light.md). -/
abbrev PORT_STEER_FIBRE : Fld := ⟨.PORT_STEER, 0, 4, .rw, .const 0, 0, 15⟩
abbrev PORT_STEER_CUR : Fld := ⟨.PORT_STEER, 8, 4, .ro, .mod8, 0, 15⟩
abbrev PORT_STEER_GO : Fld := ⟨.PORT_STEER, 31, 1, .wo, .const 0, 0, 1⟩
/-! `PORT_RING` (R332, spec/09_light.md). -/
abbrev PORT_RING_LOCKED : Fld := ⟨.PORT_RING, 0, 8, .ro, .const 0, 0, 255⟩
abbrev PORT_RING_RELOCKING : Fld := ⟨.PORT_RING, 8, 8, .ro, .const 0, 0, 255⟩
abbrev PORT_RING_MISMATCH : Fld := ⟨.PORT_RING, 16, 8, .w1c, .const 0, 0, 255⟩
/-! `PORT_RXPWR_LO` (R333, spec/09_light.md). -/
abbrev PORT_RXPWR_LO_PWR0 : Fld := ⟨.PORT_RXPWR_LO, 0, 16, .ro, .const 32768, 0, 65535⟩
abbrev PORT_RXPWR_LO_PWR1 : Fld := ⟨.PORT_RXPWR_LO, 16, 16, .ro, .const 32768, 0, 65535⟩
abbrev PORT_RXPWR_LO_PWR2 : Fld := ⟨.PORT_RXPWR_LO, 32, 16, .ro, .const 32768, 0, 65535⟩
abbrev PORT_RXPWR_LO_PWR3 : Fld := ⟨.PORT_RXPWR_LO, 48, 16, .ro, .const 32768, 0, 65535⟩
/-! `PORT_RXPWR_HI` (R333, spec/09_light.md). -/
abbrev PORT_RXPWR_HI_PWR0 : Fld := ⟨.PORT_RXPWR_HI, 0, 16, .ro, .const 32768, 0, 65535⟩
abbrev PORT_RXPWR_HI_PWR1 : Fld := ⟨.PORT_RXPWR_HI, 16, 16, .ro, .const 32768, 0, 65535⟩
abbrev PORT_RXPWR_HI_PWR2 : Fld := ⟨.PORT_RXPWR_HI, 32, 16, .ro, .const 32768, 0, 65535⟩
abbrev PORT_RXPWR_HI_PWR3 : Fld := ⟨.PORT_RXPWR_HI, 48, 16, .ro, .const 32768, 0, 65535⟩
/-! `PORT_FARPWR_LO` (R333, spec/09_light.md). -/
abbrev PORT_FARPWR_LO_PWR0 : Fld := ⟨.PORT_FARPWR_LO, 0, 16, .ro, .const 32768, 0, 65535⟩
abbrev PORT_FARPWR_LO_PWR1 : Fld := ⟨.PORT_FARPWR_LO, 16, 16, .ro, .const 32768, 0, 65535⟩
abbrev PORT_FARPWR_LO_PWR2 : Fld := ⟨.PORT_FARPWR_LO, 32, 16, .ro, .const 32768, 0, 65535⟩
abbrev PORT_FARPWR_LO_PWR3 : Fld := ⟨.PORT_FARPWR_LO, 48, 16, .ro, .const 32768, 0, 65535⟩
/-! `PORT_FARPWR_HI` (R333, spec/09_light.md). -/
abbrev PORT_FARPWR_HI_PWR0 : Fld := ⟨.PORT_FARPWR_HI, 0, 16, .ro, .const 32768, 0, 65535⟩
abbrev PORT_FARPWR_HI_PWR1 : Fld := ⟨.PORT_FARPWR_HI, 16, 16, .ro, .const 32768, 0, 65535⟩
abbrev PORT_FARPWR_HI_PWR2 : Fld := ⟨.PORT_FARPWR_HI, 32, 16, .ro, .const 32768, 0, 65535⟩
abbrev PORT_FARPWR_HI_PWR3 : Fld := ⟨.PORT_FARPWR_HI, 48, 16, .ro, .const 32768, 0, 65535⟩
/-! `PORT_MARGIN` (R334, spec/09_light.md). -/
abbrev PORT_MARGIN_M0 : Fld := ⟨.PORT_MARGIN, 0, 8, .ro, .const 255, 0, 255⟩
abbrev PORT_MARGIN_M1 : Fld := ⟨.PORT_MARGIN, 8, 8, .ro, .const 255, 0, 255⟩
abbrev PORT_MARGIN_M2 : Fld := ⟨.PORT_MARGIN, 16, 8, .ro, .const 255, 0, 255⟩
abbrev PORT_MARGIN_M3 : Fld := ⟨.PORT_MARGIN, 24, 8, .ro, .const 255, 0, 255⟩
abbrev PORT_MARGIN_M4 : Fld := ⟨.PORT_MARGIN, 32, 8, .ro, .const 255, 0, 255⟩
abbrev PORT_MARGIN_M5 : Fld := ⟨.PORT_MARGIN, 40, 8, .ro, .const 255, 0, 255⟩
abbrev PORT_MARGIN_M6 : Fld := ⟨.PORT_MARGIN, 48, 8, .ro, .const 255, 0, 255⟩
abbrev PORT_MARGIN_M7 : Fld := ⟨.PORT_MARGIN, 56, 8, .ro, .const 255, 0, 255⟩
/-! `PORT_LANE_CORR_LO` (R335, spec/09_light.md). -/
abbrev PORT_LANE_CORR_LO_C0 : Fld := ⟨.PORT_LANE_CORR_LO, 0, 16, .rc, .const 0, 0, 65535⟩
abbrev PORT_LANE_CORR_LO_C1 : Fld := ⟨.PORT_LANE_CORR_LO, 16, 16, .rc, .const 0, 0, 65535⟩
abbrev PORT_LANE_CORR_LO_C2 : Fld := ⟨.PORT_LANE_CORR_LO, 32, 16, .rc, .const 0, 0, 65535⟩
abbrev PORT_LANE_CORR_LO_C3 : Fld := ⟨.PORT_LANE_CORR_LO, 48, 16, .rc, .const 0, 0, 65535⟩
/-! `PORT_LANE_CORR_HI` (R335, spec/09_light.md). -/
abbrev PORT_LANE_CORR_HI_C0 : Fld := ⟨.PORT_LANE_CORR_HI, 0, 16, .rc, .const 0, 0, 65535⟩
abbrev PORT_LANE_CORR_HI_C1 : Fld := ⟨.PORT_LANE_CORR_HI, 16, 16, .rc, .const 0, 0, 65535⟩
abbrev PORT_LANE_CORR_HI_C2 : Fld := ⟨.PORT_LANE_CORR_HI, 32, 16, .rc, .const 0, 0, 65535⟩
abbrev PORT_LANE_CORR_HI_C3 : Fld := ⟨.PORT_LANE_CORR_HI, 48, 16, .rc, .const 0, 0, 65535⟩
/-! `PORT_SLASER` (R336, spec/09_light.md). -/
abbrev PORT_SLASER_BIAS0 : Fld := ⟨.PORT_SLASER, 0, 10, .ro, .const 0, 0, 1023⟩
abbrev PORT_SLASER_STATE0 : Fld := ⟨.PORT_SLASER, 10, 3, .ro, .const 0, 0, 7⟩
abbrev PORT_SLASER_BIAS1 : Fld := ⟨.PORT_SLASER, 16, 10, .ro, .const 0, 0, 1023⟩
abbrev PORT_SLASER_STATE1 : Fld := ⟨.PORT_SLASER, 26, 3, .ro, .const 0, 0, 7⟩
/-! `LAS_CFG` (R338, spec/09_light.md). -/
abbrev LAS_CFG_AUTO : Fld := ⟨.LAS_CFG, 0, 1, .rw, .const 1, 0, 1⟩
abbrev LAS_CFG_DEFER : Fld := ⟨.LAS_CFG, 4, 8, .rw, .const 10, 1, 255⟩
/-! `LAS_STATUS` (R339, spec/09_light.md). -/
abbrev LAS_STATUS_PRESENCE : Fld := ⟨.LAS_STATUS, 0, 1, .ro, .const 0, 0, 1⟩
abbrev LAS_STATUS_LIT : Fld := ⟨.LAS_STATUS, 1, 1, .ro, .const 0, 0, 1⟩
abbrev LAS_STATUS_UND_FREE : Fld := ⟨.LAS_STATUS, 8, 8, .ro, .const 255, 0, 255⟩
abbrev LAS_STATUS_PENDING : Fld := ⟨.LAS_STATUS, 16, 8, .ro, .const 0, 0, 255⟩
/-! `LAS_CTL` (R340, spec/09_light.md). -/
abbrev LAS_CTL_LASER : Fld := ⟨.LAS_CTL, 0, 4, .rw, .const 0, 0, 15⟩
abbrev LAS_CTL_CHANGE : Fld := ⟨.LAS_CTL, 8, 1, .wo, .const 0, 0, 1⟩
/-! `LAS_LASER` (R341, spec/09_light.md). -/
abbrev LAS_LASER_BIAS : Fld := ⟨.LAS_LASER, 0, 10, .ro, .const 0, 0, 1023⟩
abbrev LAS_LASER_STATE : Fld := ⟨.LAS_LASER, 12, 3, .ro, .const 0, 0, 7⟩
abbrev LAS_LASER_GROUP : Fld := ⟨.LAS_LASER, 15, 2, .ro, .const 2, 0, 3⟩
abbrev LAS_LASER_WL : Fld := ⟨.LAS_LASER, 17, 3, .ro, .laser, 0, 7⟩
abbrev LAS_LASER_MON : Fld := ⟨.LAS_LASER, 32, 16, .ro, .const 32768, 0, 65535⟩
/-! `FAB_CFG` (R371, spec/10_fabric_routing.md). -/
abbrev FAB_CFG_ADAPT : Fld := ⟨.FAB_CFG, 0, 4, .rw, .const 15, 0, 15⟩
abbrev FAB_CFG_FWD : Fld := ⟨.FAB_CFG, 4, 1, .ro, .const 0, 0, 1⟩
abbrev FAB_CFG_LINK_RTO : Fld := ⟨.FAB_CFG, 8, 8, .rw, .const 12, 2, 255⟩
abbrev FAB_CFG_THR_HI : Fld := ⟨.FAB_CFG, 16, 4, .rw, .const 8, 2, 15⟩
abbrev FAB_CFG_THR_LO : Fld := ⟨.FAB_CFG, 20, 4, .rw, .const 4, 1, 15⟩
/-! `FAB_ARB` (R371, spec/10_fabric_routing.md). -/
abbrev FAB_ARB_WREQ : Fld := ⟨.FAB_ARB, 0, 4, .rw, .const 2, 1, 15⟩
abbrev FAB_ARB_WCOLL : Fld := ⟨.FAB_ARB, 4, 4, .rw, .const 4, 1, 15⟩
abbrev FAB_ARB_WBULK : Fld := ⟨.FAB_ARB, 8, 4, .rw, .const 2, 1, 15⟩
/-! `FAB_CREDIT` (R371, spec/10_fabric_routing.md). -/
abbrev FAB_CREDIT_DED : Fld := ⟨.FAB_CREDIT, 0, 9, .rw, .const 65, 65, 256⟩
abbrev FAB_CREDIT_SPACE : Fld := ⟨.FAB_CREDIT, 16, 16, .ro, .const 2048, 0, 65535⟩
/-! `FAB_STATUS` (R371, spec/10_fabric_routing.md). -/
abbrev FAB_STATUS_THROTTLED : Fld := ⟨.FAB_STATUS, 0, 32, .ro, .const 0, 0, 4294967295⟩
/-! `FAB_DROPS` (R371, spec/10_fabric_routing.md). -/
abbrev FAB_DROPS_COUNT : Fld := ⟨.FAB_DROPS, 0, 64, .ro, .const 0, 0, 18446744073709551615⟩
/-! `FAB_LAST_DROP` (R371, spec/10_fabric_routing.md). -/
abbrev FAB_LAST_DROP_REASON : Fld := ⟨.FAB_LAST_DROP, 0, 4, .ro, .const 0, 0, 15⟩
abbrev FAB_LAST_DROP_PORT : Fld := ⟨.FAB_LAST_DROP, 8, 5, .ro, .const 0, 0, 31⟩
abbrev FAB_LAST_DROP_DST : Fld := ⟨.FAB_LAST_DROP, 16, 16, .ro, .const 0, 0, 65535⟩
abbrev FAB_LAST_DROP_TC : Fld := ⟨.FAB_LAST_DROP, 32, 2, .ro, .const 0, 0, 3⟩
abbrev FAB_LAST_DROP_VALID : Fld := ⟨.FAB_LAST_DROP, 63, 1, .w1c, .const 0, 0, 1⟩
/-! `FAB_FIBRE_EXP` (R371, spec/10_fabric_routing.md). -/
abbrev FAB_FIBRE_EXP_DEVICE : Fld := ⟨.FAB_FIBRE_EXP, 0, 16, .rw, .const 65535, 0, 65535⟩
abbrev FAB_FIBRE_EXP_PORT : Fld := ⟨.FAB_FIBRE_EXP, 16, 5, .rw, .const 0, 0, 31⟩
abbrev FAB_FIBRE_EXP_MODE : Fld := ⟨.FAB_FIBRE_EXP, 30, 2, .rw, .const 0, 0, 2⟩
/-! `FAB_ROUTE_MEMBER` (R371, spec/10_fabric_routing.md). -/
abbrev FAB_ROUTE_MEMBER_PORTS : Fld := ⟨.FAB_ROUTE_MEMBER, 0, 32, .rw, .const 0, 0, 4294967295⟩
/-! `FAB_ROUTE_DIST` (R371, spec/10_fabric_routing.md). -/
abbrev FAB_ROUTE_DIST_PORTS : Fld := ⟨.FAB_ROUTE_DIST, 0, 32, .rw, .const 0, 0, 4294967295⟩
/-! `FAB_PORT_CFG` (R372, spec/10_fabric_routing.md). -/
abbrev FAB_PORT_CFG_ROLE : Fld := ⟨.FAB_PORT_CFG, 0, 1, .rw, .const 0, 0, 1⟩
abbrev FAB_PORT_CFG_RING : Fld := ⟨.FAB_PORT_CFG, 2, 2, .rw, .const 0, 0, 3⟩
abbrev FAB_PORT_CFG_DATELINE : Fld := ⟨.FAB_PORT_CFG, 4, 1, .rw, .const 0, 0, 1⟩
/-! `FAB_PORT_STATUS` (R372, spec/10_fabric_routing.md). -/
abbrev FAB_PORT_STATUS_LINK : Fld := ⟨.FAB_PORT_STATUS, 0, 1, .ro, .const 0, 0, 1⟩
abbrev FAB_PORT_STATUS_IDOK : Fld := ⟨.FAB_PORT_STATUS, 1, 1, .ro, .const 0, 0, 1⟩
abbrev FAB_PORT_STATUS_IDPEND : Fld := ⟨.FAB_PORT_STATUS, 2, 1, .ro, .const 0, 0, 1⟩
abbrev FAB_PORT_STATUS_IDBAD : Fld := ⟨.FAB_PORT_STATUS, 3, 1, .ro, .const 0, 0, 1⟩
abbrev FAB_PORT_STATUS_HELD : Fld := ⟨.FAB_PORT_STATUS, 4, 1, .ro, .const 0, 0, 1⟩
abbrev FAB_PORT_STATUS_DISCARD : Fld := ⟨.FAB_PORT_STATUS, 5, 1, .ro, .const 0, 0, 1⟩
/-! `FAB_PORT_CTL` (R372, spec/10_fabric_routing.md). -/
abbrev FAB_PORT_CTL_CNT_CLR : Fld := ⟨.FAB_PORT_CTL, 0, 1, .wo, .const 0, 0, 1⟩
/-! `FAB_PORT_REPLAYS` (R372, spec/10_fabric_routing.md). -/
abbrev FAB_PORT_REPLAYS_REPLAYS : Fld := ⟨.FAB_PORT_REPLAYS, 0, 16, .rc, .const 0, 0, 65535⟩
abbrev FAB_PORT_REPLAYS_NAKS : Fld := ⟨.FAB_PORT_REPLAYS, 16, 16, .rc, .const 0, 0, 65535⟩
/-! `FAB_PORT_TX` (R372, spec/10_fabric_routing.md). -/
abbrev FAB_PORT_TX_FLITS : Fld := ⟨.FAB_PORT_TX, 0, 64, .ro, .const 0, 0, 18446744073709551615⟩
/-! `FAB_PORT_RX` (R372, spec/10_fabric_routing.md). -/
abbrev FAB_PORT_RX_FLITS : Fld := ⟨.FAB_PORT_RX, 0, 64, .ro, .const 0, 0, 18446744073709551615⟩
/-! `FAB_PORT_QUEUE` (R372, spec/10_fabric_routing.md). -/
abbrev FAB_PORT_QUEUE_UNSENT : Fld := ⟨.FAB_PORT_QUEUE, 0, 16, .ro, .const 0, 0, 65535⟩
abbrev FAB_PORT_QUEUE_UNACKED : Fld := ⟨.FAB_PORT_QUEUE, 16, 16, .ro, .const 0, 0, 65535⟩
/-! `ILK_CFG` (R416, spec/11_interlocking.md). -/
abbrev ILK_CFG_HB_US : Fld := ⟨.ILK_CFG, 0, 7, .rw, .const 10, 5, 100⟩
abbrev ILK_CFG_FORM_WAIT : Fld := ⟨.ILK_CFG, 8, 8, .rw, .const 20, 1, 255⟩
abbrev ILK_CFG_HALL_WAIT : Fld := ⟨.ILK_CFG, 16, 8, .rw, .const 35, 1, 100⟩
abbrev ILK_CFG_READMIT_MAX : Fld := ⟨.ILK_CFG, 24, 4, .rw, .const 3, 0, 15⟩
/-! `ILK_STATUS` (R416, spec/11_interlocking.md). -/
abbrev ILK_STATUS_MEMBER : Fld := ⟨.ILK_STATUS, 0, 1, .ro, .const 0, 0, 1⟩
abbrev ILK_STATUS_FENCED : Fld := ⟨.ILK_STATUS, 1, 1, .ro, .const 0, 0, 1⟩
abbrev ILK_STATUS_BOX : Fld := ⟨.ILK_STATUS, 2, 1, .ro, .const 0, 0, 1⟩
abbrev ILK_STATUS_CHAIR : Fld := ⟨.ILK_STATUS, 3, 1, .ro, .const 0, 0, 1⟩
abbrev ILK_STATUS_CHANGE : Fld := ⟨.ILK_STATUS, 4, 1, .ro, .const 0, 0, 1⟩
abbrev ILK_STATUS_FORMED : Fld := ⟨.ILK_STATUS, 5, 1, .ro, .const 0, 0, 1⟩
abbrev ILK_STATUS_HALL : Fld := ⟨.ILK_STATUS, 6, 1, .ro, .const 0, 0, 1⟩
abbrev ILK_STATUS_REQ_PEND : Fld := ⟨.ILK_STATUS, 7, 1, .ro, .const 0, 0, 1⟩
abbrev ILK_STATUS_REQ_YES : Fld := ⟨.ILK_STATUS, 8, 1, .ro, .const 0, 0, 1⟩
abbrev ILK_STATUS_NMEM : Fld := ⟨.ILK_STATUS, 16, 7, .ro, .const 0, 0, 127⟩
abbrev ILK_STATUS_NBOX : Fld := ⟨.ILK_STATUS, 23, 3, .ro, .const 0, 0, 7⟩
abbrev ILK_STATUS_PLANE_A : Fld := ⟨.ILK_STATUS, 26, 1, .ro, .const 0, 0, 1⟩
abbrev ILK_STATUS_PLANE_B : Fld := ⟨.ILK_STATUS, 27, 1, .ro, .const 0, 0, 1⟩
/-! `ILK_EPOCH` (R416, spec/11_interlocking.md). -/
abbrev ILK_EPOCH_EPOCH : Fld := ⟨.ILK_EPOCH, 0, 32, .ro, .const 0, 0, 4294967295⟩
/-! `ILK_CTL` (R416, spec/11_interlocking.md). -/
abbrev ILK_CTL_SUBJ : Fld := ⟨.ILK_CTL, 0, 16, .rw, .const 0, 0, 65535⟩
abbrev ILK_CTL_OP : Fld := ⟨.ILK_CTL, 16, 2, .rw, .const 0, 0, 3⟩
abbrev ILK_CTL_JOB : Fld := ⟨.ILK_CTL, 18, 12, .rw, .const 0, 0, 4095⟩
abbrev ILK_CTL_GO : Fld := ⟨.ILK_CTL, 31, 1, .wo, .const 0, 0, 1⟩
/-! `ILK_MEMBERS` (R416, spec/11_interlocking.md). -/
abbrev ILK_MEMBERS_MAP : Fld := ⟨.ILK_MEMBERS, 0, 64, .ro, .const 0, 0, 18446744073709551615⟩
/-! `ILK_SUSPECT` (R416, spec/11_interlocking.md). -/
abbrev ILK_SUSPECT_MAP : Fld := ⟨.ILK_SUSPECT, 0, 64, .ro, .const 0, 0, 18446744073709551615⟩
/-! `ILK_HALL_MEMBERS` (R416, spec/11_interlocking.md). -/
abbrev ILK_HALL_MEMBERS_MAP : Fld := ⟨.ILK_HALL_MEMBERS, 0, 64, .ro, .const 0, 0, 18446744073709551615⟩
/-! `ILK_BOXES` (R416, spec/11_interlocking.md). -/
abbrev ILK_BOXES_BOX0 : Fld := ⟨.ILK_BOXES, 0, 6, .ro, .const 0, 0, 63⟩
abbrev ILK_BOXES_BOX1 : Fld := ⟨.ILK_BOXES, 6, 6, .ro, .const 0, 0, 63⟩
abbrev ILK_BOXES_BOX2 : Fld := ⟨.ILK_BOXES, 12, 6, .ro, .const 0, 0, 63⟩
abbrev ILK_BOXES_BOX3 : Fld := ⟨.ILK_BOXES, 18, 6, .ro, .const 0, 0, 63⟩
abbrev ILK_BOXES_BOX4 : Fld := ⟨.ILK_BOXES, 24, 6, .ro, .const 0, 0, 63⟩
/-! `ILK_HEALTH` (R416, spec/11_interlocking.md). -/
abbrev ILK_HEALTH_FIELDS : Fld := ⟨.ILK_HEALTH, 0, 32, .ro, .const 0, 0, 4294967295⟩
/-! `ILK_LAST_CHANGE` (R416, spec/11_interlocking.md). -/
abbrev ILK_LAST_CHANGE_EPOCH : Fld := ⟨.ILK_LAST_CHANGE, 0, 32, .ro, .const 0, 0, 4294967295⟩
abbrev ILK_LAST_CHANGE_OP : Fld := ⟨.ILK_LAST_CHANGE, 32, 4, .ro, .const 0, 0, 15⟩
abbrev ILK_LAST_CHANGE_SUBJ : Fld := ⟨.ILK_LAST_CHANGE, 36, 16, .ro, .const 0, 0, 65535⟩
abbrev ILK_LAST_CHANGE_REASON : Fld := ⟨.ILK_LAST_CHANGE, 52, 8, .ro, .const 0, 0, 255⟩
abbrev ILK_LAST_CHANGE_VALID : Fld := ⟨.ILK_LAST_CHANGE, 63, 1, .w1c, .const 0, 0, 1⟩
/-! `ILK_CKPT` (R416, spec/11_interlocking.md). -/
abbrev ILK_CKPT_FLASH_STEPS : Fld := ⟨.ILK_CKPT, 0, 16, .rw, .const 200, 10, 65535⟩
abbrev ILK_CKPT_STORE_MULT : Fld := ⟨.ILK_CKPT, 16, 10, .rw, .const 10, 1, 1000⟩
/-! `ILK_COUNTS` (R416, spec/11_interlocking.md). -/
abbrev ILK_COUNTS_EXPELS : Fld := ⟨.ILK_COUNTS, 0, 8, .rc, .const 0, 0, 255⟩
abbrev ILK_COUNTS_FAILED : Fld := ⟨.ILK_COUNTS, 8, 8, .rc, .const 0, 0, 255⟩
abbrev ILK_COUNTS_FENCES : Fld := ⟨.ILK_COUNTS, 16, 8, .rc, .const 0, 0, 255⟩
abbrev ILK_COUNTS_REFUSED : Fld := ⟨.ILK_COUNTS, 24, 8, .rc, .const 0, 0, 255⟩
/-! `ILK_INST` (R416, spec/11_interlocking.md). -/
abbrev ILK_INST_INST : Fld := ⟨.ILK_INST, 0, 32, .ro, .const 0, 0, 4294967295⟩
/-! `ILK_MARGIN` (R416, spec/11_interlocking.md). -/
abbrev ILK_MARGIN_VHEAD : Fld := ⟨.ILK_MARGIN, 0, 8, .rw, .const 20, 5, 100⟩
abbrev ILK_MARGIN_SLACK : Fld := ⟨.ILK_MARGIN, 8, 8, .rw, .const 5, 1, 30⟩
/-! `ILK_DISTRICT` (R416, spec/11_interlocking.md). -/
abbrev ILK_DISTRICT_DISTRICT : Fld := ⟨.ILK_DISTRICT, 0, 10, .ro, .const 0, 0, 1023⟩
abbrev ILK_DISTRICT_NEXP : Fld := ⟨.ILK_DISTRICT, 10, 7, .ro, .const 1, 0, 127⟩
/-! `ILK_PTAB` (R416, spec/11_interlocking.md). -/
abbrev ILK_PTAB_ADDR : Fld := ⟨.ILK_PTAB, 6, 30, .rw, .const 0, 0, 1073741823⟩
abbrev ILK_PTAB_VALID : Fld := ⟨.ILK_PTAB, 63, 1, .rw, .const 0, 0, 1⟩
/-! `ILK_HALL_EPOCH` (R416, spec/11_interlocking.md). -/
abbrev ILK_HALL_EPOCH_EPOCH : Fld := ⟨.ILK_HALL_EPOCH, 0, 32, .ro, .const 0, 0, 4294967295⟩
/-! `ILK_SPORT_STATUS` (R417, spec/11_interlocking.md). -/
abbrev ILK_SPORT_STATUS_HB_OK : Fld := ⟨.ILK_SPORT_STATUS, 0, 1, .ro, .const 0, 0, 1⟩
abbrev ILK_SPORT_STATUS_BOXES_HEARD : Fld := ⟨.ILK_SPORT_STATUS, 8, 5, .ro, .const 0, 0, 31⟩
/-! `ILK_SPORT_RX` (R417, spec/11_interlocking.md). -/
abbrev ILK_SPORT_RX_COUNT : Fld := ⟨.ILK_SPORT_RX, 0, 64, .ro, .const 0, 0, 18446744073709551615⟩
/-! `ILK_SPORT_TX` (R417, spec/11_interlocking.md). -/
abbrev ILK_SPORT_TX_COUNT : Fld := ⟨.ILK_SPORT_TX, 0, 64, .ro, .const 0, 0, 18446744073709551615⟩
/-! `BRG_CFG` (R449, spec/12_halves_power_heat.md). -/
abbrev BRG_CFG_ERASE_THR : Fld := ⟨.BRG_CFG, 0, 8, .rw, .const 16, 4, 255⟩
/-! `BRG_STATUS` (R449, spec/12_halves_power_heat.md). -/
abbrev BRG_STATUS_UP : Fld := ⟨.BRG_STATUS, 0, 1, .ro, .const 0, 0, 1⟩
abbrev BRG_STATUS_TRAINING : Fld := ⟨.BRG_STATUS, 1, 1, .ro, .const 0, 0, 1⟩
abbrev BRG_STATUS_HOLD : Fld := ⟨.BRG_STATUS, 2, 1, .ro, .const 0, 0, 1⟩
abbrev BRG_STATUS_WIDTH : Fld := ⟨.BRG_STATUS, 4, 7, .ro, .const 0, 0, 127⟩
abbrev BRG_STATUS_AGREED : Fld := ⟨.BRG_STATUS, 12, 7, .ro, .const 0, 0, 127⟩
/-! `BRG_CTL` (R449, spec/12_halves_power_heat.md). -/
abbrev BRG_CTL_RETRAIN : Fld := ⟨.BRG_CTL, 0, 1, .wo, .const 0, 0, 1⟩
abbrev BRG_CTL_PRESET_UP : Fld := ⟨.BRG_CTL, 1, 1, .wo, .const 0, 0, 1⟩
abbrev BRG_CTL_PRESET_DOWN : Fld := ⟨.BRG_CTL, 2, 1, .wo, .const 0, 0, 1⟩
abbrev BRG_CTL_CNT_CLR : Fld := ⟨.BRG_CTL, 3, 1, .wo, .const 0, 0, 1⟩
/-! `BRG_EPOCH` (R449, spec/12_halves_power_heat.md). -/
abbrev BRG_EPOCH_TEPOCH : Fld := ⟨.BRG_EPOCH, 0, 32, .ro, .const 0, 0, 4294967295⟩
/-! `BRG_GOOD` (R449, spec/12_halves_power_heat.md). -/
abbrev BRG_GOOD_MAP : Fld := ⟨.BRG_GOOD, 0, 64, .ro, .const 0, 0, 18446744073709551615⟩
/-! `BRG_ERRORS` (R449, spec/12_halves_power_heat.md). -/
abbrev BRG_ERRORS_REPLAYS : Fld := ⟨.BRG_ERRORS, 0, 16, .rc, .const 0, 0, 65535⟩
abbrev BRG_ERRORS_TRAININGS : Fld := ⟨.BRG_ERRORS, 16, 8, .rc, .const 0, 0, 255⟩
abbrev BRG_ERRORS_SPARES : Fld := ⟨.BRG_ERRORS, 24, 3, .ro, .const 0, 0, 7⟩
abbrev BRG_ERRORS_DROPS : Fld := ⟨.BRG_ERRORS, 28, 4, .rc, .const 0, 0, 15⟩
/-! `BRG_GROUP_SEL` (R449, spec/12_halves_power_heat.md). -/
abbrev BRG_GROUP_SEL_GROUP : Fld := ⟨.BRG_GROUP_SEL, 0, 7, .rw, .const 0, 0, 67⟩
abbrev BRG_GROUP_SEL_DIR : Fld := ⟨.BRG_GROUP_SEL, 7, 1, .rw, .const 0, 0, 1⟩
/-! `BRG_GROUP_INFO` (R449, spec/12_halves_power_heat.md). -/
abbrev BRG_GROUP_INFO_ERASE : Fld := ⟨.BRG_GROUP_INFO, 0, 7, .ro, .const 0, 0, 127⟩
abbrev BRG_GROUP_INFO_EVALID : Fld := ⟨.BRG_GROUP_INFO, 7, 1, .ro, .const 0, 0, 1⟩
abbrev BRG_GROUP_INFO_CORR : Fld := ⟨.BRG_GROUP_INFO, 8, 16, .rc, .const 0, 0, 65535⟩
abbrev BRG_GROUP_INFO_STATE : Fld := ⟨.BRG_GROUP_INFO, 24, 3, .ro, .const 0, 0, 7⟩
/-! `BRG_FLITS_UD` (R449, spec/12_halves_power_heat.md). -/
abbrev BRG_FLITS_UD_COUNT : Fld := ⟨.BRG_FLITS_UD, 0, 64, .ro, .const 0, 0, 18446744073709551615⟩
/-! `BRG_FLITS_DU` (R449, spec/12_halves_power_heat.md). -/
abbrev BRG_FLITS_DU_COUNT : Fld := ⟨.BRG_FLITS_DU, 0, 64, .ro, .const 0, 0, 18446744073709551615⟩
/-! `PWR_CFG` (R450, spec/12_halves_power_heat.md). -/
abbrev PWR_CFG_RATE : Fld := ⟨.PWR_CFG, 0, 8, .rw, .const 150, 80, 190⟩
abbrev PWR_CFG_CAP_W : Fld := ⟨.PWR_CFG, 8, 11, .rw, .const 1000, 400, 1300⟩
abbrev PWR_CFG_QUIET_W : Fld := ⟨.PWR_CFG, 19, 11, .rw, .const 500, 300, 900⟩
/-! `THM_CFG` (R450, spec/12_halves_power_heat.md). -/
abbrev THM_CFG_CAL_IDLE_MS : Fld := ⟨.THM_CFG, 0, 8, .rw, .const 50, 10, 255⟩
abbrev THM_CFG_HYST : Fld := ⟨.THM_CFG, 8, 4, .rw, .const 4, 1, 10⟩
/-! `PWR_DEVICE` (R450, spec/12_halves_power_heat.md). -/
abbrev PWR_DEVICE_PKG : Fld := ⟨.PWR_DEVICE, 0, 16, .ro, .const 0, 0, 65535⟩
abbrev PWR_DEVICE_INPUT : Fld := ⟨.PWR_DEVICE, 16, 16, .ro, .const 0, 0, 65535⟩
/-! `PWR_STATUS` (R450, spec/12_halves_power_heat.md). -/
abbrev PWR_STATUS_GRANT : Fld := ⟨.PWR_STATUS, 0, 11, .ro, .const 0, 0, 2047⟩
abbrev PWR_STATUS_FALLBACK : Fld := ⟨.PWR_STATUS, 12, 1, .ro, .const 0, 0, 1⟩
abbrev PWR_STATUS_FAST : Fld := ⟨.PWR_STATUS, 13, 1, .ro, .const 0, 0, 1⟩
abbrev PWR_STATUS_THROTTLE : Fld := ⟨.PWR_STATUS, 14, 1, .ro, .const 0, 0, 1⟩
abbrev PWR_STATUS_TARGET : Fld := ⟨.PWR_STATUS, 16, 8, .ro, .const 0, 0, 255⟩
abbrev PWR_STATUS_HOTBAND : Fld := ⟨.PWR_STATUS, 24, 3, .ro, .const 0, 0, 7⟩
/-! `PWR_MEAS` (R450, spec/12_halves_power_heat.md). -/
abbrev PWR_MEAS_MEAS : Fld := ⟨.PWR_MEAS, 0, 11, .ro, .const 0, 0, 2047⟩
abbrev PWR_MEAS_DEMAND : Fld := ⟨.PWR_MEAS, 16, 11, .ro, .const 0, 0, 2047⟩
/-! `PWR_EXCH` (R450, spec/12_halves_power_heat.md). -/
abbrev PWR_EXCH_MISSED : Fld := ⟨.PWR_EXCH, 0, 16, .rc, .const 0, 0, 65535⟩
abbrev PWR_EXCH_TRIPS : Fld := ⟨.PWR_EXCH, 16, 16, .rc, .const 0, 0, 65535⟩
/-! `THM_COOLANT` (R450, spec/12_halves_power_heat.md). -/
abbrev THM_COOLANT_INLET : Fld := ⟨.THM_COOLANT, 0, 12, .ro, .const 0, 0, 4095⟩
abbrev THM_COOLANT_OUTLET : Fld := ⟨.THM_COOLANT, 16, 12, .ro, .const 0, 0, 4095⟩
/-! `THM_CAL` (R450, spec/12_halves_power_heat.md). -/
abbrev THM_CAL_SHIFT : Fld := ⟨.THM_CAL, 0, 8, .ro, .const 0, 0, 255⟩
abbrev THM_CAL_COUNT : Fld := ⟨.THM_CAL, 8, 16, .ro, .const 0, 0, 65535⟩
abbrev THM_CAL_GUARD : Fld := ⟨.THM_CAL, 24, 1, .ro, .const 0, 0, 1⟩
/-! `THM_CHIP` (R450, spec/12_halves_power_heat.md). -/
abbrev THM_CHIP_TEMP0 : Fld := ⟨.THM_CHIP, 0, 12, .ro, .const 0, 0, 4095⟩
abbrev THM_CHIP_BAND0 : Fld := ⟨.THM_CHIP, 12, 3, .ro, .const 0, 0, 7⟩
abbrev THM_CHIP_TEMP1 : Fld := ⟨.THM_CHIP, 16, 12, .ro, .const 0, 0, 4095⟩
abbrev THM_CHIP_BAND1 : Fld := ⟨.THM_CHIP, 28, 3, .ro, .const 0, 0, 7⟩
/-! `THM_BLK` (R450, spec/12_halves_power_heat.md). -/
abbrev THM_BLK_TEMP : Fld := ⟨.THM_BLK, 0, 12, .ro, .const 0, 0, 4095⟩
abbrev THM_BLK_BAND : Fld := ⟨.THM_BLK, 12, 3, .ro, .const 0, 0, 7⟩
abbrev THM_BLK_FASTUPD : Fld := ⟨.THM_BLK, 15, 1, .ro, .const 0, 0, 1⟩
abbrev THM_BLK_VOLT : Fld := ⟨.THM_BLK, 16, 10, .ro, .const 0, 0, 1023⟩
abbrev THM_BLK_RATE : Fld := ⟨.THM_BLK, 32, 8, .ro, .const 0, 0, 255⟩
abbrev THM_BLK_SLACK : Fld := ⟨.THM_BLK, 40, 8, .ro, .const 0, 0, 255⟩
abbrev THM_BLK_HEAD : Fld := ⟨.THM_BLK, 48, 8, .ro, .const 0, 0, 255⟩
/-! `MOD_MSTATUS` (R492, spec/13_module_and_companion.md). -/
abbrev MOD_MSTATUS_PRES_A : Fld := ⟨.MOD_MSTATUS, 0, 1, .ro, .const 0, 0, 1⟩
abbrev MOD_MSTATUS_PRES_B : Fld := ⟨.MOD_MSTATUS, 1, 1, .ro, .const 0, 0, 1⟩
abbrev MOD_MSTATUS_PRESENT : Fld := ⟨.MOD_MSTATUS, 2, 1, .ro, .const 0, 0, 1⟩
abbrev MOD_MSTATUS_SLOT_OK : Fld := ⟨.MOD_MSTATUS, 3, 1, .ro, .const 0, 0, 1⟩
abbrev MOD_MSTATUS_AUTO : Fld := ⟨.MOD_MSTATUS, 4, 1, .ro, .const 0, 0, 1⟩
abbrev MOD_MSTATUS_INPUT_OK : Fld := ⟨.MOD_MSTATUS, 5, 1, .ro, .const 0, 0, 1⟩
abbrev MOD_MSTATUS_HS_ON : Fld := ⟨.MOD_MSTATUS, 6, 1, .ro, .const 0, 0, 1⟩
abbrev MOD_MSTATUS_PGOOD : Fld := ⟨.MOD_MSTATUS, 7, 1, .ro, .const 0, 0, 1⟩
abbrev MOD_MSTATUS_SLOT : Fld := ⟨.MOD_MSTATUS, 8, 6, .ro, .const 0, 0, 63⟩
abbrev MOD_MSTATUS_HS_FAULT : Fld := ⟨.MOD_MSTATUS, 16, 3, .ro, .const 0, 0, 7⟩
abbrev MOD_MSTATUS_IND : Fld := ⟨.MOD_MSTATUS, 20, 3, .ro, .const 0, 0, 7⟩
abbrev MOD_MSTATUS_DRAINED : Fld := ⟨.MOD_MSTATUS, 23, 1, .ro, .const 0, 0, 1⟩
/-! `MOD_CTL` (R492, spec/13_module_and_companion.md). -/
abbrev MOD_CTL_POWER_ON : Fld := ⟨.MOD_CTL, 0, 1, .wo, .const 0, 0, 1⟩
abbrev MOD_CTL_POWER_OFF : Fld := ⟨.MOD_CTL, 1, 1, .wo, .const 0, 0, 1⟩
abbrev MOD_CTL_DRAIN : Fld := ⟨.MOD_CTL, 2, 1, .wo, .const 0, 0, 1⟩
abbrev MOD_CTL_RESET : Fld := ⟨.MOD_CTL, 3, 1, .wo, .const 0, 0, 1⟩
abbrev MOD_CTL_LOCATE : Fld := ⟨.MOD_CTL, 4, 1, .rw, .const 0, 0, 1⟩
/-! `MOD_CFG` (R492, spec/13_module_and_companion.md). -/
abbrev MOD_CFG_DRAIN_WAIT : Fld := ⟨.MOD_CFG, 0, 10, .rw, .const 30, 1, 600⟩
/-! `MOD_INPUT` (R492, spec/13_module_and_companion.md). -/
abbrev MOD_INPUT_VIN : Fld := ⟨.MOD_INPUT, 0, 10, .ro, .const 0, 0, 1023⟩
abbrev MOD_INPUT_IIN : Fld := ⟨.MOD_INPUT, 16, 12, .ro, .const 0, 0, 4095⟩
/-! `MOD_COOLANT` (R492, spec/13_module_and_companion.md). -/
abbrev MOD_COOLANT_FLOW : Fld := ⟨.MOD_COOLANT, 0, 12, .ro, .const 0, 0, 4095⟩
abbrev MOD_COOLANT_LOW_FLOW : Fld := ⟨.MOD_COOLANT, 16, 1, .w1c, .const 0, 0, 1⟩
abbrev MOD_COOLANT_HOT_INLET : Fld := ⟨.MOD_COOLANT, 17, 1, .w1c, .const 0, 0, 1⟩
/-! `MOD_HISTORY` (R492, spec/13_module_and_companion.md). -/
abbrev MOD_HISTORY_CUTS : Fld := ⟨.MOD_HISTORY, 0, 16, .ro, .const 0, 0, 65535⟩
abbrev MOD_HISTORY_DRAINS : Fld := ⟨.MOD_HISTORY, 16, 16, .ro, .const 0, 0, 65535⟩
/-! `MOD_I3C` (R492, spec/13_module_and_companion.md). -/
abbrev MOD_I3C_DA : Fld := ⟨.MOD_I3C, 0, 7, .ro, .const 0, 0, 127⟩
abbrev MOD_I3C_IBI : Fld := ⟨.MOD_I3C, 7, 1, .ro, .const 0, 0, 1⟩
abbrev MOD_I3C_REFUSED : Fld := ⟨.MOD_I3C, 8, 16, .rc, .const 0, 0, 65535⟩
/-! `LYS_STATUS` (R492, spec/13_module_and_companion.md). -/
abbrev LYS_STATUS_UP : Fld := ⟨.LYS_STATUS, 0, 1, .ro, .const 0, 0, 1⟩
abbrev LYS_STATUS_WIDTH : Fld := ⟨.LYS_STATUS, 1, 5, .ro, .const 0, 0, 31⟩
abbrev LYS_STATUS_FEAT_DONE : Fld := ⟨.LYS_STATUS, 6, 1, .ro, .const 0, 0, 1⟩
abbrev LYS_STATUS_TRAININGS : Fld := ⟨.LYS_STATUS, 8, 8, .rc, .const 0, 0, 255⟩
abbrev LYS_STATUS_RTO : Fld := ⟨.LYS_STATUS, 16, 8, .rc, .const 0, 0, 255⟩
abbrev LYS_STATUS_EV_DROP : Fld := ⟨.LYS_STATUS, 24, 8, .rc, .const 0, 0, 255⟩
/-! `LYS_CFG` (R492, spec/13_module_and_companion.md). -/
abbrev LYS_CFG_RECALL_US : Fld := ⟨.LYS_CFG, 0, 10, .rw, .const 20, 5, 1000⟩
/-! `LYS_CTL` (R492, spec/13_module_and_companion.md). -/
abbrev LYS_CTL_RETRAIN : Fld := ⟨.LYS_CTL, 0, 1, .wo, .const 0, 0, 1⟩
abbrev LYS_CTL_CNT_CLR : Fld := ⟨.LYS_CTL, 1, 1, .wo, .const 0, 0, 1⟩
/-! `LYS_ERRORS` (R492, spec/13_module_and_companion.md). -/
abbrev LYS_ERRORS_FEC_CORR : Fld := ⟨.LYS_ERRORS, 0, 16, .rc, .const 0, 0, 65535⟩
abbrev LYS_ERRORS_REPLAYS : Fld := ⟨.LYS_ERRORS, 16, 16, .rc, .const 0, 0, 65535⟩
/-! `LYS_FEAT_DEV` (R492, spec/13_module_and_companion.md). -/
abbrev LYS_FEAT_DEV_BITS : Fld := ⟨.LYS_FEAT_DEV, 0, 7, .ro, .const 0x7F, 0, 127⟩
/-! `LYS_FEAT_PEER` (R492, spec/13_module_and_companion.md). -/
abbrev LYS_FEAT_PEER_BITS : Fld := ⟨.LYS_FEAT_PEER, 0, 7, .ro, .const 0, 0, 127⟩
/-! `LYS_FEATURES` (R492, spec/13_module_and_companion.md). -/
abbrev LYS_FEATURES_BITS : Fld := ⟨.LYS_FEATURES, 0, 7, .ro, .const 0, 0, 127⟩
/-! `LYS_DIR` (R492, spec/13_module_and_companion.md). -/
abbrev LYS_DIR_UP : Fld := ⟨.LYS_DIR, 0, 16, .ro, .const 0, 0, 65535⟩
abbrev LYS_DIR_DOWN : Fld := ⟨.LYS_DIR, 16, 16, .ro, .const 0, 0, 65535⟩
/-! `LYS_RECALLS` (R492, spec/13_module_and_companion.md). -/
abbrev LYS_RECALLS_COUNT : Fld := ⟨.LYS_RECALLS, 0, 64, .ro, .const 0, 0, 18446744073709551615⟩
/-! `LYS_TX_FLITS` (R492, spec/13_module_and_companion.md). -/
abbrev LYS_TX_FLITS_COUNT : Fld := ⟨.LYS_TX_FLITS, 0, 64, .ro, .const 0, 0, 18446744073709551615⟩
/-! `LYS_RX_FLITS` (R492, spec/13_module_and_companion.md). -/
abbrev LYS_RX_FLITS_COUNT : Fld := ⟨.LYS_RX_FLITS, 0, 64, .ro, .const 0, 0, 18446744073709551615⟩
/-! `SEC_BOOT` (R527, spec/14_trust_boot_logbook.md). -/
abbrev SEC_BOOT_STAGE : Fld := ⟨.SEC_BOOT, 0, 4, .ro, .const 0, 0, 15⟩
abbrev SEC_BOOT_BANK : Fld := ⟨.SEC_BOOT, 4, 1, .ro, .const 0, 0, 1⟩
abbrev SEC_BOOT_PENDING_TRY : Fld := ⟨.SEC_BOOT, 5, 1, .ro, .const 0, 0, 1⟩
abbrev SEC_BOOT_UNOWNED : Fld := ⟨.SEC_BOOT, 6, 1, .ro, .const 0, 0, 1⟩
abbrev SEC_BOOT_CFG_SLOT : Fld := ⟨.SEC_BOOT, 7, 1, .ro, .const 0, 0, 1⟩
abbrev SEC_BOOT_CFG_DEFAULT : Fld := ⟨.SEC_BOOT, 8, 1, .ro, .const 0, 0, 1⟩
abbrev SEC_BOOT_FAIL : Fld := ⟨.SEC_BOOT, 16, 8, .ro, .const 0, 0, 255⟩
/-! `SEC_CTL` (R527, spec/14_trust_boot_logbook.md). -/
abbrev SEC_CTL_OP : Fld := ⟨.SEC_CTL, 0, 3, .rw, .const 0, 0, 7⟩
abbrev SEC_CTL_GO : Fld := ⟨.SEC_CTL, 31, 1, .wo, .const 0, 0, 1⟩
/-! `SEC_FW_AREA` (R527, spec/14_trust_boot_logbook.md). -/
abbrev SEC_FW_AREA_ADDR : Fld := ⟨.SEC_FW_AREA, 24, 12, .ro, .const 0, 0, 4095⟩
/-! `SEC_CTR0` (R527, spec/14_trust_boot_logbook.md). -/
abbrev SEC_CTR0_VALUE : Fld := ⟨.SEC_CTR0, 0, 32, .ro, .const 0, 0, 4294967295⟩
/-! `SEC_CTR1` (R527, spec/14_trust_boot_logbook.md). -/
abbrev SEC_CTR1_VALUE : Fld := ⟨.SEC_CTR1, 0, 32, .ro, .const 0, 0, 4294967295⟩
/-! `SEC_CTR2` (R527, spec/14_trust_boot_logbook.md). -/
abbrev SEC_CTR2_VALUE : Fld := ⟨.SEC_CTR2, 0, 32, .ro, .const 0, 0, 4294967295⟩
/-! `SEC_OWNERS` (R527, spec/14_trust_boot_logbook.md). -/
abbrev SEC_OWNERS_SLOTS : Fld := ⟨.SEC_OWNERS, 0, 4, .ro, .const 0, 0, 15⟩
/-! `SEC_STAGE` (R527, spec/14_trust_boot_logbook.md). -/
abbrev SEC_STAGE_ADDR : Fld := ⟨.SEC_STAGE, 6, 30, .rw, .const 0, 0, 1073741823⟩
abbrev SEC_STAGE_LINES : Fld := ⟨.SEC_STAGE, 36, 19, .rw, .const 0, 1, 196608⟩
/-! `SEC_ATT` (R527, spec/14_trust_boot_logbook.md). -/
abbrev SEC_ATT_ADDR : Fld := ⟨.SEC_ATT, 6, 30, .rw, .const 0, 0, 1073741823⟩
abbrev SEC_ATT_BUSY : Fld := ⟨.SEC_ATT, 62, 1, .ro, .const 0, 0, 1⟩
abbrev SEC_ATT_GO : Fld := ⟨.SEC_ATT, 63, 1, .wo, .const 0, 0, 1⟩
/-! `SEC_UPD_STATUS` (R527, spec/14_trust_boot_logbook.md). -/
abbrev SEC_UPD_STATUS_BUSY : Fld := ⟨.SEC_UPD_STATUS, 0, 1, .ro, .const 0, 0, 1⟩
abbrev SEC_UPD_STATUS_OP : Fld := ⟨.SEC_UPD_STATUS, 1, 3, .ro, .const 0, 0, 7⟩
abbrev SEC_UPD_STATUS_RESULT : Fld := ⟨.SEC_UPD_STATUS, 4, 4, .ro, .const 0, 0, 15⟩
abbrev SEC_UPD_STATUS_PROGRESS : Fld := ⟨.SEC_UPD_STATUS, 8, 7, .ro, .const 0, 0, 127⟩
/-! `SEC_FW` (R527, spec/14_trust_boot_logbook.md). -/
abbrev SEC_FW_SVN : Fld := ⟨.SEC_FW, 0, 16, .ro, .const 0, 0, 65535⟩
abbrev SEC_FW_BUILD : Fld := ⟨.SEC_FW, 32, 32, .ro, .const 0, 0, 4294967295⟩
/-! `SEC_RCV_CTL` (R527, spec/14_trust_boot_logbook.md). -/
abbrev SEC_RCV_CTL_CHUNK : Fld := ⟨.SEC_RCV_CTL, 0, 8, .rw, .const 0, 0, 191⟩
abbrev SEC_RCV_CTL_LAST : Fld := ⟨.SEC_RCV_CTL, 8, 1, .rw, .const 0, 0, 1⟩
abbrev SEC_RCV_CTL_GO : Fld := ⟨.SEC_RCV_CTL, 31, 1, .wo, .const 0, 0, 1⟩
/-! `LOG_STATUS` (R529, spec/14_trust_boot_logbook.md). -/
abbrev LOG_STATUS_LOST : Fld := ⟨.LOG_STATUS, 0, 12, .rc, .const 0, 0, 4095⟩
abbrev LOG_STATUS_HELD_DROP : Fld := ⟨.LOG_STATUS, 12, 8, .rc, .const 0, 0, 255⟩
abbrev LOG_STATUS_TRACE_DROP : Fld := ⟨.LOG_STATUS, 20, 12, .rc, .const 0, 0, 4095⟩
/-! `LOG_RETIRE_CFG` (R529, spec/14_trust_boot_logbook.md). -/
abbrev LOG_RETIRE_CFG_CORR_PER_H : Fld := ⟨.LOG_RETIRE_CFG, 0, 16, .rw, .const 1024, 16, 65535⟩
abbrev LOG_RETIRE_CFG_UNCORR : Fld := ⟨.LOG_RETIRE_CFG, 16, 4, .rw, .const 2, 1, 15⟩
abbrev LOG_RETIRE_CFG_AUTO : Fld := ⟨.LOG_RETIRE_CFG, 20, 1, .rw, .const 1, 0, 1⟩
/-! `LOG_RING_BASE` (R529, spec/14_trust_boot_logbook.md). -/
abbrev LOG_RING_BASE_ADDR : Fld := ⟨.LOG_RING_BASE, 22, 14, .ro, .const 0, 0, 16383⟩
/-! `LOG_TRACE_BASE` (R529, spec/14_trust_boot_logbook.md). -/
abbrev LOG_TRACE_BASE_ADDR : Fld := ⟨.LOG_TRACE_BASE, 22, 14, .ro, .const 0, 0, 16383⟩
abbrev LOG_TRACE_BASE_SIZE : Fld := ⟨.LOG_TRACE_BASE, 36, 9, .ro, .const 16, 0, 511⟩
/-! `LOG_RING_HEAD` (R529, spec/14_trust_boot_logbook.md). -/
abbrev LOG_RING_HEAD_INDEX : Fld := ⟨.LOG_RING_HEAD, 0, 32, .ro, .const 0, 0, 4294967295⟩
/-! `LOG_RING_READ` (R529, spec/14_trust_boot_logbook.md). -/
abbrev LOG_RING_READ_INDEX : Fld := ⟨.LOG_RING_READ, 0, 32, .rw, .const 0, 0, 4294967295⟩
/-! `LOG_TRACE_HEAD` (R529, spec/14_trust_boot_logbook.md). -/
abbrev LOG_TRACE_HEAD_INDEX : Fld := ⟨.LOG_TRACE_HEAD, 0, 32, .ro, .const 0, 0, 4294967295⟩
/-! `LOG_TRACE_READ` (R529, spec/14_trust_boot_logbook.md). -/
abbrev LOG_TRACE_READ_INDEX : Fld := ⟨.LOG_TRACE_READ, 0, 32, .rw, .const 0, 0, 4294967295⟩
/-! `LOG_BOOK` (R529, spec/14_trust_boot_logbook.md). -/
abbrev LOG_BOOK_SEQ : Fld := ⟨.LOG_BOOK, 0, 32, .ro, .const 0, 0, 4294967295⟩
abbrev LOG_BOOK_FREE : Fld := ⟨.LOG_BOOK, 32, 10, .ro, .const 0, 0, 1023⟩
abbrev LOG_BOOK_STATE : Fld := ⟨.LOG_BOOK, 48, 3, .ro, .const 0, 0, 7⟩
/-! `LOG_BOOK_BUDGET` (R529, spec/14_trust_boot_logbook.md). -/
abbrev LOG_BOOK_BUDGET_USED : Fld := ⟨.LOG_BOOK_BUDGET, 0, 16, .ro, .const 0, 0, 65535⟩
abbrev LOG_BOOK_BUDGET_DEFER : Fld := ⟨.LOG_BOOK_BUDGET, 16, 1, .ro, .const 0, 0, 1⟩
/-! `MODE_STATE` (R549, spec/15_modes_and_shared_resources.md). -/
abbrev MODE_STATE_STATE : Fld := ⟨.MODE_STATE, 0, 3, .ro, .const 1, 0, 7⟩
abbrev MODE_STATE_PREV : Fld := ⟨.MODE_STATE, 3, 3, .ro, .const 0, 0, 7⟩
abbrev MODE_STATE_CAUSE : Fld := ⟨.MODE_STATE, 8, 4, .ro, .const 1, 0, 15⟩
abbrev MODE_STATE_POWER : Fld := ⟨.MODE_STATE, 12, 2, .ro, .const 0, 0, 3⟩
abbrev MODE_STATE_TRACE : Fld := ⟨.MODE_STATE, 14, 1, .ro, .const 0, 0, 1⟩
abbrev MODE_STATE_REQ_PEND : Fld := ⟨.MODE_STATE, 15, 1, .ro, .const 0, 0, 1⟩
/-! `MODE_CFG` (R549, spec/15_modes_and_shared_resources.md). -/
abbrev MODE_CFG_POWER : Fld := ⟨.MODE_CFG, 0, 2, .rw, .const 0, 0, 2⟩
abbrev MODE_CFG_TRACE : Fld := ⟨.MODE_CFG, 2, 1, .rw, .const 0, 0, 1⟩
/-! `MODE_CTL` (R549, spec/15_modes_and_shared_resources.md). -/
abbrev MODE_CTL_TARGET : Fld := ⟨.MODE_CTL, 0, 3, .rw, .const 0, 0, 7⟩
abbrev MODE_CTL_GO : Fld := ⟨.MODE_CTL, 31, 1, .wo, .const 0, 0, 1⟩
/-! `MODE_PORTS` (R549, spec/15_modes_and_shared_resources.md). -/
abbrev MODE_PORTS_UH1 : Fld := ⟨.MODE_PORTS, 0, 32, .ro, .const 0, 0, 4294967295⟩
abbrev MODE_PORTS_REH : Fld := ⟨.MODE_PORTS, 32, 32, .ro, .const 0, 0, 4294967295⟩
/-! `MODE_ARB` (R549, spec/15_modes_and_shared_resources.md). -/
abbrev MODE_ARB_CONV : Fld := ⟨.MODE_ARB, 0, 4, .ro, .const 0, 0, 15⟩
abbrev MODE_ARB_WRQ : Fld := ⟨.MODE_ARB, 8, 10, .ro, .const 0, 0, 1023⟩
abbrev MODE_ARB_TDEFER : Fld := ⟨.MODE_ARB, 32, 16, .rc, .const 0, 0, 65535⟩
abbrev MODE_ARB_TMAX : Fld := ⟨.MODE_ARB, 48, 8, .rc, .const 0, 0, 255⟩
/-! `WIN_BASE` (R227, spec/06_one_memory_space.md). -/
abbrev WIN_BASE_BASE : Fld := ⟨.WIN_BASE, 12, 24, .ro, .const 0, 0, 16777215⟩
/-! `WIN_SIZE` (R227, spec/06_one_memory_space.md). -/
abbrev WIN_SIZE_SIZE : Fld := ⟨.WIN_SIZE, 12, 24, .ro, .const 0, 0, 16777215⟩
/-! `WIN_PERM` (R227, spec/06_one_memory_space.md). -/
abbrev WIN_PERM_R : Fld := ⟨.WIN_PERM, 0, 1, .ro, .const 0, 0, 1⟩
abbrev WIN_PERM_W : Fld := ⟨.WIN_PERM, 1, 1, .ro, .const 0, 0, 1⟩
abbrev WIN_PERM_A : Fld := ⟨.WIN_PERM, 2, 1, .ro, .const 0, 0, 1⟩
abbrev WIN_PERM_LOCAL : Fld := ⟨.WIN_PERM, 3, 1, .ro, .const 0, 0, 1⟩
abbrev WIN_PERM_VALID : Fld := ⟨.WIN_PERM, 31, 1, .ro, .const 0, 0, 1⟩

end F

/-- The fields of a register, in the order of its field map. -/
def Reg.fields : Reg → List Fld
  | .MOD_IDENT => [F.MOD_IDENT_PART, F.MOD_IDENT_STEPPING, F.MOD_IDENT_GEN]
  | .MOD_DEVICE_ID => [F.MOD_DEVICE_ID_ID, F.MOD_DEVICE_ID_VALID]
  | .MOD_STATUS => [F.MOD_STATUS_UP_READY, F.MOD_STATUS_DOWN_READY, F.MOD_STATUS_BRIDGE_UP, F.MOD_STATUS_CLK_LOSS, F.MOD_STATUS_UP_PRESET, F.MOD_STATUS_DOWN_PRESET, F.MOD_STATUS_DEV_FAULT]
  | .TILE_FLAGS => [F.TILE_FLAGS_INEXACT, F.TILE_FLAGS_OVF, F.TILE_FLAGS_NAN, F.TILE_FLAGS_UNCORR, F.TILE_FLAGS_CORR, F.TILE_FLAGS_LAYOUT, F.TILE_FLAGS_SEQ]
  | .TILE_ARRAY_STATUS => [F.TILE_ARRAY_STATUS_BUSY, F.TILE_ARRAY_STATUS_GROUP_OPEN, F.TILE_ARRAY_STATUS_OWNER, F.TILE_ARRAY_STATUS_QUEUED, F.TILE_ARRAY_STATUS_WAITERS, F.TILE_ARRAY_STATUS_DRAINING, F.TILE_ARRAY_STATUS_PACKED]
  | .TILE_ARRAY_CODE => [F.TILE_ARRAY_CODE_CORR_CNT, F.TILE_ARRAY_CODE_UNCORR_CNT]
  | .TILE_ARRAY_ERRBLK => [F.TILE_ARRAY_ERRBLK_BLOCK, F.TILE_ARRAY_ERRBLK_VALID]
  | .TILE_ARRAY_BUSY => [F.TILE_ARRAY_BUSY_COUNT]
  | .TILE_ARRAY_STALL => [F.TILE_ARRAY_STALL_COUNT]
  | .TILE_ARRAY_CTL => [F.TILE_ARRAY_CTL_CNT_CLR]
  | .TILE_CTL => [F.TILE_CTL_RUN, F.TILE_CTL_START, F.TILE_CTL_ABORT, F.TILE_CTL_CNT_CLR]
  | .TILE_THREAD_STATE => [F.TILE_THREAD_STATE_T0, F.TILE_THREAD_STATE_T1, F.TILE_THREAD_STATE_T2, F.TILE_THREAD_STATE_T3, F.TILE_THREAD_STATE_T4, F.TILE_THREAD_STATE_T5, F.TILE_THREAD_STATE_T6, F.TILE_THREAD_STATE_T7]
  | .TILE_LOGICAL => [F.TILE_LOGICAL_LTN]
  | .TILE_JOB => [F.TILE_JOB_JOB]
  | .TILE_JOB_SEED => [F.TILE_JOB_SEED_SEED]
  | .TILE_STEP => [F.TILE_STEP_STEP]
  | .TILE_ENTRY => [F.TILE_ENTRY_ENTRY]
  | .TILE_FAULT => [F.TILE_FAULT_CAUSE, F.TILE_FAULT_THREAD, F.TILE_FAULT_BLOCK, F.TILE_FAULT_VALID]
  | .TILE_FAULT_PC => [F.TILE_FAULT_PC_PC]
  | .TILE_OUTSTANDING => [F.TILE_OUTSTANDING_COUNT]
  | .TILE_ISSUED => [F.TILE_ISSUED_COUNT]
  | .TILE_SWITCHES => [F.TILE_SWITCHES_COUNT]
  | .BLK_STATUS => [F.BLK_STATUS_CTRL_UP, F.BLK_STATUS_LINK_UP, F.BLK_STATUS_RETIRED_CNT]
  | .BLK_RETIRED => [F.BLK_RETIRED_MAP]
  | .BLK_RETIRE_PEND => [F.BLK_RETIRE_PEND_MAP]
  | .BLK_CTL => [F.BLK_CTL_TILE, F.BLK_CTL_RETIRE]
  | .BLK_LINK_RD => [F.BLK_LINK_RD_BYTES]
  | .BLK_LINK_WR => [F.BLK_LINK_WR_BYTES]
  | .DEP_STATUS => [F.DEP_STATUS_READY, F.DEP_STATUS_INIT_BUSY, F.DEP_STATUS_DEGRADED, F.DEP_STATUS_FAILED, F.DEP_STATUS_RETRAINING]
  | .DEP_CFG => [F.DEP_CFG_ERASE_THR, F.DEP_CFG_SCRUB_H, F.DEP_CFG_QWAYS, F.DEP_CFG_STRICT]
  | .DEP_BAND => [F.DEP_BAND_BAND, F.DEP_BAND_REFRESH_MS, F.DEP_BAND_BEAT]
  | .DEP_CTL => [F.DEP_CTL_CNT_CLR, F.DEP_CTL_SCRUB_NOW]
  | .DEP_CORR => [F.DEP_CORR_COUNT]
  | .DEP_UNCORR => [F.DEP_UNCORR_COUNT]
  | .DEP_ERR_ADDR => [F.DEP_ERR_ADDR_ADDR, F.DEP_ERR_ADDR_VALID]
  | .DEP_HOT_OPS => [F.DEP_HOT_OPS_COUNT]
  | .DEP_HOT_REFUSED => [F.DEP_HOT_REFUSED_COUNT]
  | .DEP_HOT_STATUS => [F.DEP_HOT_STATUS_INUSE, F.DEP_HOT_STATUS_PEAK]
  | .DEP_ACC_SAT => [F.DEP_ACC_SAT_COUNT]
  | .DEP_SCRUB => [F.DEP_SCRUB_PASSES, F.DEP_SCRUB_PROGRESS]
  | .DEP_CH_STATUS => [F.DEP_CH_STATUS_TRAINED, F.DEP_CH_STATUS_RETRAINING, F.DEP_CH_STATUS_FAILED, F.DEP_CH_STATUS_SPARES_USED, F.DEP_CH_STATUS_ERASED, F.DEP_CH_STATUS_LAST_SYM, F.DEP_CH_STATUS_LSV]
  | .DEP_CH_CTL => [F.DEP_CH_CTL_RETRAIN]
  | .DEP_CH_SPARE => [F.DEP_CH_SPARE_VIA0, F.DEP_CH_SPARE_VIA1, F.DEP_CH_SPARE_VIA2, F.DEP_CH_SPARE_VIA3, F.DEP_CH_SPARE_VALID0, F.DEP_CH_SPARE_VALID1, F.DEP_CH_SPARE_VALID2, F.DEP_CH_SPARE_VALID3]
  | .DEP_CH_ERASE => [F.DEP_CH_ERASE_VIA0, F.DEP_CH_ERASE_VIA1, F.DEP_CH_ERASE_VIA2, F.DEP_CH_ERASE_VIA3, F.DEP_CH_ERASE_VALID0, F.DEP_CH_ERASE_VALID1, F.DEP_CH_ERASE_VALID2, F.DEP_CH_ERASE_VALID3]
  | .DEP_CH_CORR => [F.DEP_CH_CORR_CORR, F.DEP_CH_CORR_UNCORR]
  | .WIN_CFG => [F.WIN_CFG_RETX, F.WIN_CFG_TIMEOUT]
  | .WIN_STATUS => [F.WIN_STATUS_BUSY, F.WIN_STATUS_BOUND, F.WIN_STATUS_GATEWAY]
  | .WIN_COMMIT => [F.WIN_COMMIT_SLOT, F.WIN_COMMIT_WINDOW, F.WIN_COMMIT_OP, F.WIN_COMMIT_JOB, F.WIN_COMMIT_GO]
  | .WIN_STAGE_PERM => [F.WIN_STAGE_PERM_R, F.WIN_STAGE_PERM_W, F.WIN_STAGE_PERM_A, F.WIN_STAGE_PERM_LOCAL, F.WIN_STAGE_PERM_VALID]
  | .WIN_STAGE_BASE => [F.WIN_STAGE_BASE_BASE]
  | .WIN_STAGE_SIZE => [F.WIN_STAGE_SIZE_SIZE]
  | .WIN_JOB => [F.WIN_JOB_JOB, F.WIN_JOB_BOUND]
  | .WIN_INFLIGHT => [F.WIN_INFLIGHT_COUNT]
  | .WIN_GW_CFG => [F.WIN_GW_CFG_GATEWAY, F.WIN_GW_CFG_NGW, F.WIN_GW_CFG_DELAY]
  | .WIN_GW_LIST => [F.WIN_GW_LIST_GW0, F.WIN_GW_LIST_GW1, F.WIN_GW_LIST_GW2, F.WIN_GW_LIST_GW3]
  | .WIN_REFUSED => [F.WIN_REFUSED_COUNT]
  | .WIN_RETX => [F.WIN_RETX_COUNT]
  | .WIN_TIMEOUTS => [F.WIN_TIMEOUTS_COUNT]
  | .WIN_LAST_REFUSAL => [F.WIN_LAST_REFUSAL_STATUS, F.WIN_LAST_REFUSAL_SRC, F.WIN_LAST_REFUSAL_JOB, F.WIN_LAST_REFUSAL_WINDOW, F.WIN_LAST_REFUSAL_VALID]
  | .CUE_CFG => [F.CUE_CFG_CLOSE_TO]
  | .CUE_STATUS => [F.CUE_STATUS_READY, F.CUE_STATUS_ARMED, F.CUE_STATUS_HELD]
  | .CUE_CTL => [F.CUE_CTL_CNT_CLR, F.CUE_CTL_SLOT, F.CUE_CTL_ABORT]
  | .CUE_STORE_BASE => [F.CUE_STORE_BASE_ADDR]
  | .CUE_MBOX_BASE => [F.CUE_MBOX_BASE_ADDR]
  | .CUE_FIRED => [F.CUE_FIRED_COUNT]
  | .CUE_LAST_ERR => [F.CUE_LAST_ERR_CAUSE, F.CUE_LAST_ERR_SLOT, F.CUE_LAST_ERR_JSLOT, F.CUE_LAST_ERR_STATUS, F.CUE_LAST_ERR_VALID]
  | .CUE_JOB => [F.CUE_JOB_CTR_BASE, F.CUE_JOB_CTR_CNT, F.CUE_JOB_MMAP, F.CUE_JOB_MBOX_WIN, F.CUE_JOB_BK, F.CUE_JOB_K, F.CUE_JOB_SCALE0, F.CUE_JOB_VALID]
  | .CUE_MAP => [F.CUE_MAP_ADDR, F.CUE_MAP_N, F.CUE_MAP_VALID]
  | .CUE_COLL => [F.CUE_COLL_STATE, F.CUE_COLL_ERROR, F.CUE_COLL_DESC]
  | .CUE_CTR => [F.CUE_CTR_VALUE]
  | .STM_CFG => [F.STM_CFG_ENABLE, F.STM_CFG_POLICY, F.STM_CFG_REPLAY, F.STM_CFG_BACKSTOP]
  | .STM_STATUS => [F.STM_STATUS_OPEN, F.STM_STATUS_ACTIVE, F.STM_STATUS_MIRRORED, F.STM_STATUS_MARKED]
  | .STM_STEP => [F.STM_STEP_STEP]
  | .STM_DEADLINE => [F.STM_DEADLINE_US]
  | .STM_PEERS => [F.STM_PEERS_PRIMARY, F.STM_PEERS_STANDBY]
  | .STM_JOURNAL => [F.STM_JOURNAL_ADDR]
  | .STM_REPLAY => [F.STM_REPLAY_ADDR]
  | .STM_JLEN => [F.STM_JLEN_RECORDS]
  | .STM_LAST => [F.STM_LAST_STEP, F.STM_LAST_NINC, F.STM_LAST_FLAGS]
  | .STM_LAST_DIV => [F.STM_LAST_DIV_DIVISOR]
  | .STM_LATE => [F.STM_LATE_LATE, F.STM_LATE_POISONED]
  | .DEP_SHN_STATUS => [F.DEP_SHN_STATUS_READY, F.DEP_SHN_STATUS_PEND_UP, F.DEP_SHN_STATUS_PEND_DOWN]
  | .DEP_SHN_CTL => [F.DEP_SHN_CTL_CNT_CLR]
  | .DEP_SHN_QBASE => [F.DEP_SHN_QBASE_ADDR]
  | .DEP_SHN_ROWS => [F.DEP_SHN_ROWS_COUNT]
  | .DEP_SHN_FAILED => [F.DEP_SHN_FAILED_COUNT]
  | .DEP_SHN_LAST_ERR => [F.DEP_SHN_LAST_ERR_KIND, F.DEP_SHN_LAST_ERR_STATUS, F.DEP_SHN_LAST_ERR_JOB, F.DEP_SHN_LAST_ERR_TILE, F.DEP_SHN_LAST_ERR_VALID]
  | .PORT_CFG => [F.PORT_CFG_ENABLE, F.PORT_CFG_MODE, F.PORT_CFG_REHEARSE, F.PORT_CFG_MIN_WIDTH, F.PORT_CFG_FIBRE_DEF]
  | .PORT_STATUS => [F.PORT_STATUS_UP, F.PORT_STATUS_TX_WIDTH, F.PORT_STATUS_RX_WIDTH, F.PORT_STATUS_STEERING, F.PORT_STATUS_REHEARSING, F.PORT_STATUS_TRAINING, F.PORT_STATUS_DARK, F.PORT_STATUS_NARROW_CO, F.PORT_STATUS_UH1, F.PORT_STATUS_STEER_FAIL, F.PORT_STATUS_REH_FAIL]
  | .PORT_LANES => [F.PORT_LANES_RX_GOOD, F.PORT_LANES_RX_LIVE, F.PORT_LANES_TX_LIVE, F.PORT_LANES_PEER_RXMASK]
  | .PORT_CTL => [F.PORT_CTL_CNT_CLR, F.PORT_CTL_RETRAIN, F.PORT_CTL_RELOCK]
  | .PORT_PEER => [F.PORT_PEER_DEVICE, F.PORT_PEER_PORT, F.PORT_PEER_S, F.PORT_PEER_VALID]
  | .PORT_STEER => [F.PORT_STEER_FIBRE, F.PORT_STEER_CUR, F.PORT_STEER_GO]
  | .PORT_RING => [F.PORT_RING_LOCKED, F.PORT_RING_RELOCKING, F.PORT_RING_MISMATCH]
  | .PORT_RXPWR_LO => [F.PORT_RXPWR_LO_PWR0, F.PORT_RXPWR_LO_PWR1, F.PORT_RXPWR_LO_PWR2, F.PORT_RXPWR_LO_PWR3]
  | .PORT_RXPWR_HI => [F.PORT_RXPWR_HI_PWR0, F.PORT_RXPWR_HI_PWR1, F.PORT_RXPWR_HI_PWR2, F.PORT_RXPWR_HI_PWR3]
  | .PORT_FARPWR_LO => [F.PORT_FARPWR_LO_PWR0, F.PORT_FARPWR_LO_PWR1, F.PORT_FARPWR_LO_PWR2, F.PORT_FARPWR_LO_PWR3]
  | .PORT_FARPWR_HI => [F.PORT_FARPWR_HI_PWR0, F.PORT_FARPWR_HI_PWR1, F.PORT_FARPWR_HI_PWR2, F.PORT_FARPWR_HI_PWR3]
  | .PORT_MARGIN => [F.PORT_MARGIN_M0, F.PORT_MARGIN_M1, F.PORT_MARGIN_M2, F.PORT_MARGIN_M3, F.PORT_MARGIN_M4, F.PORT_MARGIN_M5, F.PORT_MARGIN_M6, F.PORT_MARGIN_M7]
  | .PORT_LANE_CORR_LO => [F.PORT_LANE_CORR_LO_C0, F.PORT_LANE_CORR_LO_C1, F.PORT_LANE_CORR_LO_C2, F.PORT_LANE_CORR_LO_C3]
  | .PORT_LANE_CORR_HI => [F.PORT_LANE_CORR_HI_C0, F.PORT_LANE_CORR_HI_C1, F.PORT_LANE_CORR_HI_C2, F.PORT_LANE_CORR_HI_C3]
  | .PORT_SLASER => [F.PORT_SLASER_BIAS0, F.PORT_SLASER_STATE0, F.PORT_SLASER_BIAS1, F.PORT_SLASER_STATE1]
  | .LAS_CFG => [F.LAS_CFG_AUTO, F.LAS_CFG_DEFER]
  | .LAS_STATUS => [F.LAS_STATUS_PRESENCE, F.LAS_STATUS_LIT, F.LAS_STATUS_UND_FREE, F.LAS_STATUS_PENDING]
  | .LAS_CTL => [F.LAS_CTL_LASER, F.LAS_CTL_CHANGE]
  | .LAS_LASER => [F.LAS_LASER_BIAS, F.LAS_LASER_STATE, F.LAS_LASER_GROUP, F.LAS_LASER_WL, F.LAS_LASER_MON]
  | .FAB_CFG => [F.FAB_CFG_ADAPT, F.FAB_CFG_FWD, F.FAB_CFG_LINK_RTO, F.FAB_CFG_THR_HI, F.FAB_CFG_THR_LO]
  | .FAB_ARB => [F.FAB_ARB_WREQ, F.FAB_ARB_WCOLL, F.FAB_ARB_WBULK]
  | .FAB_CREDIT => [F.FAB_CREDIT_DED, F.FAB_CREDIT_SPACE]
  | .FAB_STATUS => [F.FAB_STATUS_THROTTLED]
  | .FAB_DROPS => [F.FAB_DROPS_COUNT]
  | .FAB_LAST_DROP => [F.FAB_LAST_DROP_REASON, F.FAB_LAST_DROP_PORT, F.FAB_LAST_DROP_DST, F.FAB_LAST_DROP_TC, F.FAB_LAST_DROP_VALID]
  | .FAB_FIBRE_EXP => [F.FAB_FIBRE_EXP_DEVICE, F.FAB_FIBRE_EXP_PORT, F.FAB_FIBRE_EXP_MODE]
  | .FAB_ROUTE_MEMBER => [F.FAB_ROUTE_MEMBER_PORTS]
  | .FAB_ROUTE_DIST => [F.FAB_ROUTE_DIST_PORTS]
  | .FAB_PORT_CFG => [F.FAB_PORT_CFG_ROLE, F.FAB_PORT_CFG_RING, F.FAB_PORT_CFG_DATELINE]
  | .FAB_PORT_STATUS => [F.FAB_PORT_STATUS_LINK, F.FAB_PORT_STATUS_IDOK, F.FAB_PORT_STATUS_IDPEND, F.FAB_PORT_STATUS_IDBAD, F.FAB_PORT_STATUS_HELD, F.FAB_PORT_STATUS_DISCARD]
  | .FAB_PORT_CTL => [F.FAB_PORT_CTL_CNT_CLR]
  | .FAB_PORT_REPLAYS => [F.FAB_PORT_REPLAYS_REPLAYS, F.FAB_PORT_REPLAYS_NAKS]
  | .FAB_PORT_TX => [F.FAB_PORT_TX_FLITS]
  | .FAB_PORT_RX => [F.FAB_PORT_RX_FLITS]
  | .FAB_PORT_QUEUE => [F.FAB_PORT_QUEUE_UNSENT, F.FAB_PORT_QUEUE_UNACKED]
  | .ILK_CFG => [F.ILK_CFG_HB_US, F.ILK_CFG_FORM_WAIT, F.ILK_CFG_HALL_WAIT, F.ILK_CFG_READMIT_MAX]
  | .ILK_STATUS => [F.ILK_STATUS_MEMBER, F.ILK_STATUS_FENCED, F.ILK_STATUS_BOX, F.ILK_STATUS_CHAIR, F.ILK_STATUS_CHANGE, F.ILK_STATUS_FORMED, F.ILK_STATUS_HALL, F.ILK_STATUS_REQ_PEND, F.ILK_STATUS_REQ_YES, F.ILK_STATUS_NMEM, F.ILK_STATUS_NBOX, F.ILK_STATUS_PLANE_A, F.ILK_STATUS_PLANE_B]
  | .ILK_EPOCH => [F.ILK_EPOCH_EPOCH]
  | .ILK_CTL => [F.ILK_CTL_SUBJ, F.ILK_CTL_OP, F.ILK_CTL_JOB, F.ILK_CTL_GO]
  | .ILK_MEMBERS => [F.ILK_MEMBERS_MAP]
  | .ILK_SUSPECT => [F.ILK_SUSPECT_MAP]
  | .ILK_HALL_MEMBERS => [F.ILK_HALL_MEMBERS_MAP]
  | .ILK_BOXES => [F.ILK_BOXES_BOX0, F.ILK_BOXES_BOX1, F.ILK_BOXES_BOX2, F.ILK_BOXES_BOX3, F.ILK_BOXES_BOX4]
  | .ILK_HEALTH => [F.ILK_HEALTH_FIELDS]
  | .ILK_LAST_CHANGE => [F.ILK_LAST_CHANGE_EPOCH, F.ILK_LAST_CHANGE_OP, F.ILK_LAST_CHANGE_SUBJ, F.ILK_LAST_CHANGE_REASON, F.ILK_LAST_CHANGE_VALID]
  | .ILK_CKPT => [F.ILK_CKPT_FLASH_STEPS, F.ILK_CKPT_STORE_MULT]
  | .ILK_COUNTS => [F.ILK_COUNTS_EXPELS, F.ILK_COUNTS_FAILED, F.ILK_COUNTS_FENCES, F.ILK_COUNTS_REFUSED]
  | .ILK_INST => [F.ILK_INST_INST]
  | .ILK_MARGIN => [F.ILK_MARGIN_VHEAD, F.ILK_MARGIN_SLACK]
  | .ILK_DISTRICT => [F.ILK_DISTRICT_DISTRICT, F.ILK_DISTRICT_NEXP]
  | .ILK_PTAB => [F.ILK_PTAB_ADDR, F.ILK_PTAB_VALID]
  | .ILK_HALL_EPOCH => [F.ILK_HALL_EPOCH_EPOCH]
  | .ILK_SPORT_STATUS => [F.ILK_SPORT_STATUS_HB_OK, F.ILK_SPORT_STATUS_BOXES_HEARD]
  | .ILK_SPORT_RX => [F.ILK_SPORT_RX_COUNT]
  | .ILK_SPORT_TX => [F.ILK_SPORT_TX_COUNT]
  | .BRG_CFG => [F.BRG_CFG_ERASE_THR]
  | .BRG_STATUS => [F.BRG_STATUS_UP, F.BRG_STATUS_TRAINING, F.BRG_STATUS_HOLD, F.BRG_STATUS_WIDTH, F.BRG_STATUS_AGREED]
  | .BRG_CTL => [F.BRG_CTL_RETRAIN, F.BRG_CTL_PRESET_UP, F.BRG_CTL_PRESET_DOWN, F.BRG_CTL_CNT_CLR]
  | .BRG_EPOCH => [F.BRG_EPOCH_TEPOCH]
  | .BRG_GOOD => [F.BRG_GOOD_MAP]
  | .BRG_ERRORS => [F.BRG_ERRORS_REPLAYS, F.BRG_ERRORS_TRAININGS, F.BRG_ERRORS_SPARES, F.BRG_ERRORS_DROPS]
  | .BRG_GROUP_SEL => [F.BRG_GROUP_SEL_GROUP, F.BRG_GROUP_SEL_DIR]
  | .BRG_GROUP_INFO => [F.BRG_GROUP_INFO_ERASE, F.BRG_GROUP_INFO_EVALID, F.BRG_GROUP_INFO_CORR, F.BRG_GROUP_INFO_STATE]
  | .BRG_FLITS_UD => [F.BRG_FLITS_UD_COUNT]
  | .BRG_FLITS_DU => [F.BRG_FLITS_DU_COUNT]
  | .PWR_CFG => [F.PWR_CFG_RATE, F.PWR_CFG_CAP_W, F.PWR_CFG_QUIET_W]
  | .THM_CFG => [F.THM_CFG_CAL_IDLE_MS, F.THM_CFG_HYST]
  | .PWR_DEVICE => [F.PWR_DEVICE_PKG, F.PWR_DEVICE_INPUT]
  | .PWR_STATUS => [F.PWR_STATUS_GRANT, F.PWR_STATUS_FALLBACK, F.PWR_STATUS_FAST, F.PWR_STATUS_THROTTLE, F.PWR_STATUS_TARGET, F.PWR_STATUS_HOTBAND]
  | .PWR_MEAS => [F.PWR_MEAS_MEAS, F.PWR_MEAS_DEMAND]
  | .PWR_EXCH => [F.PWR_EXCH_MISSED, F.PWR_EXCH_TRIPS]
  | .THM_COOLANT => [F.THM_COOLANT_INLET, F.THM_COOLANT_OUTLET]
  | .THM_CAL => [F.THM_CAL_SHIFT, F.THM_CAL_COUNT, F.THM_CAL_GUARD]
  | .THM_CHIP => [F.THM_CHIP_TEMP0, F.THM_CHIP_BAND0, F.THM_CHIP_TEMP1, F.THM_CHIP_BAND1]
  | .THM_BLK => [F.THM_BLK_TEMP, F.THM_BLK_BAND, F.THM_BLK_FASTUPD, F.THM_BLK_VOLT, F.THM_BLK_RATE, F.THM_BLK_SLACK, F.THM_BLK_HEAD]
  | .MOD_MSTATUS => [F.MOD_MSTATUS_PRES_A, F.MOD_MSTATUS_PRES_B, F.MOD_MSTATUS_PRESENT, F.MOD_MSTATUS_SLOT_OK, F.MOD_MSTATUS_AUTO, F.MOD_MSTATUS_INPUT_OK, F.MOD_MSTATUS_HS_ON, F.MOD_MSTATUS_PGOOD, F.MOD_MSTATUS_SLOT, F.MOD_MSTATUS_HS_FAULT, F.MOD_MSTATUS_IND, F.MOD_MSTATUS_DRAINED]
  | .MOD_CTL => [F.MOD_CTL_POWER_ON, F.MOD_CTL_POWER_OFF, F.MOD_CTL_DRAIN, F.MOD_CTL_RESET, F.MOD_CTL_LOCATE]
  | .MOD_CFG => [F.MOD_CFG_DRAIN_WAIT]
  | .MOD_INPUT => [F.MOD_INPUT_VIN, F.MOD_INPUT_IIN]
  | .MOD_COOLANT => [F.MOD_COOLANT_FLOW, F.MOD_COOLANT_LOW_FLOW, F.MOD_COOLANT_HOT_INLET]
  | .MOD_HISTORY => [F.MOD_HISTORY_CUTS, F.MOD_HISTORY_DRAINS]
  | .MOD_I3C => [F.MOD_I3C_DA, F.MOD_I3C_IBI, F.MOD_I3C_REFUSED]
  | .LYS_STATUS => [F.LYS_STATUS_UP, F.LYS_STATUS_WIDTH, F.LYS_STATUS_FEAT_DONE, F.LYS_STATUS_TRAININGS, F.LYS_STATUS_RTO, F.LYS_STATUS_EV_DROP]
  | .LYS_CFG => [F.LYS_CFG_RECALL_US]
  | .LYS_CTL => [F.LYS_CTL_RETRAIN, F.LYS_CTL_CNT_CLR]
  | .LYS_ERRORS => [F.LYS_ERRORS_FEC_CORR, F.LYS_ERRORS_REPLAYS]
  | .LYS_FEAT_DEV => [F.LYS_FEAT_DEV_BITS]
  | .LYS_FEAT_PEER => [F.LYS_FEAT_PEER_BITS]
  | .LYS_FEATURES => [F.LYS_FEATURES_BITS]
  | .LYS_DIR => [F.LYS_DIR_UP, F.LYS_DIR_DOWN]
  | .LYS_RECALLS => [F.LYS_RECALLS_COUNT]
  | .LYS_TX_FLITS => [F.LYS_TX_FLITS_COUNT]
  | .LYS_RX_FLITS => [F.LYS_RX_FLITS_COUNT]
  | .SEC_BOOT => [F.SEC_BOOT_STAGE, F.SEC_BOOT_BANK, F.SEC_BOOT_PENDING_TRY, F.SEC_BOOT_UNOWNED, F.SEC_BOOT_CFG_SLOT, F.SEC_BOOT_CFG_DEFAULT, F.SEC_BOOT_FAIL]
  | .SEC_CTL => [F.SEC_CTL_OP, F.SEC_CTL_GO]
  | .SEC_FW_AREA => [F.SEC_FW_AREA_ADDR]
  | .SEC_CTR0 => [F.SEC_CTR0_VALUE]
  | .SEC_CTR1 => [F.SEC_CTR1_VALUE]
  | .SEC_CTR2 => [F.SEC_CTR2_VALUE]
  | .SEC_OWNERS => [F.SEC_OWNERS_SLOTS]
  | .SEC_STAGE => [F.SEC_STAGE_ADDR, F.SEC_STAGE_LINES]
  | .SEC_ATT => [F.SEC_ATT_ADDR, F.SEC_ATT_BUSY, F.SEC_ATT_GO]
  | .SEC_UPD_STATUS => [F.SEC_UPD_STATUS_BUSY, F.SEC_UPD_STATUS_OP, F.SEC_UPD_STATUS_RESULT, F.SEC_UPD_STATUS_PROGRESS]
  | .SEC_FW => [F.SEC_FW_SVN, F.SEC_FW_BUILD]
  | .SEC_RCV_CTL => [F.SEC_RCV_CTL_CHUNK, F.SEC_RCV_CTL_LAST, F.SEC_RCV_CTL_GO]
  | .LOG_STATUS => [F.LOG_STATUS_LOST, F.LOG_STATUS_HELD_DROP, F.LOG_STATUS_TRACE_DROP]
  | .LOG_RETIRE_CFG => [F.LOG_RETIRE_CFG_CORR_PER_H, F.LOG_RETIRE_CFG_UNCORR, F.LOG_RETIRE_CFG_AUTO]
  | .LOG_RING_BASE => [F.LOG_RING_BASE_ADDR]
  | .LOG_TRACE_BASE => [F.LOG_TRACE_BASE_ADDR, F.LOG_TRACE_BASE_SIZE]
  | .LOG_RING_HEAD => [F.LOG_RING_HEAD_INDEX]
  | .LOG_RING_READ => [F.LOG_RING_READ_INDEX]
  | .LOG_TRACE_HEAD => [F.LOG_TRACE_HEAD_INDEX]
  | .LOG_TRACE_READ => [F.LOG_TRACE_READ_INDEX]
  | .LOG_BOOK => [F.LOG_BOOK_SEQ, F.LOG_BOOK_FREE, F.LOG_BOOK_STATE]
  | .LOG_BOOK_BUDGET => [F.LOG_BOOK_BUDGET_USED, F.LOG_BOOK_BUDGET_DEFER]
  | .MODE_STATE => [F.MODE_STATE_STATE, F.MODE_STATE_PREV, F.MODE_STATE_CAUSE, F.MODE_STATE_POWER, F.MODE_STATE_TRACE, F.MODE_STATE_REQ_PEND]
  | .MODE_CFG => [F.MODE_CFG_POWER, F.MODE_CFG_TRACE]
  | .MODE_CTL => [F.MODE_CTL_TARGET, F.MODE_CTL_GO]
  | .MODE_PORTS => [F.MODE_PORTS_UH1, F.MODE_PORTS_REH]
  | .MODE_ARB => [F.MODE_ARB_CONV, F.MODE_ARB_WRQ, F.MODE_ARB_TDEFER, F.MODE_ARB_TMAX]
  | .WIN_BASE => [F.WIN_BASE_BASE]
  | .WIN_SIZE => [F.WIN_SIZE_SIZE]
  | .WIN_PERM => [F.WIN_PERM_R, F.WIN_PERM_W, F.WIN_PERM_A, F.WIN_PERM_LOCAL, F.WIN_PERM_VALID]

/-- Whether the register is 64 bits wide (R11). -/
def Reg.wide : Reg → Bool
  | .TILE_ARRAY_BUSY | .TILE_ARRAY_STALL | .TILE_JOB_SEED | .TILE_STEP | .TILE_ISSUED
  | .TILE_SWITCHES | .BLK_RETIRED | .BLK_RETIRE_PEND | .BLK_LINK_RD | .BLK_LINK_WR
  | .DEP_CORR | .DEP_UNCORR | .DEP_ERR_ADDR | .DEP_HOT_OPS | .DEP_HOT_REFUSED
  | .WIN_STAGE_BASE | .WIN_STAGE_SIZE | .WIN_GW_LIST | .WIN_REFUSED | .WIN_RETX
  | .WIN_LAST_REFUSAL | .CUE_STORE_BASE | .CUE_MBOX_BASE | .CUE_FIRED | .CUE_LAST_ERR
  | .CUE_JOB | .CUE_MAP | .STM_STEP | .STM_JOURNAL | .STM_REPLAY
  | .STM_LAST | .DEP_SHN_QBASE | .DEP_SHN_ROWS | .DEP_SHN_FAILED | .DEP_SHN_LAST_ERR
  | .PORT_RXPWR_LO | .PORT_RXPWR_HI | .PORT_FARPWR_LO | .PORT_FARPWR_HI | .PORT_MARGIN
  | .PORT_LANE_CORR_LO | .PORT_LANE_CORR_HI | .LAS_LASER | .FAB_DROPS | .FAB_LAST_DROP
  | .FAB_PORT_TX | .FAB_PORT_RX | .ILK_MEMBERS | .ILK_SUSPECT | .ILK_HALL_MEMBERS
  | .ILK_LAST_CHANGE | .ILK_PTAB | .ILK_SPORT_RX | .ILK_SPORT_TX | .BRG_GOOD
  | .BRG_FLITS_UD | .BRG_FLITS_DU | .THM_BLK | .LYS_FEAT_DEV | .LYS_FEAT_PEER
  | .LYS_FEATURES | .LYS_RECALLS | .LYS_TX_FLITS | .LYS_RX_FLITS | .SEC_FW_AREA
  | .SEC_STAGE | .SEC_ATT | .SEC_FW | .LOG_RING_BASE | .LOG_TRACE_BASE
  | .LOG_BOOK | .MODE_PORTS | .MODE_ARB | .WIN_BASE | .WIN_SIZE => true
  | _ => false

/-- Where a register lies: its first address and, for an array of registers, stride and count of each index, the outermost
first. -/
structure RegAt where
  reg  : Reg
  base : Nat
  dims : List (Nat × Nat)
  deriving DecidableEq, Repr

/-- Addresses of the MOD_ registers. -/
def regsAtMOD : List RegAt := [
  ⟨.MOD_IDENT, 0x00000000, []⟩,
  ⟨.MOD_DEVICE_ID, 0x00000008, []⟩,
  ⟨.MOD_STATUS, 0x00000018, []⟩,
  ⟨.MOD_MSTATUS, 0x07000000, []⟩,
  ⟨.MOD_CTL, 0x07000004, []⟩,
  ⟨.MOD_CFG, 0x07000008, []⟩,
  ⟨.MOD_INPUT, 0x0700000C, []⟩,
  ⟨.MOD_COOLANT, 0x07000010, []⟩,
  ⟨.MOD_HISTORY, 0x07000014, []⟩,
  ⟨.MOD_I3C, 0x07000018, []⟩]

/-- Addresses of the TILE_ registers. -/
def regsAtTILE : List RegAt := [
  ⟨.TILE_FLAGS, 0x01102000, [(0x800000, 2), (0x4000, 32), (0x80, 64)]⟩,
  ⟨.TILE_ARRAY_STATUS, 0x01102004, [(0x800000, 2), (0x4000, 32), (0x80, 64)]⟩,
  ⟨.TILE_ARRAY_CODE, 0x01102008, [(0x800000, 2), (0x4000, 32), (0x80, 64)]⟩,
  ⟨.TILE_ARRAY_ERRBLK, 0x0110200C, [(0x800000, 2), (0x4000, 32), (0x80, 64)]⟩,
  ⟨.TILE_ARRAY_BUSY, 0x01102010, [(0x800000, 2), (0x4000, 32), (0x80, 64)]⟩,
  ⟨.TILE_ARRAY_STALL, 0x01102018, [(0x800000, 2), (0x4000, 32), (0x80, 64)]⟩,
  ⟨.TILE_ARRAY_CTL, 0x01102020, [(0x800000, 2), (0x4000, 32), (0x80, 64)]⟩,
  ⟨.TILE_CTL, 0x01102040, [(0x800000, 2), (0x4000, 32), (0x80, 64)]⟩,
  ⟨.TILE_THREAD_STATE, 0x01102044, [(0x800000, 2), (0x4000, 32), (0x80, 64)]⟩,
  ⟨.TILE_LOGICAL, 0x01102048, [(0x800000, 2), (0x4000, 32), (0x80, 64)]⟩,
  ⟨.TILE_JOB, 0x0110204C, [(0x800000, 2), (0x4000, 32), (0x80, 64)]⟩,
  ⟨.TILE_JOB_SEED, 0x01102050, [(0x800000, 2), (0x4000, 32), (0x80, 64)]⟩,
  ⟨.TILE_STEP, 0x01102058, [(0x800000, 2), (0x4000, 32), (0x80, 64)]⟩,
  ⟨.TILE_ENTRY, 0x01102060, [(0x800000, 2), (0x4000, 32), (0x80, 64)]⟩,
  ⟨.TILE_FAULT, 0x01102064, [(0x800000, 2), (0x4000, 32), (0x80, 64)]⟩,
  ⟨.TILE_FAULT_PC, 0x01102068, [(0x800000, 2), (0x4000, 32), (0x80, 64)]⟩,
  ⟨.TILE_OUTSTANDING, 0x0110206C, [(0x800000, 2), (0x4000, 32), (0x80, 64)]⟩,
  ⟨.TILE_ISSUED, 0x01102070, [(0x800000, 2), (0x4000, 32), (0x80, 64)]⟩,
  ⟨.TILE_SWITCHES, 0x01102078, [(0x800000, 2), (0x4000, 32), (0x80, 64)]⟩]

/-- Addresses of the BLK_ registers. -/
def regsAtBLK : List RegAt := [
  ⟨.BLK_STATUS, 0x01100000, [(0x800000, 2), (0x4000, 32)]⟩,
  ⟨.BLK_RETIRED, 0x01100008, [(0x800000, 2), (0x4000, 32)]⟩,
  ⟨.BLK_RETIRE_PEND, 0x01100010, [(0x800000, 2), (0x4000, 32)]⟩,
  ⟨.BLK_CTL, 0x01100018, [(0x800000, 2), (0x4000, 32)]⟩,
  ⟨.BLK_LINK_RD, 0x01100020, [(0x800000, 2), (0x4000, 32)]⟩,
  ⟨.BLK_LINK_WR, 0x01100028, [(0x800000, 2), (0x4000, 32)]⟩]

/-- Addresses of the DEP_ registers. -/
def regsAtDEP : List RegAt := [
  ⟨.DEP_STATUS, 0x01400000, [(0x800000, 2)]⟩,
  ⟨.DEP_CFG, 0x01400004, [(0x800000, 2)]⟩,
  ⟨.DEP_BAND, 0x01400008, [(0x800000, 2)]⟩,
  ⟨.DEP_CTL, 0x0140000C, [(0x800000, 2)]⟩,
  ⟨.DEP_CORR, 0x01400010, [(0x800000, 2)]⟩,
  ⟨.DEP_UNCORR, 0x01400018, [(0x800000, 2)]⟩,
  ⟨.DEP_ERR_ADDR, 0x01400020, [(0x800000, 2)]⟩,
  ⟨.DEP_HOT_OPS, 0x01400028, [(0x800000, 2)]⟩,
  ⟨.DEP_HOT_REFUSED, 0x01400030, [(0x800000, 2)]⟩,
  ⟨.DEP_HOT_STATUS, 0x01400038, [(0x800000, 2)]⟩,
  ⟨.DEP_ACC_SAT, 0x0140003C, [(0x800000, 2)]⟩,
  ⟨.DEP_SCRUB, 0x01400040, [(0x800000, 2)]⟩,
  ⟨.DEP_CH_STATUS, 0x01401000, [(0x800000, 2), (0x400, 12), (0x40, 16)]⟩,
  ⟨.DEP_CH_CTL, 0x01401004, [(0x800000, 2), (0x400, 12), (0x40, 16)]⟩,
  ⟨.DEP_CH_SPARE, 0x01401008, [(0x800000, 2), (0x400, 12), (0x40, 16)]⟩,
  ⟨.DEP_CH_ERASE, 0x0140100C, [(0x800000, 2), (0x400, 12), (0x40, 16)]⟩,
  ⟨.DEP_CH_CORR, 0x01401010, [(0x800000, 2), (0x400, 12), (0x40, 16)]⟩,
  ⟨.DEP_SHN_STATUS, 0x00140000, []⟩,
  ⟨.DEP_SHN_CTL, 0x00140004, []⟩,
  ⟨.DEP_SHN_QBASE, 0x00140008, []⟩,
  ⟨.DEP_SHN_ROWS, 0x00140010, []⟩,
  ⟨.DEP_SHN_FAILED, 0x00140018, []⟩,
  ⟨.DEP_SHN_LAST_ERR, 0x00140020, []⟩]

/-- Addresses of the WIN_ registers. -/
def regsAtWIN : List RegAt := [
  ⟨.WIN_CFG, 0x00100000, []⟩,
  ⟨.WIN_STATUS, 0x00100004, []⟩,
  ⟨.WIN_COMMIT, 0x00100008, []⟩,
  ⟨.WIN_STAGE_PERM, 0x0010000C, []⟩,
  ⟨.WIN_STAGE_BASE, 0x00100010, []⟩,
  ⟨.WIN_STAGE_SIZE, 0x00100018, []⟩,
  ⟨.WIN_JOB, 0x00101000, [(0x4, 64)]⟩,
  ⟨.WIN_INFLIGHT, 0x00102000, [(0x4, 64)]⟩,
  ⟨.WIN_GW_CFG, 0x00100020, []⟩,
  ⟨.WIN_GW_LIST, 0x00100028, []⟩,
  ⟨.WIN_REFUSED, 0x00100030, []⟩,
  ⟨.WIN_RETX, 0x00100038, []⟩,
  ⟨.WIN_TIMEOUTS, 0x00100024, []⟩,
  ⟨.WIN_LAST_REFUSAL, 0x00100040, []⟩,
  ⟨.WIN_BASE, 0x00110000, [(0x20, 4096)]⟩,
  ⟨.WIN_SIZE, 0x00110008, [(0x20, 4096)]⟩,
  ⟨.WIN_PERM, 0x00110010, [(0x20, 4096)]⟩]

/-- Addresses of the CUE_ registers. -/
def regsAtCUE : List RegAt := [
  ⟨.CUE_CFG, 0x03100000, []⟩,
  ⟨.CUE_STATUS, 0x03100004, []⟩,
  ⟨.CUE_CTL, 0x03100008, []⟩,
  ⟨.CUE_STORE_BASE, 0x03100010, []⟩,
  ⟨.CUE_MBOX_BASE, 0x03100018, []⟩,
  ⟨.CUE_FIRED, 0x03100020, []⟩,
  ⟨.CUE_LAST_ERR, 0x03100028, []⟩,
  ⟨.CUE_JOB, 0x03101000, [(0x8, 64)]⟩,
  ⟨.CUE_MAP, 0x03102000, [(0x8, 256)]⟩,
  ⟨.CUE_COLL, 0x03104000, [(0x4, 1024)]⟩,
  ⟨.CUE_CTR, 0x03110000, [(0x4, 4096)]⟩]

/-- Addresses of the STM_ registers. -/
def regsAtSTM : List RegAt := [
  ⟨.STM_CFG, 0x03180000, [(0x40, 64)]⟩,
  ⟨.STM_STATUS, 0x03180004, [(0x40, 64)]⟩,
  ⟨.STM_STEP, 0x03180008, [(0x40, 64)]⟩,
  ⟨.STM_DEADLINE, 0x03180010, [(0x40, 64)]⟩,
  ⟨.STM_PEERS, 0x03180014, [(0x40, 64)]⟩,
  ⟨.STM_JOURNAL, 0x03180018, [(0x40, 64)]⟩,
  ⟨.STM_REPLAY, 0x03180020, [(0x40, 64)]⟩,
  ⟨.STM_JLEN, 0x03180034, [(0x40, 64)]⟩,
  ⟨.STM_LAST, 0x03180028, [(0x40, 64)]⟩,
  ⟨.STM_LAST_DIV, 0x03180030, [(0x40, 64)]⟩,
  ⟨.STM_LATE, 0x03180038, [(0x40, 64)]⟩]

/-- Addresses of the PORT_ registers. -/
def regsAtPORT : List RegAt := [
  ⟨.PORT_CFG, 0x02000000, [(0x10000, 34)]⟩,
  ⟨.PORT_STATUS, 0x02000004, [(0x10000, 34)]⟩,
  ⟨.PORT_LANES, 0x02000008, [(0x10000, 34)]⟩,
  ⟨.PORT_CTL, 0x0200000C, [(0x10000, 34)]⟩,
  ⟨.PORT_PEER, 0x02000010, [(0x10000, 34)]⟩,
  ⟨.PORT_STEER, 0x02000014, [(0x10000, 32)]⟩,
  ⟨.PORT_RING, 0x02000018, [(0x10000, 34)]⟩,
  ⟨.PORT_RXPWR_LO, 0x02000020, [(0x10000, 34)]⟩,
  ⟨.PORT_RXPWR_HI, 0x02000028, [(0x10000, 32)]⟩,
  ⟨.PORT_FARPWR_LO, 0x02000030, [(0x10000, 34)]⟩,
  ⟨.PORT_FARPWR_HI, 0x02000038, [(0x10000, 32)]⟩,
  ⟨.PORT_MARGIN, 0x02000040, [(0x10000, 32)]⟩,
  ⟨.PORT_LANE_CORR_LO, 0x02000048, [(0x10000, 34)]⟩,
  ⟨.PORT_LANE_CORR_HI, 0x02000050, [(0x10000, 32)]⟩,
  ⟨.PORT_SLASER, 0x02200060, [(0x10000, 2)]⟩]

/-- Addresses of the LAS_ registers. -/
def regsAtLAS : List RegAt := [
  ⟨.LAS_CFG, 0x00180000, [(0x1000, 4)]⟩,
  ⟨.LAS_STATUS, 0x00180004, [(0x1000, 4)]⟩,
  ⟨.LAS_CTL, 0x00180008, [(0x1000, 4)]⟩,
  ⟨.LAS_LASER, 0x00180100, [(0x1000, 4), (0x8, 24)]⟩]

/-- Addresses of the FAB_ registers. -/
def regsAtFAB : List RegAt := [
  ⟨.FAB_CFG, 0x001C0000, []⟩,
  ⟨.FAB_ARB, 0x001C0004, []⟩,
  ⟨.FAB_CREDIT, 0x001C0008, []⟩,
  ⟨.FAB_STATUS, 0x001C000C, []⟩,
  ⟨.FAB_DROPS, 0x001C0010, []⟩,
  ⟨.FAB_LAST_DROP, 0x001C0018, []⟩,
  ⟨.FAB_FIBRE_EXP, 0x001C0400, [(0x4, 44)]⟩,
  ⟨.FAB_ROUTE_MEMBER, 0x001C1000, [(0x4, 64)]⟩,
  ⟨.FAB_ROUTE_DIST, 0x001C2000, [(0x4, 256)]⟩,
  ⟨.FAB_PORT_CFG, 0x02000100, [(0x10000, 32)]⟩,
  ⟨.FAB_PORT_STATUS, 0x02000104, [(0x10000, 32)]⟩,
  ⟨.FAB_PORT_CTL, 0x02000108, [(0x10000, 32)]⟩,
  ⟨.FAB_PORT_REPLAYS, 0x0200010C, [(0x10000, 32)]⟩,
  ⟨.FAB_PORT_TX, 0x02000110, [(0x10000, 32)]⟩,
  ⟨.FAB_PORT_RX, 0x02000118, [(0x10000, 32)]⟩,
  ⟨.FAB_PORT_QUEUE, 0x02000120, [(0x10000, 32)]⟩]

/-- Addresses of the ILK_ registers. -/
def regsAtILK : List RegAt := [
  ⟨.ILK_CFG, 0x03000000, []⟩,
  ⟨.ILK_STATUS, 0x03000004, []⟩,
  ⟨.ILK_EPOCH, 0x03000008, []⟩,
  ⟨.ILK_CTL, 0x0300000C, []⟩,
  ⟨.ILK_MEMBERS, 0x03000010, []⟩,
  ⟨.ILK_SUSPECT, 0x03000028, []⟩,
  ⟨.ILK_HALL_MEMBERS, 0x03001008, [(0x10, 256)]⟩,
  ⟨.ILK_BOXES, 0x03000018, []⟩,
  ⟨.ILK_HEALTH, 0x0300001C, []⟩,
  ⟨.ILK_LAST_CHANGE, 0x03000020, []⟩,
  ⟨.ILK_CKPT, 0x03000030, []⟩,
  ⟨.ILK_COUNTS, 0x03000034, []⟩,
  ⟨.ILK_INST, 0x03000038, []⟩,
  ⟨.ILK_MARGIN, 0x0300003C, []⟩,
  ⟨.ILK_DISTRICT, 0x03000040, []⟩,
  ⟨.ILK_PTAB, 0x03000100, [(0x8, 64)]⟩,
  ⟨.ILK_HALL_EPOCH, 0x03001000, [(0x10, 256)]⟩,
  ⟨.ILK_SPORT_STATUS, 0x02200100, [(0x10000, 2)]⟩,
  ⟨.ILK_SPORT_RX, 0x02200108, [(0x10000, 2)]⟩,
  ⟨.ILK_SPORT_TX, 0x02200110, [(0x10000, 2)]⟩]

/-- Addresses of the BRG_ registers. -/
def regsAtBRG : List RegAt := [
  ⟨.BRG_CFG, 0x00200000, []⟩,
  ⟨.BRG_STATUS, 0x00200004, []⟩,
  ⟨.BRG_CTL, 0x00200008, []⟩,
  ⟨.BRG_EPOCH, 0x0020000C, []⟩,
  ⟨.BRG_GOOD, 0x00200010, []⟩,
  ⟨.BRG_ERRORS, 0x00200018, []⟩,
  ⟨.BRG_GROUP_SEL, 0x0020001C, []⟩,
  ⟨.BRG_GROUP_INFO, 0x00200030, []⟩,
  ⟨.BRG_FLITS_UD, 0x00200020, []⟩,
  ⟨.BRG_FLITS_DU, 0x00200028, []⟩]

/-- Addresses of the PWR_ registers. -/
def regsAtPWR : List RegAt := [
  ⟨.PWR_CFG, 0x04000000, []⟩,
  ⟨.PWR_DEVICE, 0x04000008, []⟩,
  ⟨.PWR_STATUS, 0x04010000, [(0x10000, 2)]⟩,
  ⟨.PWR_MEAS, 0x04010004, [(0x10000, 2)]⟩,
  ⟨.PWR_EXCH, 0x04010008, [(0x10000, 2)]⟩]

/-- Addresses of the THM_ registers. -/
def regsAtTHM : List RegAt := [
  ⟨.THM_CFG, 0x04000004, []⟩,
  ⟨.THM_COOLANT, 0x0401000C, [(0x10000, 2)]⟩,
  ⟨.THM_CAL, 0x04010010, [(0x10000, 2)]⟩,
  ⟨.THM_CHIP, 0x04010014, [(0x10000, 2)]⟩,
  ⟨.THM_BLK, 0x04010100, [(0x10000, 2), (0x8, 32)]⟩]

/-- Addresses of the LYS_ registers. -/
def regsAtLYS : List RegAt := [
  ⟨.LYS_STATUS, 0x07001000, []⟩,
  ⟨.LYS_CFG, 0x07001004, []⟩,
  ⟨.LYS_CTL, 0x07001008, []⟩,
  ⟨.LYS_ERRORS, 0x0700100C, []⟩,
  ⟨.LYS_FEAT_DEV, 0x07001010, []⟩,
  ⟨.LYS_FEAT_PEER, 0x07001018, []⟩,
  ⟨.LYS_FEATURES, 0x00000020, []⟩,
  ⟨.LYS_DIR, 0x07001020, []⟩,
  ⟨.LYS_RECALLS, 0x07001028, []⟩,
  ⟨.LYS_TX_FLITS, 0x07001030, []⟩,
  ⟨.LYS_RX_FLITS, 0x07001038, []⟩]

/-- Addresses of the SEC_ registers. -/
def regsAtSEC : List RegAt := [
  ⟨.SEC_BOOT, 0x05000000, []⟩,
  ⟨.SEC_CTL, 0x05000004, []⟩,
  ⟨.SEC_FW_AREA, 0x05000008, []⟩,
  ⟨.SEC_CTR0, 0x05000010, []⟩,
  ⟨.SEC_CTR1, 0x05000014, []⟩,
  ⟨.SEC_CTR2, 0x05000018, []⟩,
  ⟨.SEC_OWNERS, 0x0500001C, []⟩,
  ⟨.SEC_STAGE, 0x05000020, []⟩,
  ⟨.SEC_ATT, 0x05000028, []⟩,
  ⟨.SEC_UPD_STATUS, 0x05000030, []⟩,
  ⟨.SEC_FW, 0x05000048, [(0x8, 5)]⟩,
  ⟨.SEC_RCV_CTL, 0x05000100, []⟩]

/-- Addresses of the LOG_ registers. -/
def regsAtLOG : List RegAt := [
  ⟨.LOG_STATUS, 0x06000000, []⟩,
  ⟨.LOG_RETIRE_CFG, 0x06000004, []⟩,
  ⟨.LOG_RING_BASE, 0x06000008, []⟩,
  ⟨.LOG_TRACE_BASE, 0x06000018, []⟩,
  ⟨.LOG_RING_HEAD, 0x06000010, []⟩,
  ⟨.LOG_RING_READ, 0x06000014, []⟩,
  ⟨.LOG_TRACE_HEAD, 0x06000020, []⟩,
  ⟨.LOG_TRACE_READ, 0x06000024, []⟩,
  ⟨.LOG_BOOK, 0x06000028, []⟩,
  ⟨.LOG_BOOK_BUDGET, 0x06000030, []⟩]

/-- Addresses of the MODE_ registers. -/
def regsAtMODE : List RegAt := [
  ⟨.MODE_STATE, 0x00000010, []⟩,
  ⟨.MODE_CFG, 0x00000040, []⟩,
  ⟨.MODE_CTL, 0x00000044, []⟩,
  ⟨.MODE_PORTS, 0x00000048, []⟩,
  ⟨.MODE_ARB, 0x00000050, []⟩]

/-- The whole management address map, register by register. -/
def regsAt : List RegAt :=
  regsAtMOD ++ regsAtTILE ++ regsAtBLK ++ regsAtDEP ++ regsAtWIN ++ regsAtCUE ++ regsAtSTM ++ regsAtPORT ++ regsAtLAS ++ regsAtFAB ++ regsAtILK ++ regsAtBRG ++ regsAtPWR ++ regsAtTHM ++ regsAtLYS ++ regsAtSEC ++ regsAtLOG ++ regsAtMODE

/-- The index an offset from the first address selects, and the byte within that register. -/
def indexAt : List (Nat × Nat) → Nat → Nat → Option (Nat × Nat)
  | [], i, r => some (i, r)
  | (st, n) :: ds, i, r => if r / st < n then indexAt ds (i * n + r / st) (r % st) else none

/-- The register, its index and the byte within it that a management address reaches, if any. -/
def RegAt.find (e : RegAt) (a : Nat) : Option (Reg × Nat × Nat) :=
  if a < e.base then none
  else
    match indexAt e.dims 0 (a - e.base) with
    | some (i, b) => if b < (if e.reg.wide then 8 else 4) then some (e.reg, i, b) else none
    | none => none

/-- The register at a management address, with its index and the byte within it (R31, R33: none where the map assigns
nothing). -/
def regAt (a : Nat) : Option (Reg × Nat × Nat) := regsAt.findSome? (·.find a)

end Sys2Proof.Machine
end

