-- ==== Sys2Proof/Machine/State.lean ====
section
/-!
DEFINITION. The state of the module as plain data, the reasons a step can stop, and the state after reset. Registers are
kept field by field in `regs` (Regs.lean names them); the parts below hold what the spec gives the machine beside its
registers. Every default value is the value after reset.
-/

namespace Sys2Proof.Machine

/-! ## Tiles (chapters 02 and 04) -/

/-- State of a thread, as `TILE_THREAD_STATE` numbers it (R135). -/
inductive ThState where
  | idle | ready | out | held | faulted
  deriving DecidableEq, Repr

/-- What a switched-out thread waits for (R100, R122). -/
inductive Wait where
  | none
  | op (id : Nat)
  | xfers (n pc : Nat)
  | fence (pc : Nat)
  deriving DecidableEq, Repr

/-- One hardware thread (R97): program counter, condition field, registers, and the streams it sent on since its last
fence (R216), each as destination, job and SEQ. -/
structure Thread where
  st      : ThState := .idle
  pc      : Nat := 0
  cond    : Nat := 0
  s       : NMap W64 := []
  v       : NMap W32 := []
  wait    : Wait := .none
  streams : List (Nat × Nat × Nat) := []
  deriving DecidableEq, Repr

/-- What a tile's remote operation does with its answer (R121, R123). -/
inductive TOpKind where
  | load (sd : Nat) (wide : Bool)
  | posted
  | get (block : Nat)
  | put
  | getp (line : Nat)
  deriving DecidableEq, Repr

/-- A remote operation or transfer of a tile: the thread and program counter that issued it, how many requests it was cut
into and how many are answered, whether its answer is still wanted, and the cause that failed it, of the first request that
failed, with that request's place among them (R131, R141, R216). -/
structure TOp where
  id     : Nat
  thread : Nat
  pc     : Nat
  kind   : TOpKind
  pieces : Nat
  done   : Nat
  live   : Bool
  fail   : Option (Nat × Nat)
  failAt : Nat
  deriving DecidableEq, Repr

/-- An answer on its way to a tile: which operation and which request of it, the status, the value and the lines it brings. -/
structure Arrival where
  op     : Nat
  piece  : Nat
  status : Nat
  value  : Nat
  data   : List Line
  deriving DecidableEq, Repr

/-- One dot cell (R79 to R85): the accumulator, its alignment exponent, and whether it is saturated, poisoned by data, or
has its exponent yet. -/
structure Cell where
  acc    : Int := 0
  e      : Int := 0
  opened : Bool := false
  sat    : Bool := false
  poison : Bool := false
  deriving DecidableEq, Repr

/-- A read-out as `mrd` issued it (R113, R114). -/
structure ReadOut where
  thread : Nat
  desc   : Nat
  fmt    : Nat
  sr     : Bool
  stream : Nat
  pitch  : Nat
  seed   : Nat
  ltn    : Nat
  step   : Nat
  deriving DecidableEq, Repr

/-- An instruction group of the array: what its opener fixed (R111), its packing list (R59) with whether it still waits for a
read-out (R46) or was uncorrectable (R52), its cells, its flags as `TILE_FLAGS` numbers them, whether the whole group is poisoned,
and its read-out once issued. -/
structure Group where
  id      : Nat
  owner   : Nat
  packed  : Bool
  fa      : Nat
  fb      : Nat
  ma      : Bool
  mb      : Bool
  align   : Nat
  pdesc   : Nat
  plist   : Option Line
  listWait : Bool
  listLost : Bool
  count   : Nat
  cells   : List Cell
  flags   : Nat
  poison  : Bool
  readOut : Option ReadOut
  deriving DecidableEq, Repr

/-- A matrix instruction admitted to the array: its class (0 FP4, 1 FP8, 2 16-bit), operands as read at issue, its index in
the group, and for each read of its feeds the contents it may see (R57), oldest first. -/
structure QInstr where
  group  : Nat
  thread : Nat
  cls    : Nat
  sa     : Nat
  sb     : Nat
  ss     : Nat
  oa     : Bool
  ob     : Bool
  t      : Nat
  cand   : List (Nat × List (Line × Damage))
  deriving DecidableEq, Repr

/-- A thread held at an opener (R41), with the instruction's word and register operands. -/
structure Opener where
  thread : Nat
  word   : Nat
  sa     : Nat
  sb     : Nat
  ss     : Nat
  deriving DecidableEq, Repr

/-- The dot-cell array of a tile: groups in flight (oldest first), the instruction in the feeds or cells, the queue of at
most four, the held openers in order, the group in the latch whose results are not yet written, and the discarded group into which
the instruction in the feeds or cells still runs (R42). -/
structure ArrayState where
  nextId  : Nat := 0
  groups  : List Group := []
  openG   : Option Nat := none
  running : Option QInstr := none
  queue   : List QInstr := []
  waiters : List Opener := []
  latch   : Option Group := none
  dead    : Option Group := none
  deriving DecidableEq, Repr

/-- One tile: threads, stores with their damage, event counters, array, outstanding operations, answers on their way,
pending scrub writes, error history (R525), its copy of the retired-tile map (R129), and the program lines that the dispatcher has for
it and loads before the next start (R98). -/
structure Tile where
  threads   : List Thread := List.replicate 8 {}
  lastTh    : Nat := 7
  store     : Mem := []
  storeErr  : NMap Damage := []
  prog      : Mem := []
  progErr   : NMap Damage := []
  events    : NMap W32 := []
  array     : ArrayState := {}
  ops       : List TOp := []
  nextOp    : Nat := 0
  arrivals  : List Arrival := []
  scrubs    : List Nat := []
  corrTimes : List Nat := []
  uncTimes  : List Nat := []
  uncBlocks : List Nat := []
  retired   : NMap W64 := []
  image     : List (BitVec 9 × Line) := []
  deriving DecidableEq, Repr

/-- A logbook record waiting to be appended (R519, R520): its type, the item of that type it holds, whether it is class B,
and its payload as (value, width in bits). -/
structure BookRec where
  typ    : Nat
  item   : Nat
  classB : Bool
  args   : List (Nat × Nat)
  deriving DecidableEq, Repr

/-! ## The depot (chapter 05) -/

/-- The operations of a home slice (R173), the two grants to the companion (R483), and a whole-line write of a failed row's
poisoned line (R157, R286). -/
inductive HomeOp where
  | load | store | add | min | max | xor | swap | cas | acc | fadd | rdShared | rdOwn | poison
  deriving DecidableEq, Repr

/-- Who is answered when a slice has performed a line's operation: a home row by its tag, part `i` of a request in
progress, or nobody, where a unit of the device writes on its own. -/
inductive LineWho where
  | row (tag : Nat)
  | part (id i : Nat)
  | none
  deriving DecidableEq, Repr

/-- One operation on one line at its home slice: the depot address, the width in bytes (4, 8 or 64), whether a miss
allocates (R169), the stream it belongs to with RP, ORIG and SEQ for the blocks of R180, whether its stream half has no room for
the response and passes it to the slice as a refusal (R212), and whether it serves a duplicate READ, which changes nothing (R215). -/
structure LineOp where
  op      : HomeOp
  addr    : Nat
  width   : Nat
  operand : Nat
  compare : Nat
  alloc   : Bool
  stream  : Option (Nat × Nat)
  origin  : Nat
  rp      : Bool
  noRoom  : Bool := false
  again   : Bool := false
  who     : LineWho
  deriving DecidableEq, Repr

/-- A slice's answer to one line operation. -/
structure Ans where
  status : Nat
  value  : Nat
  hseq   : Option Nat
  delay  : Nat
  deriving DecidableEq, Repr

/-- One way of a cache set: the line it holds and whether that copy is newer than the stack's. -/
structure Way where
  line  : Nat
  dirty : Bool
  deriving DecidableEq, Repr

/-- A cache set (R168, R169): its ways and the 15 bits of the pseudo-LRU tree. -/
structure CacheSet where
  ways : NMap (Option Way) := []
  plru : Nat := 0
  deriving DecidableEq, Repr

/-- A hot line's combining queue (R177 to R179): its entries, and the time up to which refusals are booked. -/
structure HotQueue where
  line    : Nat
  entries : List LineOp
  booked  : Nat
  deriving DecidableEq, Repr

/-- A block record of R180: the stream and line refused, the recorded origin, and whether it lies in the closure store. -/
structure Block where
  src     : Nat
  job     : Nat
  line    : Nat
  origin  : Nat
  closure : Bool
  deriving DecidableEq, Repr

/-- A line the companion holds (R172, R483): owned or shared, and when it was last granted, as a count of grants. -/
structure DirEntry where
  line  : Nat
  owned : Bool
  stamp : Nat
  deriving DecidableEq, Repr

/-- A recall in progress (R172, R485): its tag on the link once sent, the line, whether it keeps the line shared, and the
operations that wait for it. -/
structure Recall where
  tag  : Option Nat
  line : Nat
  keep : Bool
  ops  : List LineOp
  deriving DecidableEq, Repr

/-- The depot: contents of the 48 GiB, damage of the stack copies, the cache as a directory over the contents, damage of its copies
not yet met by a read (R171), operations
waiting for a stack, hot queues, blocks (oldest first), operations waiting behind a full closure store, slice sequence
counters, the companion's directory and the lines whose recall was closed unanswered (R486), the correction times by symbol
position (R160), the scrubber's next line per half, and a refresh window waiting to apply (R165) with the time since. -/
structure Depot where
  mem      : Mem := []
  err      : NMap Damage := []
  cache    : NMap CacheSet := []
  cerr     : NMap Damage := []
  fills    : List LineOp := []
  hot      : List HotQueue := []
  blocks   : List Block := []
  stalled  : List LineOp := []
  hseq     : NMap Nat := []
  dir      : List DirEntry := []
  dirClock : Nat := 0
  recalls  : List Recall := []
  closed   : List Nat := []
  symHits  : NMap (List Nat) := []
  scrub    : NMap Nat := []
  bandWant : NMap (Nat × Nat) := []
  deriving DecidableEq, Repr

/-! ## The memory fabric (chapter 06) -/

/-- Who issued a request and takes its answer: an operation of a tile, an application core's access by its tag, a message
of the companion by tag and type, a cue record, a shunter command's row, the stationmaster, a gateway batch or a copy of
shards to a partner, a unit of the other half by its bridge tag and operation, or nobody. -/
inductive Who where
  | tile (tile op piece : Nat)
  | app (half core tag : Nat)
  | lys (tag mt fn : Nat)
  | cue (half id piece : Nat)
  | shn (half cmd row : Nat)
  | brg (half tag op : Nat)
  | none
  deriving DecidableEq, Repr

/-- The contents of a request (R207): everything but the stream's numbering. Beside the fabric's operations, `op` 0x101 and
0x102 are the companion's READ_SHARED and READ_OWN (R483). `poison` marks the WRITE of a failed row's lines (R286). -/
structure Req where
  op      : Nat
  fn      : Nat
  job     : Nat
  addr    : Nat
  operand : Nat
  compare : Nat
  msg     : Nat
  pkt     : Nat
  total   : Nat
  data    : List Line
  poison  : Bool := false
  deriving DecidableEq, Repr

/-- A request sent and not yet settled (R213 to R216), with its header as sent. `answered` holds the status once a response
came; a request answered RETRY_AFTER stays here, in the delay list (`delayed`) until its delay has passed (`due`) and it is
re-presented in place; `late` says that its delay passed while the list had no place for it (R364). `got` holds the packets of a READ reply. -/
structure Sent where
  seq       : Nat
  orig      : Nat
  rp        : Bool
  hdr       : BitVec 448
  req       : Req
  who       : Who
  first     : Nat
  last      : Nat
  answered  : Option Nat
  delayed   : Bool
  due       : Bool
  late      : Bool := false
  abandoned : Bool
  got       : NMap (List Line)
  deriving DecidableEq, Repr

/-- The sending side of a stream from this device (R209): the next SEQ, the cumulative point, the requests not settled, the
requests held behind the limit of R210 or the throttle of R363, and the RESP_ACK last sent (R212). -/
structure TxStream where
  dst     : Nat
  job     : Nat
  next    : Nat
  cum     : Nat
  sent    : List Sent
  backlog : List (Req × Who)
  acked   : Nat
  deriving DecidableEq, Repr

/-- A retained response (R212); a READ keeps its request, from which a duplicate is served again (R215). -/
structure Retained where
  seq  : Nat
  resp : BitVec 448
  read : Option (BitVec 448)
  deriving DecidableEq, Repr

/-- The receiving side of a stream to this device (R211): the taken point, the requests waiting in the ingress queue, the
numbers taken and not yet answered, the retained responses, and the pool refusals that were not retained. -/
structure RxStream where
  src      : Nat
  job      : Nat
  taken    : Nat
  wait     : List (BitVec 448 × List Line)
  pend     : List Nat
  retained : List Retained
  poolRef  : List Nat
  deriving DecidableEq, Repr

/-- Where the answer of a request in progress goes: to another device's stream, there again for a duplicate READ (R215), to
this device's own stream, or nowhere because the stream was discarded (R204). -/
inductive Tgt where
  | remote (src job seq : Nat)
  | again (src job seq : Nat)
  | own (job seq : Nat)
  | dropped
  deriving DecidableEq, Repr

/-- A request in progress at the home slices: its answer's target, contents, job slot (64: it reached no slice), the depot address
it was translated to, the half that checked it, the device it came from, whether its pool had no room for its response (R212), its
number of lines, and the answers of its lines so far. -/
structure InProg where
  id   : Nat
  tgt  : Tgt
  req  : Req
  slot : Nat
  addr : Nat
  half : Half
  src  : Nat
  lost : Bool
  n    : Nat
  got  : NMap (Option Ans)
  deriving DecidableEq, Repr

/-- A WRITE message at its home (R218): the packets performed so far. -/
structure Message where
  src   : Nat
  job   : Nat
  msg   : Nat
  total : Nat
  pkts  : List Nat
  lines : Nat
  deriving DecidableEq, Repr

/-- A write into a mailbox, taken as a record or as part of one (R240): job slot, the message it belongs to, its packet
index, and its lines. -/
structure MboxWrite where
  slot  : Nat
  src   : Nat
  job   : Nat
  msg   : Nat
  pkt   : Nat
  total : Nat
  lines : List Line
  deriving DecidableEq, Repr

/-- The answer of a request on its way to the unit that issued it. -/
structure Result where
  who    : Who
  status : Nat
  value  : Nat
  hseq   : Option Nat
  data   : List Line
  deriving DecidableEq, Repr

/-- A window write in progress (R203): the entry it replaced, and which halves' copies have changed. Log entry 49 (DESIGN CHOICE). -/
structure WinPend where
  slot : Nat
  win  : Nat
  base : Nat
  size : Nat
  perm : Nat
  up   : Bool
  dn   : Bool
  deriving DecidableEq, Repr

/-- Streams, requests in progress, messages, completed messages (source, job, MSG, lines), mailbox writes, answers on their way, gateway batches by 2 × district + 1 for
responses, gateways logged as skipped in
this epoch (R219), jobs unbound here and not bound again, which have no streams (R204), the commit in progress, the ids in use, whether the device awaits the COMPLETE of its admission (R394),
and whether a STALE_EPOCH answer was taken (R397). -/
structure MemFab where
  tx       : List TxStream := []
  rx       : List RxStream := []
  prog     : List InProg := []
  nextProg : Nat := 0
  nextMsg  : Nat := 0
  messages : List Message := []
  msgDone  : List (Nat × Nat × Nat × Nat) := []
  mbox     : List MboxWrite := []
  results  : List Result := []
  batches  : NMap (List (BitVec 448)) := []
  gwLogged : List Nat := []
  unbound  : List Nat := []
  commit   : Option WinPend := none
  hallGw   : NMap (List Nat) := []
  quiet    : Bool := false
  stale    : Bool := false
  deriving DecidableEq, Repr


/-! ## The shunter (chapter 08) -/

/-- A row of a shunter command: the table row it names (none for NULL), whether its index entry could be read, requests not
yet answered, whether it is being written, the first status other than OK, whether it is finished, whether its requests have
begun, and whether it has failed and is being written poisoned. -/
structure ShnRow where
  src    : Option Nat
  lost   : Bool
  open_  : Nat
  write  : Bool
  fail   : Option Nat
  ended  : Bool
  begun  : Bool := false
  poison : Bool := false
  deriving DecidableEq, Repr

/-- A command the shunter has taken (R280, R284): half, job slot, job and line; whether it runs; its index list as read, with
the reads not yet answered, the reads sent and the first status other than OK; its rows, once named; the rows failed and the
first of them. -/
structure ShnCmd where
  id    : Nat
  half  : Half
  slot  : Nat
  job   : Nat
  line  : Line
  runs  : Bool
  idx   : NMap (List Line)
  idxN  : Nat
  idxTo : Nat := 0
  idxSt : Option Nat
  named : Bool
  rows  : List ShnRow
  nfail : Nat
  first : Nat
  deriving DecidableEq, Repr

/-- A whole-line write into the command region, not yet taken. -/
structure ShnIn where
  half : Half
  slot : Nat
  job  : Nat
  line : Line
  deriving DecidableEq, Repr

/-- Both shunters. -/
structure Shunter where
  nextId  : Nat := 0
  arrived : List ShnIn := []
  cmds    : List ShnCmd := []
  deriving DecidableEq, Repr


/-! ## Cue engine and stationmaster (chapter 07) -/

/-- An armed cue: its slot in the cue store, the list it belongs to, and its line as it was read at arming. -/
structure ArmedCue where
  slot : Nat
  list : Nat
  line : Line
  deriving DecidableEq, Repr

/-- A cue that has fired and not completed: how many of its sends are open, the collective it closes, the port it steers, and the step
its device worked on when it fired (R256). -/
structure RunCue where
  id     : Nat
  slot   : Nat
  list   : Nat
  line   : Line
  open_  : Nat
  closes : Option Nat
  port   : Option Nat
  step   : Nat := 0
  deriving DecidableEq, Repr

/-- A data message of a cue (R236): destination device, source and destination addresses, target, lines in all and lines
sent, message ID, accumulation code, destination counter and collective, and the step it belongs to. -/
structure CueMsg where
  dst   : Nat
  src   : Nat
  dstA  : Nat
  tgt   : Nat
  total : Nat
  sent  : Nat
  msg   : Nat
  acc   : Nat
  rdone : Nat
  coll  : Option Nat
  step  : Nat := 0
  deriving DecidableEq, Repr

/-- An announced message that the receiving engine watches (R236): sender, job, MSG, job slot, the ANNOUNCE itself, and
whether its collective was aborted, so that it is completed and discarded. -/
structure Watch where
  src     : Nat
  job     : Nat
  msg     : Nat
  slot    : Nat
  ann     : Line
  discard : Bool
  deriving DecidableEq, Repr

/-- What a group of requests of the cue engine is for: reading a send list, reading or sending a message, awaiting ACCEPT,
sending records, staged lines to read and apply, a gradient message with its scales, its accumulates and its POISON, the
record written to a standby, a journal entry read in Replay, and a leader's COMMITs. -/
inductive CueKind where
  | list (n : Nat)
  | read (m : CueMsg)
  | send (m : CueMsg)
  | accept (m : CueMsg)
  | recs
  | staged (w : Watch) (k n : Nat)
  | apply (w : Watch) (k n : Nat)
  | grad (w : Watch) (k n : Nat)
  | scales (w : Watch) (bytes : List Nat)
  | gradApply (w : Watch) (poison : Option (Nat × Nat))
  | poison (w : Watch)
  | standby (slot : Nat)
  | journal (slot : Nat)
  | coll (c : Nat)
  deriving DecidableEq, Repr

/-- A group of requests of the cue engine: the fired cue it belongs to, requests unanswered, the first status other than OK,
and the data read, by request number. -/
structure CueTask where
  id     : Nat
  run    : Option Nat
  slot   : Nat
  kind   : CueKind
  open_  : Nat
  status : Nat
  data   : NMap (List Line)
  deriving DecidableEq, Repr

/-- An armed collective (R241 to R247): index, job slot, descriptor, the map's devices at arming, hash, the destinations
already sent a FIRST, the positions whose DONE the leader holds, whether its own round has begun, the devices whose FIRST has been
taken, and the map entries as they stood at arming, for each that was written since (R267: valid, N, address). -/
structure Coll where
  idx    : Nat
  slot   : Nat
  desc   : Line
  ids    : List Nat
  hash   : Nat
  firsts : List Nat
  dones  : List Nat
  begun  : Bool
  heard  : List Nat := []
  maps   : NMap (Option (Bool × Nat × Nat)) := []
  deriving DecidableEq, Repr

/-- What is known of the aborted collective of an index (R246): its hash, and the devices whose FIRST and DONE have been taken. -/
structure CollOver where
  hash  : Nat
  heard : List Nat
  dones : List Nat
  deriving DecidableEq, Repr

/-- A contributor's message kept until its step is applied (R254): job slot, position, step, and what it accumulated. -/
structure GradLog where
  slot : Nat
  pos  : Nat
  step : Nat
  adds : List (Nat × Nat)
  deriving DecidableEq, Repr

/-- What a slot's stationmaster took from its registers at step open (R267). -/
structure StmForce where
  enable   : Bool := false
  allWait  : Bool := false
  replay   : Bool := false
  backstop : Nat := 1000
  deadline : Nat := 2000000
  primary  : Nat := 0xFFFF
  standby  : Nat := 0xFFFF
  journal  : Nat := 0
  replayA  : Nat := 0
  records  : Nat := 1024
  deriving DecidableEq, Repr

/-- The stationmaster context of a job slot (R255 to R265). `taken` holds the records taken in this run (step, divisor, digest; R260),
`readyQ` the READY cues that wait for the step's gradient sends (fired cue, step, micro-batches; R256), and `gradFail` the steps in which
such a send failed. -/
structure Stm where
  step     : Nat := 0
  opened   : Bool := false
  closing  : Bool := false
  stopped  : Bool := false
  force    : StmForce := {}
  expected : List Nat := []
  ready    : NMap Nat := []
  poisoned : List Nat := []
  recSet   : Option (List Nat × Nat) := none
  record   : Option (List Line) := none
  stbyDone : Bool := false
  deadline : Nat := 0
  mirror   : Option (List Line) := none
  heardOpen : Option Nat := none
  hearDead : Nat := 0
  takeover : Bool := false
  replied  : List Nat := []
  sentReady : Option (Nat × Nat) := none
  lastStep : Option Nat := none
  lastDig  : Nat := 0
  lastDiv  : Nat := 0
  taken    : List (Nat × Nat × Nat) := []
  readyQ   : List (Nat × Nat × Nat) := []
  gradFail : List Nat := []
  noStby   : Option Nat := none
  shards   : List Nat := []
  deriving DecidableEq, Repr

/-- The cue engine: armed and fired cues, lists stopped by an error, its requests, collectives, held ANNOUNCEs and DONEs that
came before their collective was armed, collectives that are over by index, indices aborted before they were armed (error, whether this
device found it; R243, R246), watched messages, gradient logs, POINTS cues waiting for the port, and the stationmaster contexts by job
slot. -/
structure Cue where
  nextId  : Nat := 1
  armed   : List ArmedCue := []
  runs    : List RunCue := []
  dead    : List Nat := []
  tasks   : List CueTask := []
  colls   : List Coll := []
  held    : List (Nat × Line) := []
  early   : List (Nat × Nat × Nat) := []
  past    : NMap (Option CollOver) := []
  doomed  : NMap (Option (Nat × Bool)) := []
  watch   : List Watch := []
  glog    : List GradLog := []
  points  : List (Nat × Nat) := []
  stm     : NMap Stm := []
  deriving DecidableEq, Repr


/-! ## Fabric links (chapter 10) -/

/-- A packet in an egress queue: the half it comes from, its class, route destination, whether an adaptive choice is allowed, the hops
so far, the direct-link ring and channel it arrived on, whether it began on this device, and the packet itself (R343, R344). -/
structure Pkt where
  half  : Half
  tc    : Nat
  dst   : Nat
  ad    : Bool
  hops  : Nat
  ring  : Option (Nat × Nat)
  mine  : Bool
  hdr   : BitVec 448
  data  : List Line
  deriving DecidableEq, Repr

/-- A packet sent and not yet acknowledged (R347): its first link sequence number, the number of its flits that ACK covers, channel
and credit kind. -/
structure SentPkt where
  seq : Nat
  done : Nat := 0
  vc  : Nat
  sh  : Bool
  pkt : Pkt
  deriving DecidableEq, Repr

/-- A packet that stands in the port's ingress (R352), with the credits it occupies and its route header (R343). -/
structure IngPkt where
  vc    : Nat
  sh    : Bool
  route : Nat := 0
  hdr  : BitVec 448
  data : List Line
  deriving DecidableEq, Repr

/-- A packet of which the head and some data flits have arrived. -/
structure RxPkt where
  head : Line
  data : List Line
  left : Nat
  drop : Bool
  deriving DecidableEq, Repr

/-- The link layer of a fabric port: egress queue, retry buffer, link sequence numbers, replay bookkeeping (R347 to R349), the number
expected next and the number of the next flit to arrive, which a replay sets back (R348), cumulative credit counts of both directions
(R354; index 8 is the shared pool), arbitration deficits, the class whose turn it is and whether its turn has begun (R356), ingress,
requests not yet admitted to it (R352), and what the link took from its registers when it came up. -/
structure Link where
  queue    : List Pkt := []
  unacked  : List SentPkt := []
  txSeq    : Nat := 0
  advance  : Nat := 0
  replays  : Nat := 0
  replayAt : Option (Nat × Nat) := none
  used     : NMap Nat := []
  freed    : NMap Nat := []
  rxExp    : Nat := 0
  rxNum    : Nat := 0
  rxPkt    : Option RxPkt := none
  rxUsed   : NMap Nat := []
  rxFreed  : NMap Nat := []
  deficit  : NMap Nat := []
  turn     : Nat := 0
  visit    : Bool := false
  ingress  : List IngPkt := []
  held     : List IngPkt := []
  ded      : Nat := 65
  direct   : Bool := false
  ring     : Nat := 0
  dateline : Bool := false
  deriving DecidableEq, Repr

/-- A port's removal from a route entry (R362): the port, the notice (whole district, and the district or device ID it names), and
the entry: of `FAB_ROUTE_DIST` or `FAB_ROUTE_MEMBER`, and its number. -/
structure Missed where
  port  : Nat
  dist  : Bool
  id    : Nat
  wide  : Bool
  entry : Nat
  deriving DecidableEq, Repr

/-- All links, the removals by MISS notices in force, the link-local packets that wait for the interlocking, and packets that wait for
room in an egress queue, for a throttle or for the bridge, with the port they arrived on (R24, R352, R363). -/
structure Links where
  link      : NMap Link := []
  miss      : List Missed := []
  linkLocal : List (Nat × BitVec 448) := []
  waiting   : List (Nat × Pkt) := []
  deriving DecidableEq, Repr

/-! ## Light (chapter 09) -/

/-- A receive lane: why it is not good, as a sum of 1 missing markers, 2 wrong LANE, 4 power, 8 error ratio, 16 rehearsal and
32 not yet confirmed by a marker; its consecutive missing and valid markers; the start of its 1 ms error window and the
corrected bytes in it; and whether its ring's last sweep found no match. -/
structure LaneRx where
  why    : Nat := 32
  miss   : Nat := 0
  valid  : Nat := 0
  winAt  : Nat := 0
  winCnt : Nat := 0
  noMatch : Bool := false
  deriving DecidableEq, Repr

/-- A port's optics: its lanes, the transmit and receive sets announced and not yet in effect, whether it has trained, whether
its peer asks for the rehearsal pattern and sends it, the fibre of a steer in progress with the fired cue it belongs to, the
lane and steps of a rehearsal, the time of its last width change, whether it has gone without PORTCHECK records (R380)
and event 0x0713 was logged in this training, and the lanes whose light a changeover took from the peer, which has not yet said so. -/
structure PortOpt where
  lanes   : NMap LaneRx := []
  txNext  : Option Nat := none
  rxNext  : Option Nat := none
  trained : Bool := false
  peerRqp : Bool := false
  prb     : Bool := false
  steerTo : Option (Nat × Option Nat) := none
  reh     : Option (Nat × Nat) := none
  changed : Option Nat := none
  pcLost  : Bool := false
  pcNoted : Bool := false
  hold    : Nat := 0
  deriving DecidableEq, Repr

/-- A laser marked for changeover (R306): its index, whether software asked for it, whether DEFER has passed, whether it has failed
and a rehearsal alone keeps its understudy dark (R308, R310), and whether its bias asked for it. -/
structure Mark where
  laser  : Nat
  soft   : Bool
  due    : Bool
  failed : Bool := false
  hot    : Bool := false
  deriving DecidableEq, Repr

/-- How far a changeover has come (R307): understudy warming, on grid and waiting, group narrowing, understudy switched in. -/
inductive CoPhase where
  | warming | waiting | narrowing | switched
  deriving DecidableEq, Repr

/-- A changeover of a working laser to its understudy; `held` where a steer made it wait for a quiet interval (R310), `due` where
DEFER has passed. -/
structure Changeover where
  laser  : Nat
  failed : Bool
  phase  : CoPhase
  held   : Bool := false
  due    : Bool := false
  deriving DecidableEq, Repr

/-- What a port puts on its lanes (R295, R297): the flit slots of the frame in progress that have been used, the lane whose power the
next frame reports, and what the last frame's markers announced. -/
structure LaneOut where
  slot  : Nat := 48
  pwr   : Nat := 0
  shown : List Nat := []
  deriving DecidableEq, Repr

/-- The platform chiplets: ports, marks and changeovers, the group an understudy serves (+ 1), ring heater settings (port × 16 +
8 for transmit rings + lane), the converters' places in their round and frame, the ports that rehearse, in order, the ports' frames, and
how much of the outbox has been put on lanes. -/
structure Optics where
  ports   : NMap PortOpt := []
  marks   : List Mark := []
  changes : List Changeover := []
  serves  : NMap Nat := []
  heater  : NMap Nat := []
  conv    : NMap (Nat × Nat) := []
  rehQ    : List Nat := []
  out     : NMap LaneOut := []
  laned   : Nat := 0
  deriving DecidableEq, Repr


/-! ## The interlocking (chapter 11) -/

/-- What this device knows of a member number of its district: the last health word, the conditions its records have carried
since it joined, when a record last came on each plane and first came at all, the times of its records in the last 1 ms, its
LASTEP and INST while forming, whether two devices bear its ID, why it is confirmed, and the probe it has not answered. -/
structure IlkSeen where
  health  : Nat := 0
  carried : Nat := 0
  onA     : Option Nat := none
  onB     : Option Nat := none
  first   : Option Nat := none
  recs    : List Nat := []
  lastEp  : Nat := 0
  inst    : Nat := 0
  forming : Bool := false
  dup     : Bool := false
  conf    : Option Nat := none
  nonce   : Option Nat := none
  deriving DecidableEq, Repr

/-- A change as requests and proposals name it; `members` is a formation's MEMBERS. -/
structure IlkChange where
  op      : Nat
  subj    : Nat
  reason  : Nat
  members : Nat := 0
  deriving DecidableEq, Repr

/-- A REQUEST that a box holds (R386): the change, the requester, and how many boxes have failed to chair it. -/
structure IlkReq where
  chg  : IlkChange
  src  : Nat
  turn : Nat
  deriving DecidableEq, Repr

/-- A proposal of the acting chair (R387, R389): change, TEPOCH, requester, its voters, and their votes. -/
structure IlkProp where
  chg    : IlkChange
  tepoch : Nat
  src    : Nat
  voters : List Nat
  yes    : List Nat
  no     : List Nat
  deriving DecidableEq, Repr

/-- An EPOCH record that the chair delivers (R393): the change, the record's epoch, members and boxes, the devices it goes to,
those that have acknowledged, and whether it has gone out with COMPLETE. -/
structure IlkDeliver where
  chg     : IlkChange
  tepoch  : Nat
  members : Nat
  boxes   : List Nat
  targets : List Nat
  acked   : List Nat
  done    : Bool
  deriving DecidableEq, Repr

/-- The interlocking units: self-test or self-check passed; heartbeats sent; the last probe number; what is known of the
members; held requests; the chair's proposal; the YES this box has given, by TEPOCH; votes that wait for a probe, with the
chair's device; the record being delivered; records to itself; whether a FETCH is unanswered; forming and whether a
formation was voted for; whether the installed epoch is complete; the times of its expulsions; whether the epoch awaits the
logbook; copies to new partners (slot, position); margin alarms as the health word has them; and, for a unit that is alone (R376),
its plane and the health word as it last stood. -/
structure Ilk where
  selfchk : Bool := false
  hbseq   : Nat := 0
  nonce   : Nat := 0
  seen    : NMap IlkSeen := []
  reqs    : List IlkReq := []
  prop    : Option IlkProp := none
  voted   : Option (Nat × IlkChange) := none
  waits   : List (Nat × Nat × IlkChange) := []
  deliver : Option IlkDeliver := none
  inbox   : List (BitVec 448) := []
  fetching : Bool := false
  forming : Bool := false
  formYes : Bool := false
  complete : Bool := false
  expelAt : List Nat := []
  dirty   : Bool := false
  copies  : List (Nat × Nat) := []
  alarms  : Nat := 0
  plane   : Option Half := none
  stood   : Nat := 0
  deriving DecidableEq, Repr

/-- The down-half unit once it is alone (R376): its state, and the epoch, boxes, suspicions and status bits that it holds. -/
structure IlkAlone where
  unit : Ilk
  regs : List Nat
  deriving DecidableEq, Repr


/-! ## The configuration flash (chapter 14) -/

/-- A sealed logbook record (R520): type, item, number, powered time, and its payload as (value, width in bits). -/
structure BookEntry where
  typ   : Nat
  item  : Nat
  seq   : Nat
  ptime : Nat
  args  : List (Nat × Nat)
  deriving DecidableEq, Repr

/-- The configuration flash (R496 to R501, R519 to R523): the directory's sequence number, active bank, pending bank, tries
and configuration slot; the contents of both banks and both slots; the three counters; whether the counters have their root
key; the journal's records since the last snapshot, the bytes they take, and what was written in the last day. -/
structure Flash where
  dirSeq  : Nat := 0
  active  : Nat := 0
  pend    : Option Nat := none
  tries   : Nat := 0
  slot    : Nat := 0
  bankA   : Mem := []
  bankB   : Mem := []
  cfg0    : Mem := []
  cfg1    : Mem := []
  ctr0    : Nat := 0
  ctr1    : Nat := 0
  ctr2    : Nat := 0
  keyed   : Bool := false
  book    : List BookEntry := []
  bytes   : Nat := 0
  day     : List (Nat × Nat) := []
  deriving DecidableEq, Repr

/-- An image that a bank or the cores hold (R499): type, SVN, BUILD, hand-over formats and DIGEST. -/
structure Image where
  typ     : Nat
  svn     : Nat
  build   : Nat
  hand    : Nat
  handMin : Nat
  digest  : Nat
  deriving DecidableEq, Repr

/-- The security core: the images the cores run (by core number in the live-load order of R512) and those of a load in
progress; a bank write in progress (its bank and contents); the digest of the applied configuration image and its version;
the hall gateway list; owner keys by slot; the nonce of a report in preparation; the recovery buffer; and whether class B
records may now be written although they are coalesced (R523). -/
structure Sec where
  runs    : List Image := []
  cores   : NMap Image := []
  load    : Option (List Image) := none
  write   : Option (Nat × Mem) := none
  cfgDig  : Nat := 0
  cfgVer  : Nat := 0
  keys    : NMap Nat := []
  nonce   : Nat := 0
  rcv     : Mem := []
  bRelease : Bool := false
  deriving DecidableEq, Repr


/-! ## Drain (R466 to R468) -/

/-- Where a drain stands: waiting for release, recalling the companion's lines, leaving, or about to power down. -/
inductive DrainAt where
  | release | recall | leave | finish
  deriving DecidableEq, Repr

/-- A drain in progress, and each bound slot's step at the request. -/
structure Drain where
  at_   : DrainAt
  steps : List (Nat × Nat)
  deriving DecidableEq, Repr


/-! ## Application cores (R514, R515) and the module management controller (chapter 13) -/

/-- A global line that an application core's cache holds: core, job, line of the global address, contents. -/
structure AppLine where
  core : Nat
  job  : Nat
  line : Nat
  data : Line
  deriving DecidableEq, Repr

/-- The application cores: aperture entries (core × 64 + entry), job and status registers, local SRAM (core × 1 MiB + offset)
and cached global lines; the window commits so far, and for each READ of a line to be kept (core × 65,536 + tag) the commits there
were when it was issued (R206, R515). -/
structure App where
  aperture : NMap Nat := []
  job      : NMap Nat := []
  status   : NMap Nat := []
  sram     : Mem := []
  lines    : List AppLine := []
  gen      : Nat := 0
  reads    : NMap Nat := []
  deriving DecidableEq, Repr

/-- The module management controller beside its registers: whether a reset holds the rails off, whether a thermal shutdown or a
flow fault does until the next reset or power-on, and whether a flow fault waits for the switch to open. -/
structure Mmc where
  resetting : Bool := false
  cut       : Bool := false
  flowCut   : Bool := false
  deriving DecidableEq, Repr


/-! ## The bridge (chapter 12) -/

/-- A lane group in one direction (R419, R426): its erasure lane, corrected flits since the last read, what R449's STATE shows
(0 untrained, 1 good, 2 active, 3 bad), and the times of corrections within 1 s by lane. -/
structure BrgGroup where
  erase : Option Nat := none
  corr  : Nat := 0
  st    : Nat := 0
  hits  : NMap (List Nat) := []
  deriving DecidableEq, Repr

/-- The sending side of a half (R424, R425): the next flit number, flits not yet covered by GACK, replays without an advance,
credits used and freed by class (5: the shared pool), packets that wait, deficits of request, collective and bulk, whose turn it is and
whether it has had its weight, the numbers of head flits whose packets hold shared credits, and the control flit last sent on group 0. -/
structure BrgTx where
  next    : Nat := 0
  unacked : List (Nat × Line) := []
  replays : Nat := 0
  used    : NMap Nat := []
  freed   : NMap Nat := []
  queue   : List (Nat × List Line) := []
  deficit : NMap Nat := []
  turn    : Nat := 0
  visit   : Bool := false
  pooled  : List Nat := []
  shown   : BitVec 512 := 0
  deriving DecidableEq, Repr

/-- The receiving side of a half: the next flit number expected, whether flits are discarded until a replay, the head of the
packet in progress with the kind of its credits and its data so far, data flits still to be dropped with a bad head, and flits freed
by class (5: the shared pool). -/
structure BrgRx where
  exp     : Nat := 0
  discard : Bool := false
  head    : Option Line := none
  kind    : Nat := 0
  data    : List Line := []
  drop    : Nat := 0
  freed   : NMap Nat := []
  deriving DecidableEq, Repr

/-- A half's width record (R428): epoch, width in groups, agreed map. -/
structure BrgRec where
  tepoch : Nat
  width  : Nat
  map    : Nat
  deriving DecidableEq, Repr

/-- A training in progress: its cause, epoch, each half's receive good map once its PRBS is over, and the agreed map and width
once AGREE is sent. -/
structure BrgTrain where
  cause  : Nat
  tepoch : Nat
  good   : NMap Nat := []
  agreed : Option (Nat × Nat) := none
  deriving DecidableEq, Repr

/-- The bridge: last training epoch, consecutive refusals, training, groups by direction × 68 + group (direction 0 is up to
down), sides by half, width records, packets released and not yet taken by their unit (half, head, data); partial resets that
wait for the other half's (half, cause) or for a district change; steps for which no READY is sent (slot, step, R433); whether
the crystal has failed, and whether the down half has lost the shared clock (R435); line operations that wait to cross to their home
slice, and packets that wait to cross to their stream half (R24, R552); and the down half's interlocking unit, once it is alone. -/
structure Bridge where
  lastEp  : Nat := 0
  refused : Nat := 0
  train   : Option BrgTrain := none
  groups  : NMap BrgGroup := []
  tx      : NMap BrgTx := []
  rx      : NMap BrgRx := []
  record  : NMap (Option BrgRec) := []
  arrived : List (Half × Line × List Line) := []
  waiting : List (Half × Nat) := []
  held    : List (Half × Nat) := []
  noReady : List (Nat × Nat) := []
  crystal : Bool := false
  clkLost : Bool := false
  cross   : List LineOp := []
  inbound : List (Nat × BitVec 448 × List Line) := []
  lone    : Option IlkAlone := none
  deriving DecidableEq, Repr


/-! ## Power and heat (chapter 12) -/

/-- A power message's figures (R437): period, budget and demand in 0.1 W. -/
structure PwrMsg where
  period : Nat
  budget : Nat
  demand : Nat
  deriving DecidableEq, Repr

/-- The power core of a half: its own and its peer's last message, its grant in 0.1 W, and whether a block was throttled in the
period (R437). -/
structure PwrHalf where
  own   : Option PwrMsg := none
  peer  : Option PwrMsg := none
  grant : Nat := 0
  thr   : Bool := false
  deriving DecidableEq, Repr

/-- A block's regulator (R440, R442, R446): rail voltage in 0.1 mV, thermal limit of its target, learned matched-delay steps of
2 % by band, and the headroom and slack of the last 1 ms by time. -/
structure PwrBlk where
  volt  : Nat := 0
  limit : Option Nat := none
  delay : NMap Nat := []
  hist  : List (Nat × Nat × Nat) := []
  deriving DecidableEq, Repr

/-- An element of the thermal model (R443), in °C, K/W and J/K: junction and spreader nodes, offset, and its parameters. Log entries 88 (DESIGN CHOICE), 94 (DESIGN CHOICE). -/
structure ThmElem where
  live : Bool := false
  tj   : Rat := 0
  ts   : Rat := 0
  off  : Rat := 0
  est  : Rat := 0
  rjs  : Rat := 6 / 10
  cj   : Rat := 4 / 10000
  rsc  : Rat := 12 / 10
  cs   : Rat := 8 / 1000
  rlat : Rat := 4
  deriving DecidableEq, Repr

/-- Both power cores, the blocks, the elements (34 × half + 0 to 31 blocks, 32 and 33 chiplets), and the time of each half's last
calibration. -/
structure Power where
  half  : NMap PwrHalf := []
  blk   : NMap PwrBlk := []
  elem  : NMap ThmElem := []
  calAt : NMap Nat := []
  deriving DecidableEq, Repr


/-! ## The Lysdex link (chapter 13) -/

/-- The Lysdex endpoint: its flit numbering, the flits sent and not acknowledged (their number and slots) and the replays without
an advance; the number expected next and the slots of a message not yet whole; messages taken and not yet acted on; slots used
and freed by class toward the companion, and freed by this side; messages that wait for credit (class, slots); whether the
companion's FEATURE was taken; whether LRST_N is low; the count of link losses; the global address under which the
companion was last granted each line; messages that wait behind the bridge, in link order (R482); and the ACK last sent. -/
structure Lys where
  txSeq   : Nat := 0
  unacked : List (Nat × List (BitVec 128)) := []
  replays : Nat := 0
  rxExp   : Nat := 0
  slots   : List (BitVec 128) := []
  inq     : List (List (BitVec 128)) := []
  used    : NMap Nat := []
  freed   : NMap Nat := []
  myFreed : NMap Nat := []
  queue   : List (Nat × List (BitVec 128)) := []
  peer    : Bool := false
  lrst    : Bool := false
  gen     : Nat := 0
  granted : NMap Nat := []
  late    : List (List (BitVec 128)) := []
  shown   : Nat := 1023
  deriving DecidableEq, Repr



/-- What leaves the block, newest last in the outbox. A port's flits stand there as the link layer sends them and, slot by slot, as the
symbols of its lanes (R295, R296). Log entry 7 (DESIGN CHOICE). -/
inductive Out where
  | home (tag : Nat) (a : Ans)
  | flits (port : Nat) (f : List Line)
  | slot (port slot : Nat) (lanes : List (Nat × List Nat))
  | bridge (from_ : Half) (f : List Line)
  | sideband (from_ : Half) (msg : BitVec 256)
  | hall (gateway : Nat) (rec : BitVec 448)
  | lys (flit : BitVec 2000)
  | app (core tag : Nat) (fault : Bool) (value : Nat)
  | i3c (data : List Nat)
  | ibi (byte : Nat)
  deriving DecidableEq, Repr

/-! ## The machine -/

/-- A log record on its way to the ring (R516): code, half and unit of origin, whether it was deferred, the time counter of
its half, and its arguments as (value, width in bits). -/
structure LogRec where
  code  : Nat
  half  : Half
  unit  : Nat
  defer : Bool
  time  : Nat
  args  : List (Nat × Nat)
  deriving DecidableEq, Repr

/-- A cue point on its way to the trace ring (R518). -/
structure CuePoint where
  half  : Half
  job   : Nat
  cue   : Nat
  value : Nat
  time  : Nat
  coll  : Option Nat
  deriving DecidableEq, Repr

/-- An entry of the log writer's queue (R544). -/
inductive WEntry where
  | log (r : LogRec)
  | cue (c : CuePoint)
  deriving DecidableEq, Repr

/-- The log writer (R517, R518, R544): its queue, the records a held down half keeps, whether the ring is open, and the times at which
limited events and logbook items were last written; and the logbook records queued for the security core (R521). -/
structure LogWriter where
  queue    : List WEntry := []
  downHeld : List LogRec := []
  ringOpen : Bool := false
  lastLog  : NMap Nat := []
  lastBook : NMap Nat := []
  book     : List BookRec := []
  deriving DecidableEq, Repr

/-- The state of the module. -/
structure State where
  regs    : NMap Nat := []
  timeUp  : Nat := 0
  timeDn  : Nat := 0
  freeCtr : Nat := 0
  tiles   : NMap Tile := []
  dep     : Depot := {}
  fab     : MemFab := {}
  opt     : Optics := {}
  links   : Links := {}
  shn     : Shunter := {}
  cue     : Cue := {}
  ilk     : Ilk := {}
  app     : App := {}
  pwr     : Power := {}
  brg     : Bridge := {}
  lys     : Lys := {}
  mmc     : Mmc := {}
  drain   : Option Drain := none
  flash   : Flash := {}
  sec     : Sec := {}
  logw    : LogWriter := {}
  outbox  : List Out := []
  pending : List Instr := []
  deriving DecidableEq, Repr

/-- Why the machine stops with a fault. -/
inductive Fault where
  /-- A home row names a depot address at or above 0xC_0000_0000, which R151 says does not exist. Raised by the HOME_ rows;
  safe: the machine stops. -/
  | depotAddress
  deriving DecidableEq, Repr

/-- Why a command has no meaning. -/
inductive Refusal where
  /-- The command's row has no meaning in the model. An arm of `exec` that rejects by name raises it; every row has its meaning,
  so none does. Safe: the machine stops. -/
  | notModelled (mnemonic : String)
  deriving DecidableEq, Repr

/-- The module right after power-on reset: every register at the reset value of its field map, the depot and the stores
listing nothing, no command waiting. Log entries 12 (DESIGN CHOICE), 13 (DEDUCED). -/
def State.reset : State := {}

end Sys2Proof.Machine
end

