-- ==== Sys2Proof/Machine/Ops.lean ====
section
/-!
DEFINITION. The named operations over registers, time, open values, logs, tiles and the depot's contents that every
meaning shares.
-/

namespace Sys2Proof.Machine

/-- What a meaning answers. -/
abbrev Res := Host.Outcome State Fault Refusal

/-! ## Registers -/

/-- Where a field of the register with index `i` is kept. -/
def Fld.key (f : Fld) (i : Nat) : Nat := (f.reg.ctorIdx * 64 + f.lo) * 65536 + i

/-- The value of a field. Log entry 14 (DESIGN CHOICE). -/
def fget (s : State) (f : Fld) (i : Nat := 0) : Nat := mget s.regs (f.key i) (f.reset i)

/-- Set a field (to its width). Log entry 14 (DESIGN CHOICE). -/
def fset (s : State) (f : Fld) (i : Nat) (v : Nat) : State :=
  { s with regs := mput s.regs (f.key i) (v % 2 ^ f.width) (f.reset i) }

/-- Whether a one-bit field is 1. -/
def fbit (s : State) (f : Fld) (i : Nat := 0) : Bool := fget s f i == 1

/-- Set a one-bit field. -/
def fsetb (s : State) (f : Fld) (i : Nat) (b : Bool) : State := fset s f i (if b then 1 else 0)

/-- Raise a counter field by `n`; it stops at its largest value. -/
def fcount (s : State) (f : Fld) (i : Nat) (n : Nat) : State := fset s f i (satAdd (fget s f i) n f.width)

/-- The field of register `r` that starts at bit `lo` (for registers with numbered fields). -/
def subField (r : Reg) (lo w : Nat) (a : Acc) (rst : Nat) : Fld := ⟨r, lo, w, a, .const rst, 0, 2 ^ w - 1⟩

/-! ## Time and open values -/

/-- A half's local time counter, in ns (R26, R28). -/
def now (s : State) (h : Half) : Nat :=
  match h with
  | .up => s.timeUp
  | .down => s.timeDn

/-- An open value, and the state with the counter of open values advanced. Log entries 8 (DESIGN CHOICE), 9 (DESIGN CHOICE). -/
def fresh (s : State) : Nat × State := (Config.freeValue s.freeCtr, { s with freeCtr := s.freeCtr + 1 })

/-- Append to the outbox. Log entry 7 (DESIGN CHOICE). -/
def send (s : State) (o : Out) : State := { s with outbox := s.outbox ++ [o] }

/-! ## Logging (R516, R517, R544) -/

/-- Units of the log record (R516): the block controllers are 0 to 63. -/
def unitSec : Nat := 64
def unitPwr : Nat := 65
def unitDep : Nat := 67
def unitCue : Nat := 68
def unitIlk : Nat := 69
def unitOpt : Nat := 70
def unitBrg : Nat := 71
def unitMod : Nat := 72
def unitFab : Nat := 73
def unitRoute : Nat := 74
def unitLys : Nat := 75
def unitMode : Nat := 76
def unitLog : Nat := 77

/-- Whether down-half records are kept on the down half: the bridge is held or down, or the shared clock is lost (R517). -/
def downIsolated (s : State) : Bool :=
  fbit s F.BRG_STATUS_HOLD || s.brg.clkLost

/-- Records raised before the ring is open that are still held (R453, R504). Log entry 114 (DEDUCED). -/
def heldRecs (s : State) : Nat :=
  (s.logw.queue.filter (fun e => match e with | .log r => r.defer | .cue _ => false)).length

/-- Raise event `code` from unit `unit` of half `h` with the named arguments, each (value, width). Before the ring opens the
controller holds 16 records while the core rails are off (R453), and the security core 256 after that (R504). Log entry 114 (DEDUCED). -/
def emit (s : State) (h : Half) (unit code : Nat) (args : List (Nat × Nat)) : State :=
  let r : LogRec := { code := code, half := h, unit := unit, defer := !s.logw.ringOpen, time := now s h, args := args }
  if !s.logw.ringOpen then
    if heldRecs s < (if fbit s F.MOD_MSTATUS_PGOOD then 256 else 16) then { s with logw := { s.logw with queue := s.logw.queue ++ [.log r] } }
    else s
  else if h = .down ∧ downIsolated s = true then
    if s.logw.downHeld.length < 64 then { s with logw := { s.logw with downHeld := s.logw.downHeld ++ [r] } }
    else fcount s F.LOG_STATUS_HELD_DROP 0 1
  else { s with logw := { s.logw with queue := s.logw.queue ++ [.log r] } }

/-- Raise an event that is logged at most once per `every` ns for one `sub` (a tile, port, half or slot). -/
def emitLim (s : State) (h : Half) (unit code sub every : Nat) (args : List (Nat × Nat)) : State :=
  let k := code * 2 ^ 24 + sub
  let last := mget s.logw.lastLog k 0
  if last = 0 ∨ last + every ≤ now s h + 1 then
    emit { s with logw := { s.logw with lastLog := mput s.logw.lastLog k (now s h + 1) 0 } } h unit code args
  else s

/-- Queue a class A logbook record (R519). -/
def bookA (s : State) (typ item : Nat) (args : List (Nat × Nat)) : State :=
  { s with logw := { s.logw with book := s.logw.book ++ [⟨typ, item, false, args⟩] } }

/-- Queue a class B logbook record; while writes are coalesced only the newest record of an item is kept (R523). -/
def bookB (s : State) (typ item : Nat) (args : List (Nat × Nat)) : State :=
  let q := if fbit s F.LOG_BOOK_BUDGET_DEFER then s.logw.book.filter (fun r => !(r.classB && r.typ == typ && r.item == item)) else s.logw.book
  { s with logw := { s.logw with book := q ++ [⟨typ, item, true, args⟩] } }

/-- One millisecond, in ns. -/
def ms : Nat := 1000000

/-- One day of powered time, in ns. -/
def dayNs : Nat := 86400000 * ms

/-- A class B record that is written at most once per day for what `key` names (R519). -/
def bookDaily (s : State) (typ key item : Nat) (args : List (Nat × Nat)) : State :=
  let k := typ * 2 ^ 24 + key
  let last := mget s.logw.lastBook k 0
  if last = 0 ∨ last + dayNs ≤ s.timeUp + 1 then
    bookB { s with logw := { s.logw with lastBook := mput s.logw.lastBook k (s.timeUp + 1) 0 } } typ item args
  else s

/-! ## Tiles -/

/-- A tile, by its index. -/
def tget (s : State) (t : Nat) : Tile := mget s.tiles t {}

/-- Replace a tile. -/
def tset (s : State) (t : Nat) (v : Tile) : State := { s with tiles := mput s.tiles t v {} }

/-- The half of a tile, and the unit number of its block controller (R15, R516). -/
def tileHalf (t : Nat) : Half := if t < 2048 then .up else .down
def tileBlock (t : Nat) : Nat := t / 64

/-- Thread `h` of a tile. -/
def Tile.th (t : Tile) (h : Nat) : Thread := t.threads.getD h {}

/-- Replace thread `h`. -/
def Tile.setTh (t : Tile) (h : Nat) (v : Thread) : Tile := { t with threads := t.threads.set h v }

/-- Replace a thread of a tile of the state. -/
def setThread (s : State) (t h : Nat) (v : Thread) : State := tset s t ((tget s t).setTh h v)

/-- Scalar register r of a thread; s0 reads as 0 (R97). -/
def Thread.sreg (t : Thread) (r : Nat) : W64 := if r = 0 then 0 else mget t.s r 0

/-- Write scalar register r; a write to s0 is discarded (R97). -/
def Thread.setS (t : Thread) (r : Nat) (v : W64) : Thread := if r = 0 then t else { t with s := mput t.s r v 0 }

/-- Lane l of vector register r. -/
def Thread.lane (t : Thread) (r l : Nat) : W32 := mget t.v (r * 64 + l) 0

/-- Write lane l of vector register r. -/
def Thread.setLane (t : Thread) (r l : Nat) (v : W32) : Thread := { t with v := mput t.v (r * 64 + l) v 0 }

/-- Whether a tile is retired: `BLK_RETIRED` of its block (R72, R145). -/
def tileRetired (s : State) (t : Nat) : Bool := bitAt (fget s F.BLK_RETIRED_MAP (tileBlock t)) (t % 64)

/-! ## The depot's addresses (R151, R152, R168) -/

/-- The size of the depot in bytes, 48 GiB, and of one half. -/
def depotSize : Nat := 0xC00000000
def halfSize : Nat := 0x600000000

/-- The home half of a depot address. -/
def homeHalf (d : Nat) : Half := if d < halfSize then .up else .down

/-- The half offset H. -/
def halfOff (d : Nat) : Nat := if d < halfSize then d else d - halfSize

/-- The home stack within the half, and the channel (R152). -/
def homeChan (d : Nat) : Nat × Nat :=
  let c := halfOff d / 256
  let t := c % 3; let u := c / 3
  let k := Nat.xor (Nat.xor (Nat.xor (u % 64) (u / 64 % 64)) (Nat.xor (u / 4096 % 64) (u / 262144 % 64))) (u / 16777216 % 2)
  (4 * t + k / 16, k % 16)

/-- The register index of a channel: 192 per half. -/
def chanIdx (h : Half) (stack ch : Nat) : Nat := h.num * 192 + stack * 16 + ch

/-- The channel of a depot address, as a register index. -/
def chanOf (d : Nat) : Nat := chanIdx (homeHalf d) (homeChan d).1 (homeChan d).2

/-- The slice of a depot address, 0 to 1,023 over both halves (R168). -/
def sliceOf (d : Nat) : Nat :=
  let l := halfOff d / 64
  (homeHalf d).num * 512 +
    Nat.xor (Nat.xor (l % 512) (l / 512 % 512)) (Nat.xor (l / 262144 % 512) (l / 134217728 % 4))

/-- The cache set of a depot address, over both halves (R168). -/
def setOf (d : Nat) : Nat := sliceOf d * 256 + halfOff d / 64 / 512 % 256

/-- The contents of a depot line. -/
def depLine (s : State) (l : Nat) : Line := mline s.dep.mem l

/-- Write a depot line. -/
def setDepLine (s : State) (l : Nat) (v : Line) : State := { s with dep := { s.dep with mem := mputLine s.dep.mem l v } }

/-- `n` little-endian bytes of the depot at address `d` (R12). Log entry 11 (DESIGN CHOICE). -/
def depRead (s : State) (d n : Nat) : Nat := mreadLE s.dep.mem d n

/-- Write `n` little-endian bytes of the depot. -/
def depWrite (s : State) (d v n : Nat) : State := { s with dep := { s.dep with mem := mwriteLE s.dep.mem d v n } }

/-! ## This device -/

/-- The device ID in `MOD_DEVICE_ID` (R36). -/
def deviceId (s : State) : Nat := fget s F.MOD_DEVICE_ID_ID

/-- The district and member number of a device ID (R197). -/
def districtOf (d : Nat) : Nat := d / 64
def memberOf (d : Nat) : Nat := d % 64

/-- Whether a device ID can name a device (R197). -/
def validDevice (d : Nat) : Bool := decide (districtOf d < 256)

/-- Whether the half is in partial reset (R34). -/
def inPreset (s : State) (h : Half) : Bool :=
  match h with
  | .up => fbit s F.MOD_STATUS_UP_PRESET
  | .down => fbit s F.MOD_STATUS_DOWN_PRESET

/-! ## Crossing the bridge (R21, R22, R24) -/

/-- Whether the bridge carries traffic between the halves: it is up, not held, and neither half is in partial reset (R430, R433). -/
def brgOpen (s : State) : Bool :=
  fbit s F.BRG_STATUS_UP && !fbit s F.BRG_STATUS_HOLD && !inPreset s .up && !inPreset s .down

/-- `n` flits cross the bridge from half `h`. Log entry 81 (DESIGN CHOICE). -/
def brgCount (s : State) (h : Half) (n : Nat) : State :=
  fcount s (match h with | .up => F.BRG_FLITS_UD_COUNT | .down => F.BRG_FLITS_DU_COUNT) 0 n

end Sys2Proof.Machine
end

