-- ==== Sys2Proof/Machine/Clock.lean ====
section
/-!
DEFINITION. The time counters (R28): what the clock does while no command waits.
-/

namespace Sys2Proof.Machine

/-- One ns passes in the two halves' local time counters (R28). They count while the core has power; the down half's stops
with the shared clock, both with the crystal (R435). Log entries 3 (DESIGN CHOICE), 121 (DESIGN CHOICE). -/
def tick (s : State) : State :=
  if !fbit s F.MOD_MSTATUS_PGOOD || s.brg.crystal then s
  else { s with
    timeUp := s.timeUp + 1
    timeDn := if s.brg.clkLost then s.timeDn else s.timeDn + 1 }

end Sys2Proof.Machine
end

