-- ==== Sys2Proof/Machine/Fp.lean ====
section
/-!
DEFINITION. Exact arithmetic and its one rounding (chapter 03): element formats (R74 to R76), rounding to the output
formats (R86 to R88), the counter-based generator of stochastic rounding (R89) and binary32 operations (R94, R115 to
R119). A finite value is a sign, a magnitude and an exponent: ±m × 2^e, kept exactly until it is rounded once.
-/

namespace Sys2Proof.Machine

/-- A number of an element or lane format: NaN, an infinity, or ± m × 2^e. -/
inductive Num where
  | nan
  | inf (neg : Bool)
  | fin (neg : Bool) (m : Nat) (e : Int)
  deriving DecidableEq, Repr

/-- A binary floating-point format with subnormals: exponent and fraction widths, bias, and the code of the largest
finite magnitude. -/
structure FpFmt where
  eb   : Nat
  fb   : Nat
  bias : Int
  maxc : Nat
  deriving DecidableEq, Repr

/-- The output formats of R86 (and the lane format of R94). -/
abbrev fmtFP32 : FpFmt := ⟨8, 23, 127, 0x7F7FFFFF⟩
abbrev fmtBF16 : FpFmt := ⟨8, 7, 127, 0x7F7F⟩
abbrev fmtE4M3 : FpFmt := ⟨4, 3, 7, 0x7E⟩
abbrev fmtE5M2 : FpFmt := ⟨5, 2, 15, 0x7B⟩

/-- Sign, exponent and fraction fields of a code of format (eb, fb), taken as finite (R75). -/
def decodeFin (eb fb : Nat) (bias : Int) (c : Nat) : Num :=
  let f := bitsAt c 0 fb; let x := bitsAt c fb eb; let s := bitAt c (eb + fb)
  if x = 0 then .fin s f (1 - bias - fb) else .fin s (f + 2 ^ fb) ((x : Int) - bias - fb)

/-- A code of a format with IEEE infinities and NaNs (R76). -/
def decodeIeee (eb fb : Nat) (bias : Int) (c : Nat) : Num :=
  if bitsAt c fb eb = 2 ^ eb - 1 then
    if bitsAt c 0 fb = 0 then .inf (bitAt c (eb + fb)) else .nan
  else decodeFin eb fb bias c

/-- A binary32 lane. -/
def fp32 (c : Nat) : Num := decodeIeee 8 23 127 c

/-- An integer value times 2^e. -/
def numOfInt (v : Int) (e : Int) : Num := .fin (decide (v < 0)) v.natAbs e

/-- The element of format code `c` (R74 to R76); `none` for a reserved code. -/
def decodeElem (code v : Nat) : Option Num :=
  match code with
  | 0x0 => some (decodeFin 2 1 1 (v % 16))
  | 0x1 => some (numOfInt (sext v 4) 0)
  | 0x2 => some (if v % 128 = 0x7F then .nan else decodeFin 4 3 7 v)
  | 0x3 => some (decodeIeee 5 2 15 v)
  | 0x4 => some (decodeFin 2 3 1 (v % 64))
  | 0x5 => some (decodeFin 3 2 3 (v % 64))
  | 0x6 => some (numOfInt (sext v 8) 0)
  | 0x7 => some (numOfInt (sext v 8) (-6))
  | 0x8 => some (decodeIeee 8 7 127 v)
  | 0x9 => some (decodeIeee 5 10 15 v)
  | _ => none

/-- Grid exponent of a format code (R74). -/
def gridExp (code : Nat) : Int :=
  match code with
  | 0x0 => -1 | 0x1 => 0 | 0x2 => -9 | 0x3 => -16 | 0x4 => -3 | 0x5 => -4 | 0x6 => 0 | 0x7 => -6 | 0x8 => -133 | _ => -24

/-- Bit length: the number of bits of `m` (0 for 0). -/
def bitLen (m : Nat) : Nat := if m = 0 then 0 else Nat.log2 m + 1

/-- Rounding mode: nearest even, or stochastic with the generator word r (R88). -/
inductive Rnd where
  | rne
  | sr (r : Nat)
  deriving DecidableEq, Repr

/-- The magnitude code of m × 2^e, rounded once. The code may exceed the
largest finite one. Below the smallest normal the unit is the subnormal unit (R87, R88). -/
def roundMag (f : FpFmt) (rnd : Rnd) (m : Nat) (e : Int) : Nat :=
  if m = 0 then 0
  else
    let lead := e + bitLen m - 1
    let emin := 1 - f.bias
    let u := (if lead < emin then emin else lead) - f.fb
    let below := u - emin + f.fb
    if u ≤ e then below.toNat * 2 ^ f.fb + m * 2 ^ (e - u).toNat
    else
      let sh := (u - e).toNat
      let q := m / 2 ^ sh; let r := m % 2 ^ sh
      let up : Bool :=
        match rnd with
        | .rne =>
          let h := 2 ^ (sh - 1)
          decide (h < r) || (r == h && q % 2 == 1)
        | .sr w => decide (2 ^ 32 ≤ r * 2 ^ 32 / 2 ^ sh + w)
      below.toNat * 2 ^ f.fb + (if up then q + 1 else q)

/-- A code with its sign. -/
def withSign (f : FpFmt) (neg : Bool) (c : Nat) : Nat := c + (if neg then 2 ^ (f.eb + f.fb) else 0)

/-- The canonical quiet NaN of an output format (R87). -/
def canonNaN (f : FpFmt) : Nat :=
  if f = fmtE4M3 then 0x7F else (2 ^ f.eb - 1) * 2 ^ f.fb + 2 ^ (f.fb - 1)

/-- Canonical NaN of a lane. -/
abbrev nan32 : Nat := 0x7FC00000

/-- Read-out rounding of R87 step 3: saturates at the largest finite magnitude. Answers the code and whether it overflowed. -/
def roundSat (f : FpFmt) (rnd : Rnd) (neg : Bool) (m : Nat) (e : Int) : Nat × Bool :=
  if m = 0 then (0, false)
  else
    let c := roundMag f rnd m e
    if f.maxc < c then (withSign f neg f.maxc, true) else (withSign f neg c, false)

/-- Binary32 rounding of a finite value, to nearest even, an infinity on overflow (R94). -/
def round32 (neg : Bool) (m : Nat) (e : Int) : Nat :=
  withSign fmtFP32 neg (min (roundMag fmtFP32 .rne m e) 0x7F800000)

/-- An infinity's code. -/
def inf32 (neg : Bool) : Nat := withSign fmtFP32 neg 0x7F800000

/-- Signed sum of two finite values at a common exponent. -/
def sumFin (n1 : Bool) (m1 : Nat) (e1 : Int) (n2 : Bool) (m2 : Nat) (e2 : Int) : Int × Int :=
  let e := min e1 e2
  let a : Int := m1 * 2 ^ (e1 - e).toNat; let b : Int := m2 * 2 ^ (e2 - e).toNat
  ((if n1 then -a else a) + (if n2 then -b else b), e)

/-- Sum of two numbers, rounded once to binary32 (IEEE 754-2019; an exact cancellation gives +0). -/
def addNum (x y : Num) : Nat :=
  match x, y with
  | .nan, _ => nan32
  | _, .nan => nan32
  | .inf a, .inf b => if a = b then inf32 a else nan32
  | .inf a, _ => inf32 a
  | _, .inf b => inf32 b
  | .fin n1 m1 e1, .fin n2 m2 e2 =>
    let s := sumFin n1 m1 e1 n2 m2 e2
    if s.1 = 0 then withSign fmtFP32 (n1 && n2 && m1 == 0 && m2 == 0) 0
    else round32 (decide (s.1 < 0)) s.1.natAbs s.2

/-- Exact product of two numbers. -/
def mulNum (x y : Num) : Num :=
  match x, y with
  | .nan, _ => .nan
  | _, .nan => .nan
  | .inf a, .inf b => .inf (a != b)
  | .inf a, .fin n m _ => if m = 0 then .nan else .inf (a != n)
  | .fin n m _, .inf b => if m = 0 then .nan else .inf (n != b)
  | .fin n1 m1 e1, .fin n2 m2 e2 => .fin (n1 != n2) (m1 * m2) (e1 + e2)

/-- A number rounded once to binary32. -/
def num32 (x : Num) : Nat :=
  match x with
  | .nan => nan32
  | .inf a => inf32 a
  | .fin n m e => round32 n m e

/-- Negation. -/
def negNum (x : Num) : Num :=
  match x with
  | .nan => .nan
  | .inf a => .inf (!a)
  | .fin n m e => .fin (!n) m e

/-- Binary32 add, subtract, multiply and the two fused forms (R94, R115). -/
def fAdd (a b : Nat) : Nat := addNum (fp32 a) (fp32 b)
def fSub (a b : Nat) : Nat := addNum (fp32 a) (negNum (fp32 b))
def fMul (a b : Nat) : Nat := num32 (mulNum (fp32 a) (fp32 b))
def fFma (a b c : Nat) : Nat := addNum (mulNum (fp32 a) (fp32 b)) (fp32 c)
def fFma2 (d a b c : Nat) : Nat := addNum (mulNum (fp32 d) (fp32 a)) (mulNum (fp32 b) (fp32 c))

/-- Order of two numbers that are not NaN, −0 below +0 where `zeros`. -/
def numLt (zeros : Bool) (x y : Num) : Bool :=
  match x, y with
  | .nan, _ => false
  | _, .nan => false
  | .inf a, .inf b => a && !b
  | .inf a, .fin .. => a
  | .fin .., .inf b => !b
  | .fin n1 m1 e1, .fin n2 m2 e2 =>
    let s := sumFin n1 m1 e1 (!n2) m2 e2
    decide (s.1 < 0) || (zeros && s.1 == 0 && m1 == 0 && m2 == 0 && n1 && !n2)

/-- IEEE 754-2019 maximum and minimum: NaN where either is, −0 less than +0 (R115). -/
def fMax (a b : Nat) : Nat :=
  if fp32 a = .nan ∨ fp32 b = .nan then nan32 else if numLt true (fp32 a) (fp32 b) then b else a
def fMin (a b : Nat) : Nat :=
  if fp32 a = .nan ∨ fp32 b = .nan then nan32 else if numLt true (fp32 b) (fp32 a) then b else a

/-- The relation of `vcmp`: 0 equal, 1 less, 2 less or equal, 3 unordered (R115). -/
def fCmp (rel a b : Nat) : Bool :=
  let x := fp32 a; let y := fp32 b
  let un := x == .nan || y == .nan
  let lt := numLt false x y; let gt := numLt false y x
  match rel with
  | 0 => !un && !lt && !gt
  | 1 => lt
  | 2 => !un && !gt
  | _ => un

/-- A vector result with the condition bits it raises: VNAN (bit 8) and VOVF (bit 9) of R128. -/
structure VRes where
  code : Nat
  vnan : Bool
  vovf : Bool
  deriving DecidableEq, Repr

/-- A NaN result raises VNAN; an infinity from finite operands raises VOVF (R119). -/
def vres (finiteIn : Bool) (c : Nat) : VRes :=
  ⟨c, c == nan32, finiteIn && c % 2 ^ 31 == 0x7F800000⟩

/-- Correctly rounded quotient (R119). -/
def fDiv (a b : Nat) : VRes :=
  match fp32 a, fp32 b with
  | .nan, _ => vres false nan32
  | _, .nan => vres false nan32
  | .inf _, .inf _ => vres false nan32
  | .inf x, .fin n _ _ => vres false (inf32 (x != n))
  | .fin n _ _, .inf y => vres false (withSign fmtFP32 (n != y) 0)
  | .fin n1 m1 e1, .fin n2 m2 e2 =>
    if m2 = 0 then (if m1 = 0 then vres true nan32 else vres true (inf32 (n1 != n2)))
    else if m1 = 0 then vres true (withSign fmtFP32 (n1 != n2) 0)
    else
      let q := m1 * 2 ^ 64 / m2; let r := m1 * 2 ^ 64 % m2
      vres true (round32 (n1 != n2) (2 * q + (if r = 0 then 0 else 1)) (e1 - e2 - 65))

/-- Correctly rounded reciprocal square root; ±0 gives the infinity of its sign, a negative number NaN (R119). -/
def fRsqrt (a : Nat) : VRes :=
  match fp32 a with
  | .nan => vres false nan32
  | .inf n => if n then vres false nan32 else vres false 0
  | .fin n m e =>
    if m = 0 then vres true (inf32 n)
    else if n then vres true nan32
    else
      let m2 := if e % 2 = 0 then m else 2 * m
      let e2 := if e % 2 = 0 then e else e - 1
      let t := 2 ^ 160 / m2
      let q := Nat.sqrt t
      let exact := q * q * m2 == 2 ^ 160
      vres true (round32 false (2 * q + (if exact then 0 else 1)) (-(e2 / 2) - 81))

/-- ln 2 with 288 fraction bits. -/
def ln2Q : Nat := 0xb17217f7d1cf79abc9e3b39803f2f6af40f343267298b62d8a0d175b8baafa2be7b87620

/-- Σ y^k / k! for k below the fuel, in fixed point with 256 fraction bits; `t` is the current term. Log entry 31 (DESIGN CHOICE). -/
def expSeries (y : Nat) : Nat → Nat → Nat → Nat → Nat
  | 0, _, _, acc => acc
  | fuel + 1, k, t, acc => expSeries y fuel (k + 1) (t * y / 2 ^ 256 / (k + 1)) (acc + t)

/-- 2^x for finite x = ± m × 2^e, rounded once: the integer part scales, the fraction goes through the series with 256
fraction bits, far below any rounding boundary of a 24-bit result. Log entry 31 (DESIGN CHOICE). -/
def exp2Fin (neg : Bool) (m : Nat) (e : Int) : Nat :=
  let lead := e + bitLen m
  if m ≠ 0 ∧ 10 < lead then (if neg then 0 else 0x7F800000)
  else
    let v : Int := if neg then -(m : Int) else m
    if 0 ≤ e then round32 false 1 (v * 2 ^ e.toNat)
    else
      let k := (-e).toNat
      let n := v / 2 ^ k
      let f := (v % 2 ^ k).toNat
      if f = 0 then round32 false 1 n
      else
        let y := f * ln2Q / 2 ^ (k + 32)
        let s := expSeries y 80 0 (2 ^ 256) 0
        round32 false (2 * s + 1) (n - 257)

/-- Correctly rounded 2^a (R119). Log entry 31 (DESIGN CHOICE). -/
def fExp2 (a : Nat) : VRes :=
  match fp32 a with
  | .nan => vres false nan32
  | .inf n => vres false (if n then 0 else 0x7F800000)
  | .fin n m e => vres true (exp2Fin n m e)

/-- `vsexp`: 2^(a − b), the difference exact, with the special cases of R118. Log entry 31 (DESIGN CHOICE). -/
def fSexp (a b : Nat) : VRes :=
  match fp32 a, fp32 b with
  | .nan, _ => vres false nan32
  | _, .nan => vres false nan32
  | .inf true, _ => vres false 0
  | .inf false, .inf false => vres false nan32
  | .inf false, _ => vres false 0x7F800000
  | .fin .., .inf y => vres false (if y then 0x7F800000 else 0)
  | .fin n1 m1 e1, .fin n2 m2 e2 =>
    let s := sumFin n1 m1 e1 (!n2) m2 e2
    vres true (exp2Fin (decide (s.1 < 0)) s.1.natAbs s.2)

/-- Exact widening of BF16, E4M3 and E5M2 lanes to binary32; a NaN becomes the canonical one (R116). -/
def widen (code v : Nat) : Nat :=
  match decodeElem code v with
  | some x => num32 x
  | none => 0

/-- One round of the generator of R89. -/
def philoxRound (c : Nat × Nat × Nat × Nat) (k0 k1 : Nat) : Nat × Nat × Nat × Nat :=
  let p0 := 0xD2511F53 * c.1; let p1 := 0xCD9E8D57 * c.2.2.1
  (Nat.xor (Nat.xor (p1 / 2 ^ 32) c.2.1) k0, p1 % 2 ^ 32, Nat.xor (Nat.xor (p0 / 2 ^ 32) c.2.2.2) k1, p0 % 2 ^ 32)

/-- `n` rounds. -/
def philoxRounds : Nat → Nat × Nat × Nat × Nat → Nat → Nat → Nat × Nat × Nat × Nat
  | 0, c, _, _ => c
  | n + 1, c, k0, k1 => philoxRounds n (philoxRound c k0 k1) ((k0 + 0x9E3779B9) % 2 ^ 32) ((k1 + 0xBB67AE85) % 2 ^ 32)

/-- The generator's first output word for one element (R89, R90). -/
def srWord (seed ltn pos step stream : Nat) : Nat :=
  (philoxRounds 10 (stream % 2 ^ 32, ltn % 4096 + pos % 256 * 4096, step % 2 ^ 32, step / 2 ^ 32 % 256)
    (seed % 2 ^ 32) (seed / 2 ^ 32 % 2 ^ 32)).1

/-- The output formats by read-out code (R86). -/
def outFmt (c : Nat) : FpFmt :=
  match c with
  | 0 => fmtFP32 | 1 => fmtBF16 | 2 => fmtE4M3 | _ => fmtE5M2

/-- `vcvt` of one lane (R94, R120): NaN to the target's canonical NaN, an infinity or an overflow to the largest finite
magnitude with its sign (R87). Log entry 29 (DEDUCED). -/
def narrow (f : FpFmt) (rnd : Rnd) (a : Nat) : Nat :=
  match fp32 a with
  | .nan => canonNaN f
  | .inf n => withSign f n f.maxc
  | .fin n m e => (roundSat f rnd n m e).1

end Sys2Proof.Machine
end

