-- ==== Sys2Proof/Machine/Flags.lean ====
section
/-!
DEFINITION. The array's flags (R65, R66) and a thread's condition field (R128).
-/

namespace Sys2Proof.Machine

/-- Flag bits, at the positions of `TILE_FLAGS` and of the condition field. -/
def fInexact : Nat := 1
def fOvf : Nat := 2
def fNan : Nat := 4
def fUncorr : Nat := 8
def fCorr : Nat := 16
def fLayout : Nat := 32
def fSeq : Nat := 64
def cVnan : Nat := 256
def cVovf : Nat := 512

/-- OR of two flag words. -/
def flagOr (a b : Nat) : Nat := Nat.lor a b

/-- OR a group's flags into `TILE_FLAGS` (R66). -/
def orTileFlags (s : State) (t fl : Nat) : State :=
  let s := if bitAt fl 0 then fset s F.TILE_FLAGS_INEXACT t 1 else s
  let s := if bitAt fl 1 then fset s F.TILE_FLAGS_OVF t 1 else s
  let s := if bitAt fl 2 then fset s F.TILE_FLAGS_NAN t 1 else s
  let s := if bitAt fl 3 then fset s F.TILE_FLAGS_UNCORR t 1 else s
  let s := if bitAt fl 4 then fset s F.TILE_FLAGS_CORR t 1 else s
  let s := if bitAt fl 5 then fset s F.TILE_FLAGS_LAYOUT t 1 else s
  if bitAt fl 6 then fset s F.TILE_FLAGS_SEQ t 1 else s

/-- OR bits into a thread's condition field (R66, R128). -/
def orCond (s : State) (t h fl : Nat) : State :=
  let th := (tget s t).th h
  setThread s t h { th with cond := flagOr th.cond fl }

/-- A sequence error of R42: `TILE_FLAGS.SEQ` and event 0x0104. -/
def seqError (s : State) (t : Nat) : State :=
  emit (orTileFlags s t fSeq) (tileHalf t) (tileBlock t) 0x0104 [(t, 12)]

end Sys2Proof.Machine
end

