-- ==== Sys2Proof/Machine/TileMem.lean ====
section
/-!
DEFINITION. The tile store and program store (R48 to R52, R98, R108), the error history that asks for a tile's retirement
(R525), and retirement itself (R130).
-/

namespace Sys2Proof.Machine

/-- Whether every thread of the tile is idle. -/
def allIdle (t : Tile) : Bool := t.threads.all (fun h => h.st == .idle)

/-- Remote operations and transfers still awaiting a response, and shunter commands that name the tile:
`TILE_OUTSTANDING.COUNT` (R141, R287). -/
def outstanding (s : State) (t : Nat) : Nat :=
  ((tget s t).ops.filter (fun o => decide (o.done < o.pieces))).length
    + (s.shn.cmds.filter (fun c => bitsAt c.line.toNat 16 12 == t)).length

/-- A retirement takes effect (R130 steps 3 and 4): the tile's bit moves from `BLK_RETIRE_PEND` to `BLK_RETIRED`, the map
goes to the logbook, and event 0x0108 is logged. -/
def retireNow (s : State) (t : Nat) : State :=
  let b := tileBlock t
  let s := fset s F.BLK_RETIRE_PEND_MAP b (setBit (fget s F.BLK_RETIRE_PEND_MAP b) (t % 64) false)
  let s := fset s F.BLK_RETIRED_MAP b (setBit (fget s F.BLK_RETIRED_MAP b) (t % 64) true)
  let s := fset s F.BLK_STATUS_RETIRED_CNT b (popcount (fget s F.BLK_RETIRED_MAP b) 64)
  let s := bookA s 0x12 b [(b, 8), (fget s F.BLK_RETIRED_MAP b, 64)]
  emit s (tileHalf t) b 0x0108 [(t, 12)]

/-- A retirement is requested (R130): at once where the tile is idle, else it is left pending. A tile already retired is
left alone (R146). -/
def requestRetire (s : State) (t : Nat) : State :=
  if tileRetired s t then s
  else if allIdle (tget s t) && outstanding s t == 0 then retireNow s t
  else if bitAt (fget s F.BLK_RETIRE_PEND_MAP (tileBlock t)) (t % 64) then s
  else
    let b := tileBlock t
    emit (fset s F.BLK_RETIRE_PEND_MAP b (setBit (fget s F.BLK_RETIRE_PEND_MAP b) (t % 64) true)) (tileHalf t) b 0x0109 [(t, 12)]

/-- A threshold of R525 is crossed: the block controller requests retirement, or with AUTO at 0 logs event 0x0C07. -/
def thresholdCrossed (s : State) (t : Nat) : State :=
  if fbit s F.LOG_RETIRE_CFG_AUTO then requestRetire s t
  else emit s (tileHalf t) (tileBlock t) 0x0C07 [(t, 12)]

/-- One powered hour, in ns. -/
def hourNs : Nat := 3600000000000

/-- A corrected block of the tile is counted (R525). -/
def noteCorr (s : State) (t : Nat) : State :=
  let n := now s (tileHalf t)
  let ti := tget s t
  let l := (ti.corrTimes.filter (fun x => n < x + hourNs)) ++ [n]
  let s := tset s t { ti with corrTimes := l }
  if fget s F.LOG_RETIRE_CFG_CORR_PER_H < l.length then thresholdCrossed s t else s

/-- An uncorrectable block of the tile is counted, once until it is rewritten (R525). Blocks of the program store are
numbered from 8,192. -/
def noteUncorr (s : State) (t b : Nat) : State :=
  let n := now s (tileHalf t)
  let ti := tget s t
  if ti.uncBlocks.contains b then s
  else
    let l := (ti.uncTimes.filter (fun x => n < x + 24 * hourNs)) ++ [n]
    let s := tset s t { ti with uncTimes := l, uncBlocks := ti.uncBlocks ++ [b] }
    if fget s F.LOG_RETIRE_CFG_UNCORR ≤ l.length then thresholdCrossed s t else s

/-- Damage met by tile-store blocks since the last step. -/
def applyUpsets (s : State) (t : Nat) (us : List (BitVec 13 × Damage)) : State :=
  if us = [] then s
  else
    let ti := tget s t
    tset s t { ti with storeErr := us.foldl (fun m u => mput m u.1.toNat (mget m u.1.toNat 0 ^^^ u.2) 0) ti.storeErr }

/-- A block as stored, with its damage. -/
def rawBlock (ti : Tile) (b : Nat) : Line × Damage := (mline ti.store b, mget ti.storeErr b 0)

/-- A scalar, vector or transfer read of a block: the data, corrected where it can be (R108, R116), with the tile's error
history; `none` where the block is uncorrectable. -/
def readBlock (s : State) (t b : Nat) : State × Option Line :=
  let r := rawBlock (tget s t) b
  match decodeBlock 4 [] r.2 with
  | .clean x => (s, some (r.1 ^^^ x))
  | .corrected x => (noteCorr s t, some (r.1 ^^^ x))
  | .uncorrectable => (noteUncorr s t b, none)

/-- A write of a block reaches the instructions that may still read it: they may see the new contents or any earlier ones
(R51, R57). A drained block is the only content an instruction of the same thread sees (R46). -/
def offerBlock (drainer : Option Nat) (b : Nat) (v : Line) (q : QInstr) : QInstr :=
  { q with cand := q.cand.map (fun c =>
      if c.1 % 8192 = b then (c.1, if drainer = some q.thread then [(v, 0)] else c.2 ++ [(v, 0)]) else c) }

/-- Write a whole block of the tile store (R51): its damage goes, a pending scrub write of it is cancelled (R52). -/
def writeBlock (s : State) (t b : Nat) (v : Line) (drainer : Option Nat := none) : State :=
  let ti := tget s t
  let a := ti.array
  tset s t { ti with
    store := mputLine ti.store b v, storeErr := mput ti.storeErr b 0 0, scrubs := ti.scrubs.filter (· != b),
    uncBlocks := ti.uncBlocks.filter (· != b),
    array := { a with running := a.running.map (offerBlock drainer b v), queue := a.queue.map (offerBlock drainer b v) } }

/-- `n` bytes at byte `o` of a block. -/
def blockBytes (v : Line) (o n : Nat) : Nat := bitsAt v.toNat (8 * o) (8 * n)

/-- A block with `n` bytes at byte `o` replaced. -/
def mergeBytes (v : Line) (o n x : Nat) : Line := BitVec.ofNat 512 (setBits v.toNat (8 * o) (8 * n) x)

/-- Write line l of the program store (R98). -/
def writeProg (s : State) (t l : Nat) (v : Line) : State :=
  let ti := tget s t
  tset s t { ti with
    prog := mputLine ti.prog l v, progErr := mput ti.progErr l 0 0,
    uncBlocks := ti.uncBlocks.filter (· != 8192 + l) }

end Sys2Proof.Machine
end

