-- ==== Sys2Proof/Machine/Array.lean ====
section
/-!
DEFINITION. The dot-cell array (chapters 02 and 03): array layout (R53), descriptors (R112), packing (R59 to R61), the cells
(R79 to R85), groups and their queue (R41, R42), the latch and the drain (R45, R58, R87).
-/

namespace Sys2Proof.Machine

/-! ## Array layout (R39, R53) -/

/-- Rows and columns of a block, and G, by class: 0 FP4, 1 FP8, 2 16-bit. -/
def blkH (cls : Nat) : Nat := if cls = 2 then 4 else 8
def blkW (cls : Nat) : Nat := if cls = 0 then 16 else 8
def grpG (cls : Nat) : Nat := if cls = 0 then 128 else if cls = 1 then 64 else 32

/-- Bytes of a group. -/
def grpBytes (cls : Nat) : Nat := if cls = 0 then 8192 else if cls = 1 then 4096 else 2048

/-- Element width in bits, and the dot width of one wave. -/
def elemBits (cls : Nat) : Nat := if cls = 0 then 4 else if cls = 1 then 8 else 16
def dotWidth (cls : Nat) : Nat := if cls = 0 then 8 else if cls = 1 then 4 else 2

/-- The block at block row x and block column y of a group. -/
def layoutBlk (cls x y : Nat) : Nat :=
  match cls with
  | 0 => y + 8 * x
  | 1 => y / 2 % 4 + 4 * (y % 2) + 8 * x
  | _ => y / 2 % 2 + 2 * (y % 2) + 4 * x

/-- The block within its group that holds element (r, c). -/
def elemBlk (cls r c : Nat) : Nat := layoutBlk cls (r / blkH cls) (c / blkW cls)

/-- The first bit of element (r, c) within its block. -/
def elemOff (cls r c : Nat) : Nat := (r % blkH cls * blkW cls + c % blkW cls) * elemBits cls

/-- The class of a format code (R74). -/
def fmtClass (code : Nat) : Option Nat :=
  if code ≤ 1 then some 0 else if code ≤ 7 then some 1 else if code ≤ 9 then some 2 else none

/-- Whether a format code takes an MX bit, and whether it must (R74). -/
def mxOk (code : Nat) (mx : Bool) : Bool :=
  match code with
  | 0 | 2 | 3 | 4 | 5 => true
  | 7 => mx
  | _ => !mx

/-- Whether the formats fixed at open suit an instruction of class `cls` (R78). -/
def formatsOk (cls fa fb : Nat) (ma mb : Bool) : Bool :=
  fmtClass fa == some cls && fmtClass fb == some cls && mxOk fa ma && mxOk fb mb

/-! ## Descriptors (R112) -/

/-- The group address and tile position of an operand descriptor; none where it breaks the layout rules (R54). -/
def operandDesc (cls d : Nat) : Option (Nat × Nat) :=
  let a := bitsAt d 0 19; let p := bitsAt d 20 3
  if bitsAt d 19 1 = 0 ∧ d / 2 ^ 23 = 0 ∧ a % grpBytes cls = 0 ∧ p * 16 < grpG cls then some (a, p) else none

/-- The blocks of an operand tile in N (`tr` false) or T orientation. -/
def operandBlocks (cls : Nat) (d : Nat × Nat) (tr : Bool) : List Nat :=
  let g := grpG cls; let h := blkH cls; let w := blkW cls
  let xs := if tr then List.range (g / h) else (List.range (16 / h)).map (· + d.2 * 16 / h)
  let ys := if tr then (List.range (16 / w)).map (· + d.2 * 16 / w) else List.range (g / w)
  xs.flatMap (fun x => ys.map (fun y => d.1 / 64 + layoutBlk cls x y))

/-- Bytes of a scale record by arrangement and class (R56). -/
def recordBytes (cls arr : Nat) : Nat :=
  match arr with
  | 2 => if cls = 0 then 16 else 4
  | _ => if cls = 0 then 64 else 32

/-- One half of a scale descriptor: the record's address and arrangement, checked against the orientation (R56, R112). -/
def scaleDesc (cls half : Nat) (tr : Bool) : Option (Nat × Nat) :=
  let a := bitsAt half 0 19; let arr := bitsAt half 19 2
  if half / 2 ^ 21 % 2 ^ 11 = 0 ∧ arr ≠ 3 ∧ a % recordBytes cls arr = 0 ∧ !(arr == 0 && tr) ∧ !(arr == 1 && !tr)
  then some (a, arr) else none

/-- The scale byte's index within its record for output index i and contraction block k of the tile at position `pos`. -/
def scaleIdx (cls arr pos i k : Nat) (tr : Bool) : Nat :=
  let n := grpG cls / 32
  if arr = 2 then
    let o := (pos * 16 + i) / 32
    if tr then k * n + o else o * n + k
  else i * n + k

/-- The packing descriptor: list block, step and first row-scale block (R112). -/
def packDesc (d : Nat) (ma : Bool) : Option (Nat × Nat × Option Nat) :=
  let step := bitsAt d 16 8
  if bitsAt d 13 3 = 0 ∧ d / 2 ^ 37 = 0 ∧ 1 ≤ step then some (bitsAt d 0 13, step, guardOpt ma (bitsAt d 24 13)) else none

/-- Entry e of a packing list: block, VALID, and whether its reserved bits are 0 (R59). -/
def packEntry (l : Line) (e : Nat) : Nat × Bool × Bool :=
  let v := bitsAt l.toNat (16 * e) 16
  (bitsAt v 0 13, bitAt v 15, bitsAt v 13 2 == 0)

/-- Whether row i of a packing list is live. -/
def packLive (l : Line) (i : Nat) : Bool := (packEntry l i).2.1

/-- The destination block of row i, where it has one. -/
def packDest (l : Line) (i : Nat) : Option Nat :=
  let e := packEntry l (16 + i)
  if packLive l i && e.2.1 then some e.1 else none

/-- Whether an input entry has a reserved bit set (R61). -/
def packInputBad (l : Line) : Bool := (List.range 16).any (fun i => !(packEntry l i).2.2)

/-- Whether the destination entries break R61: a reserved bit, or two rows with one block. Log entry 33 (DEDUCED). -/
def packDestBad (l : Line) : Bool :=
  let ds := (List.range 16).filterMap (packDest l)
  (List.range 16).any (fun i => !(packEntry l (16 + i)).2.2) || decide (ds.length ≠ ds.eraseDups.length)

/-! ## Operand elements -/

/-- An element as it enters a cell: `none` poisons, else a signed significand and an exponent that includes its block
scale (R77, R85). -/
abbrev Item := Option (Int × Int)

/-- The item of an element code under a scale byte (127 where the operand is not MX). -/
def itemOf (code v scale : Nat) : Item :=
  if scale = 0xFF then none
  else
    match decodeElem code v with
    | some (.fin n m e) => some (if n then -(m : Int) else m, e + (scale : Int) - 127)
    | _ => none

/-- The zero that a row that is not live receives (R61). -/
def zeroItem : Item := some (0, 0)

/-- The K items of output index i of an operand tile read through `get` (block to contents), with its scales. -/
def tileItems (cls code : Nat) (d : Nat × Nat) (tr : Bool) (scale : Nat → Nat → Nat) (get : Nat → Line) (i : Nat) : List Item :=
  (List.range (grpG cls)).map (fun k =>
    let r := if tr then k else d.2 * 16 + i
    let c := if tr then d.2 * 16 + i else k
    itemOf code (bitsAt (get (d.1 / 64 + elemBlk cls r c)).toNat (elemOff cls r c) (elemBits cls)) (scale i (k / 32)))

/-- The K items of a packed row held in plain order in one block (R60). -/
def rowItems (cls code : Nat) (scale : Nat → Nat) (v : Line) : List Item :=
  (List.range (grpG cls)).map (fun k => itemOf code (bitsAt v.toNat (k * elemBits cls) (elemBits cls)) (scale (k / 32)))

/-! ## Cells (R79 to R85) -/

/-- Bounds of the 112-bit accumulator. -/
def accMax : Int := 2 ^ 111 - 1
def accMin : Int := -(2 ^ 111)

/-- A product truncated toward zero to a multiple of 2^E, with whether a non-zero part was removed (R80). -/
def landProduct (e : Int) (a b : Int × Int) : Int × Bool :=
  let m := a.1 * b.1; let x := a.2 + b.2
  if e ≤ x then (m * 2 ^ (x - e).toNat, false)
  else
    let d : Int := 2 ^ (e - x).toNat
    (m.tdiv d, decide (m.tmod d ≠ 0))

/-- What one wave did to a cell, and to its group's INEXACT, OVF and data-poison marks. -/
structure CellStep where
  cell    : Cell
  inexact : Bool
  ovf     : Bool
  deriving DecidableEq, Repr

/-- Sum of one wave's truncated products; none where an item poisons. -/
def waveSum (e : Int) : List (Item × Item) → Option (Int × Bool)
  | [] => some (0, false)
  | (some a, some b) :: r =>
    match waveSum e r with
    | some (t, i) => let p := landProduct e a b; some (p.1 + t, p.2 || i)
    | none => none
  | _ :: _ => none

/-- One wave of a cell: the exact sum of the products is added, saturating; a saturated cell ignores products but not
poison (R80, R81, R85). The products of a poisoned cell set no flag. Log entry 150 (DEDUCED). -/
def cellWave (st : CellStep) (ps : List (Item × Item)) : CellStep :=
  if st.cell.poison then st
  else
    match waveSum st.cell.e ps with
    | none => { st with cell := { st.cell with poison := true } }
    | some (t, i) =>
      if st.cell.sat then st
      else
        let a := st.cell.acc + t
        if accMax < a then { cell := { st.cell with acc := accMax, sat := true }, inexact := st.inexact || i, ovf := true }
        else if a < accMin then { cell := { st.cell with acc := accMin, sat := true }, inexact := st.inexact || i, ovf := true }
        else { cell := { st.cell with acc := a }, inexact := st.inexact || i, ovf := st.ovf }

/-- The waves of one instruction in ascending contraction order (R82). -/
def cellRun (dw : Nat) : Nat → CellStep → List (Item × Item) → CellStep
  | 0, st, _ => st
  | n + 1, st, ps => cellRun dw n (cellWave st (ps.take dw)) (ps.drop dw)

/-- Automatic alignment (R79) from the cell's first pair of scale bytes. -/
def autoAlign (fa fb : Nat) (ma mb : Bool) (sa sb : Nat) : Int :=
  if ma || mb then gridExp fa + gridExp fb + ((sa : Int) - 127 + ((sb : Int) - 127)) - 32
  else if fa = 8 || fb = 8 then -80
  else if fa = 9 then -48
  else gridExp fa + gridExp fb

/-- The alignment exponent of a cell when its group opens (R79). -/
def openAlign (g : Group) (sa sb : Nat) : Int :=
  if g.align = 0x200 then autoAlign g.fa g.fb g.ma g.mb sa sb else sext g.align 10

/-! ## What an instruction feeds on -/

/-- The row blocks of a packed instruction t: row i reads BLOCK_i + t × step (R60). -/
def packRow (l : Line) (step t i : Nat) : Nat := (packEntry l i).1 + t * step

/-- The row side of an instruction resolved against its group: an operand tile, packed rows, or nothing, where the group's packing
list or descriptor gave no rows and has poisoned it already. None where a rule of R54, R56, R61 or R78 is broken. -/
inductive RowSide where
  | tile (d : Nat × Nat) (scale : Option (Nat × Nat))
  | packed (l : Line) (step : Nat) (rscale : Option Nat)
  | unread
  deriving DecidableEq, Repr

/-- The resolved operands of an instruction. -/
structure Feed where
  row   : RowSide
  col   : Nat × Nat
  bscal : Option (Nat × Nat)
  deriving DecidableEq, Repr

/-- Half A of the scale descriptor of a packed MX instruction: its record is not read, but its layout is checked (R112). Log entry 150 (DEDUCED). -/
def packScaleOk (g : Group) (q : QInstr) : Bool := !g.ma || (scaleDesc q.cls (q.ss % 2 ^ 32) (bitsAt q.ss 19 2 == 1)).isSome

/-- The row side of an instruction. -/
def rowSide (g : Group) (q : QInstr) : Option RowSide :=
  if g.packed then
    if !packScaleOk g q then none
    else
      match packDesc g.pdesc g.ma, g.plist with
      | some (_, step, rs), some l =>
        let live := (List.range 16).filter (packLive l)
        if live.any (fun i => decide (8192 ≤ packRow l step q.t i)) || (rs.any (fun b => decide (8192 ≤ b + q.t))) then none
        else some (.packed l step rs)
      | _, _ => some .unread
  else
    match operandDesc q.cls q.sa with
    | some d =>
      if g.ma then (scaleDesc q.cls (q.ss % 2 ^ 32) q.oa).map (fun x => .tile d (some x)) else some (.tile d none)
    | none => none

/-- The whole feed of an instruction; none is a layout or format error. -/
def feedOf (g : Group) (q : QInstr) : Option Feed :=
  if !formatsOk q.cls g.fa g.fb g.ma g.mb then none
  else
    match rowSide g q, operandDesc q.cls q.sb with
    | some r, some c =>
      if g.mb then (scaleDesc q.cls (q.ss / 2 ^ 32) q.ob).map (fun x => { row := r, col := c, bscal := some x })
      else some { row := r, col := c, bscal := none }
    | _, _ => none

/-- A feed's read of a block, by what it is read for: 0 row operand, 1 row scales, 2 column operand, 3 column scales, 4 + i row i of
packed rows. The two feeds read, correct and count a block each for itself (R52, R57). -/
def readOf (use b : Nat) : Nat := 8192 * use + b

/-- Every read of an instruction's feeds. -/
def feedReads (f : Feed) (q : QInstr) : List Nat :=
  let scales := fun (use : Nat) (sc : Option (Nat × Nat)) => sc.toList.map (fun x => readOf use (x.1 / 64))
  (match f.row with
    | .tile d sc => (operandBlocks q.cls d q.oa).map (readOf 0) ++ scales 1 sc
    | .packed l step rs =>
      ((List.range 16).filter (packLive l)).map (fun i => readOf (4 + i) (packRow l step q.t i)) ++ rs.toList.map (fun b => readOf 1 (b + q.t))
    | .unread => [])
  ++ (operandBlocks q.cls f.col q.ob).map (readOf 2) ++ scales 3 f.bscal

/-! ## Read-out (R58, R87, R113) -/

/-- The blocks a read-out writes, each with the positions (i, j) it holds; none where the destination breaks R54 or R61. With an
uncorrectable packing list no destination is known, and no block is written. Log entries 33 (DEDUCED), 150 (DEDUCED). -/
def destBlocks (g : Group) (r : ReadOut) : Option (List (Nat × List (Nat × Nat))) :=
  if g.packed then
    match g.plist with
    | some l =>
      if packDestBad l then none
      else some ((List.range 16).filterMap (fun i => (packDest l i).map (fun b => (b, (List.range 16).map (fun j => (i, j))))))
    | none => guardOpt g.listLost []
  else
    let a := bitsAt r.desc 0 19; let rp := bitsAt r.desc 20 3; let cp := bitsAt r.desc 23 3
    if bitsAt r.desc 19 1 ≠ 0 ∨ r.desc / 2 ^ 26 ≠ 0 then none
    else if r.fmt = 0 then
      if rp ≠ 0 ∨ cp ≠ 0 ∨ a % 64 ≠ 0 ∨ 10 ≤ r.pitch ∨ 0x80000 < a + 15 * 2 ^ r.pitch * 64 + 64 then none
      else some ((List.range 16).map (fun i => (a / 64 + i * 2 ^ r.pitch, (List.range 16).map (fun j => (i, j)))))
    else
      let cls := if r.fmt = 1 then 2 else 1
      let lim := grpG cls / 16
      if lim ≤ rp ∨ lim ≤ cp ∨ a % grpBytes cls ≠ 0 then none
      else
        let bs := ((List.range 16).flatMap (fun i => (List.range 16).map (fun j => elemBlk cls (rp * 16 + i) (cp * 16 + j)))).eraseDups
        some (bs.map (fun b => (a / 64 + b,
          ((List.range 16).flatMap (fun i => (List.range 16).map (fun j => (i, j)))).filter
            (fun p => elemBlk cls (rp * 16 + p.1) (cp * 16 + p.2) == b))))

/-- The blocks that a group's issued read-out will write (R46). -/
def pendingBlocks (g : Group) : List Nat :=
  match g.readOut with
  | some r => match destBlocks g r with | some l => l.map (·.1) | none => []
  | none => []

/-- Groups whose read-out has issued and not been written. -/
def readOutGroups (a : ArrayState) : List Group := a.groups.filter (fun g => g.readOut.isSome) ++ a.latch.toList

/-- Whether a pending read-out of the tile will write block b (R46). -/
def blockPending (ti : Tile) (b : Nat) : Bool := (readOutGroups ti.array).any (fun g => (pendingBlocks g).contains b)

/-- Where the result of position (i, j) goes within its block, and how wide it is. -/
def resultOff (g : Group) (r : ReadOut) (i j : Nat) : Nat × Nat :=
  let w := if r.fmt = 0 then 32 else if r.fmt = 1 then 16 else 8
  if g.packed || r.fmt = 0 then (j * w, w)
  else
    let cls := if r.fmt = 1 then 2 else 1
    (elemOff cls (bitsAt r.desc 20 3 * 16 + i) (bitsAt r.desc 23 3 * 16 + j), w)

/-- One cell's read-out (R87): its code, and whether it overflowed. -/
def cellOut (g : Group) (r : ReadOut) (i j : Nat) : Nat × Bool :=
  let c := g.cells.getD (i * 16 + j) {}
  let f := outFmt r.fmt
  if g.poison || c.poison then (canonNaN f, false)
  else if c.sat then (withSign f (decide (c.acc < 0)) f.maxc, true)
  else roundSat f (if r.sr then .sr (srWord r.seed r.ltn (i * 16 + j) r.step r.stream) else .rne) (decide (c.acc < 0)) c.acc.natAbs c.e

/-- The contents of a result block. -/
def resultBlock (g : Group) (r : ReadOut) (ps : List (Nat × Nat)) : Line :=
  ps.foldl (fun v p =>
    let o := resultOff g r p.1 p.2
    BitVec.ofNat 512 (setBits v.toNat o.1 o.2 (cellOut g r p.1 p.2).1)) 0

/-- The rows a group reads out: all of them, or the live ones of a packed group that have a destination. -/
def readRows (g : Group) : List Nat :=
  if g.packed then
    match g.plist with
    | some l => (List.range 16).filter (fun i => (packDest l i).isSome)
    | none => []
  else List.range 16

/-- The flags a read-out adds: OVF where a cell overflowed, NAN where one is poisoned (R87), LAYOUT and NAN where the destination
breaks the rules, which poisons every cell (R54). Of a packed group only the rows that are written count. Log entry 150 (DEDUCED). -/
def readFlags (g : Group) (r : ReadOut) : Nat :=
  if (destBlocks g r).isNone then flagOr fLayout fNan
  else
    let ps := (readRows g).flatMap (fun i => (List.range 16).map (fun j => (i, j)))
    let ov := if ps.any (fun p => (cellOut g r p.1 p.2).2) then fOvf else 0
    let na := if g.poison || ps.any (fun p => (g.cells.getD (p.1 * 16 + p.2) {}).poison) then fNan else 0
    flagOr ov na

/-! ## Groups and the queue (R41, R42) -/

/-- Replace the array of a tile. -/
def setArray (s : State) (t : Nat) (a : ArrayState) : State := tset s t { tget s t with array := a }

/-- Group by id. -/
def ArrayState.grp (a : ArrayState) (id : Nat) : Option Group := a.groups.find? (fun g => g.id == id)

/-- The open group. -/
def ArrayState.open? (a : ArrayState) : Option Group := a.openG.bind a.grp

/-- Replace a group. -/
def ArrayState.setGrp (a : ArrayState) (g : Group) : ArrayState :=
  { a with groups := a.groups.map (fun x => if x.id = g.id then g else x) }

/-- Close the open group without read-out: its flags are discarded and its queued instructions with it; the one that is in the
feeds or the cells runs to its last wave into the discarded group (R42, R126). Log entry 150 (DEDUCED). -/
def ArrayState.closeOpen (a : ArrayState) : ArrayState :=
  match a.openG with
  | none => a
  | some id =>
    { a with
      openG := none, groups := a.groups.filter (fun g => g.id != id), queue := a.queue.filter (fun q => q.group != id),
      dead := if (a.running.map (·.group)) = some id then a.grp id else a.dead }

/-- Start the next queued instruction where the feeds are free. -/
def ArrayState.advance (a : ArrayState) : ArrayState :=
  match a.running, a.queue with
  | none, q :: r => { a with running := some q, queue := r }
  | _, _ => a

/-- Whether the array queue is full (R41). -/
def ArrayState.full (a : ArrayState) : Bool := decide (4 ≤ a.queue.length)

/-- A new group from an opener's word: formats, alignment and packing as it fixes them (R111). -/
def newGroup (id : Nat) (o : Opener) : Group :=
  { id := id, owner := o.thread, packed := bitAt o.word 21, fa := bitsAt o.word 22 4, fb := bitsAt o.word 26 4,
    ma := bitAt o.word 30, mb := bitAt o.word 31, align := bitsAt o.word 32 10, pdesc := if bitAt o.word 21 then o.sa else 0,
    plist := none, listWait := false, listLost := false, count := 0, cells := List.replicate 256 {}, flags := 0, poison := false,
    readOut := none }

/-- Reads and the present contents of their blocks, as an instruction entering the queue may already read them (R57). Log entry 32 (DEDUCED). -/
def candidates (ti : Tile) (rs : List Nat) : List (Nat × List (Line × Damage)) := rs.map (fun k => (k, [rawBlock ti (k % 8192)]))

/-- A layout error of a group (R54): LAYOUT and NAN, every cell poisoned, event 0x0103. -/
def layoutError (s : State) (t : Nat) (g : Group) : State × Group :=
  (emit s (tileHalf t) (tileBlock t) 0x0103 [(t, 12)], { g with flags := flagOr g.flags (flagOr fLayout fNan), poison := true })

/-- A corrected operand block (R52): CORR, the count, the limited event, and a scrub write to come. -/
def feedCorr (s : State) (t b : Nat) : State :=
  let s := orTileFlags s t fCorr
  let s := fcount s F.TILE_ARRAY_CODE_CORR_CNT t 1
  let s := emitLim s (tileHalf t) (tileBlock t) 0x0101 t ms [(t, 12), (b, 13)]
  let s := noteCorr s t
  let ti := tget s t
  if ti.scrubs.contains b then s else tset s t { ti with scrubs := ti.scrubs ++ [b] }

/-- An uncorrectable operand block (R52, R69). -/
def feedUncorr (s : State) (t b : Nat) : State :=
  let s := fcount s F.TILE_ARRAY_CODE_UNCORR_CNT t 1
  let s := fset (fset s F.TILE_ARRAY_ERRBLK_BLOCK t b) F.TILE_ARRAY_ERRBLK_VALID t 1
  let s := emit s (tileHalf t) (tileBlock t) 0x0102 [(t, 12), (b, 13)]
  noteUncorr s t b

/-- A feed's read of a block's stored form: the data, the state with the error counted, and whether it was corrected;
`none` for uncorrectable. Log entries 9 (DESIGN CHOICE), 32 (DEDUCED). -/
def feedRead (s : State) (t b : Nat) (r : Line × Damage) : State × Option Line × Nat :=
  match decodeBlock 4 [] r.2 with
  | .clean x => (s, some (r.1 ^^^ x), 0)
  | .corrected x => (feedCorr s t b, some (r.1 ^^^ x), fCorr)
  | .uncorrectable => (feedUncorr s t b, none, fUncorr)

/-- Whether an earlier read-out of the group's own thread will write block b (R46, R124). -/
def ownPending (a : ArrayState) (owner id b : Nat) : Bool :=
  (readOutGroups a).any (fun g => g.owner == owner && decide (g.id < id) && (pendingBlocks g).contains b)

/-- The packing list of a group is read, once (R59). An error of its code is handled as one of an operand block. Log entry 150 (DEDUCED). -/
def readList (s : State) (t : Nat) (g : Group) (lb : Nat) : State × Group :=
  let r := feedRead s t lb (rawBlock (tget s t) lb)
  match r.2.1 with
  | none => (r.1, { g with flags := flagOr g.flags fUncorr, poison := true, listWait := false, listLost := true })
  | some l =>
    let g := { g with plist := some l, flags := flagOr g.flags r.2.2, listWait := false }
    if packInputBad l || packDestBad l then layoutError r.1 t g else (r.1, g)

/-- Open a group for an opener. The packing list of a packed group is read now, or once an earlier read-out of its thread has
written it (R46, R124). -/
def openGroup (s : State) (t : Nat) (o : Opener) : State × Group :=
  let g := newGroup (tget s t).array.nextId o
  if !g.packed then (s, g)
  else
    match packDesc g.pdesc g.ma with
    | none => layoutError s t g
    | some (lb, _, _) => if ownPending (tget s t).array g.owner g.id lb then (s, { g with listWait := true }) else readList s t g lb

/-- What an instruction may read of its feeds' blocks, from the present contents on. -/
def withCandidates (ti : Tile) (g : Group) (q : QInstr) : QInstr :=
  match feedOf g q with
  | some f => { q with cand := candidates ti (feedReads f q) }
  | none => q

/-- The instruction of an opener or member, as admitted to group g. -/
def queued (ti : Tile) (g : Group) (o : Opener) : QInstr :=
  withCandidates ti g { group := g.id, thread := o.thread, cls := bitsAt o.word 0 8 - 0x40, sa := o.sa, sb := o.sb, ss := o.ss,
                        oa := bitAt o.word 18, ob := bitAt o.word 19, t := g.count, cand := [] }

/-- Packing lists that waited for a read-out are read once it is written, and their group's instructions may read from then on. -/
def readLists (s : State) (t : Nat) : State :=
  ((tget s t).array.groups.filter (·.listWait)).foldl (fun s g =>
    match packDesc g.pdesc g.ma with
    | none => s
    | some (lb, _, _) =>
      if ownPending (tget s t).array g.owner g.id lb then s
      else
        let p := readList s t g lb
        let ti := tget p.1 t
        let again := fun (q : QInstr) => if q.group = g.id then withCandidates ti p.2 q else q
        let a := ti.array.setGrp p.2
        setArray p.1 t { a with running := a.running.map again, queue := a.queue.map again }) s

/-- Put an instruction into the queue, and into the feeds where they are free. -/
def enqueue (s : State) (t : Nat) (g : Group) (o : Opener) : State :=
  let ti := tget s t
  let q := queued ti g o
  let a := ti.array.setGrp { g with count := g.count + 1 }
  setArray s t ({ a with queue := a.queue ++ [q] }).advance

/-- Admit an opener: it opens its group and enters the queue (R41). -/
def admitOpener (s : State) (t : Nat) (o : Opener) : State :=
  let p := openGroup s t o
  let a := (tget p.1 t).array
  enqueue (setArray p.1 t { a with nextId := a.nextId + 1, groups := a.groups ++ [p.2], openG := some p.2.id }) t p.2 o

/-! ## An instruction runs through the cells -/

/-- One read of an instruction is made at last: which of the contents it may see is open (R51, R57); errors are handled as
R52 states. Answers the data, or none for uncorrectable, with the group flags it raises. -/
def feedBlock (s : State) (t : Nat) (c : Nat × List (Line × Damage)) : State × Option Line × Nat :=
  let b := c.1 % 8192
  let cur := rawBlock (tget s t) b
  let vs := if c.2.getLast? = some cur then c.2 else c.2 ++ [cur]
  if vs.length ≤ 1 then feedRead s t b cur
  else
    let p := fresh s
    feedRead p.2 t b (vs.getD (p.1 % vs.length) cur)

/-- All the reads of an instruction: contents by read, flags, and whether one was uncorrectable. -/
def feedAll (s : State) (t : Nat) : List (Nat × List (Line × Damage)) → State × NMap Line × Nat × Bool
  | [] => (s, [], 0, false)
  | c :: r =>
    let p := feedBlock s t c
    let q := feedAll p.1 t r
    match p.2.1 with
    | some v => (q.1, mput q.2.1 c.1 v 0, flagOr p.2.2 q.2.2.1, q.2.2.2)
    | none => (q.1, q.2.1, flagOr p.2.2 q.2.2.1, true)

/-- The scale byte of a record at `a` read through `get`. -/
def scaleByte (get : Nat → Line) (use a k : Nat) : Nat := blockBytes (get (readOf use (a / 64))) (a % 64 + k) 1

/-- Items of the row side for row i, with the scale byte of its first contraction block. -/
def rowFeed (g : Group) (q : QInstr) (f : Feed) (get : Nat → Line) (i : Nat) : List Item × Nat :=
  match f.row with
  | .tile d sc =>
    let sf : Nat → Nat → Nat := fun i k =>
      match sc with
      | some x => scaleByte get 1 x.1 (scaleIdx q.cls x.2 d.2 i k q.oa)
      | none => 127
    (tileItems q.cls g.fa d q.oa sf (fun b => get (readOf 0 b)) i, sf i 0)
  | .packed l step rs =>
    if packLive l i then
      let sf : Nat → Nat := fun k =>
        match rs with
        | some b => blockBytes (get (readOf 1 (b + q.t))) (4 * i + k) 1
        | none => 127
      (rowItems q.cls g.fa sf (get (readOf (4 + i) (packRow l step q.t i))), sf 0)
    else ((List.range (grpG q.cls)).map (fun _ => zeroItem), 127)
  | .unread => ((List.range (grpG q.cls)).map (fun _ => zeroItem), 127)

/-- Items of the column side for column j, with the scale byte of its first contraction block. -/
def colFeed (g : Group) (q : QInstr) (f : Feed) (get : Nat → Line) (j : Nat) : List Item × Nat :=
  let sf : Nat → Nat → Nat := fun i k =>
    match f.bscal with
    | some x => scaleByte get 3 x.1 (scaleIdx q.cls x.2 f.col.2 i k q.ob)
    | none => 127
  (tileItems q.cls g.fb f.col q.ob sf (fun b => get (readOf 2 b)) j, sf j 0)

/-- The cells of a group after one instruction, with the group's INEXACT and OVF. -/
def runCells (g : Group) (q : QInstr) (f : Feed) (get : Nat → Line) : Group :=
  let rows := (List.range 16).map (rowFeed g q f get)
  let cols := (List.range 16).map (colFeed g q f get)
  let sts := rows.zipIdx.flatMap (fun ri => cols.zipIdx.map (fun cj =>
    let c := g.cells.getD (ri.2 * 16 + cj.2) {}
    let c := if c.opened then c else { c with e := openAlign g ri.1.2 cj.1.2, opened := true }
    cellRun (dotWidth q.cls) 16 { cell := c, inexact := false, ovf := false } (ri.1.1.zip cj.1.1)))
  let fl := flagOr (if sts.any (·.inexact) then fInexact else 0) (if sts.any (·.ovf) then fOvf else 0)
  { g with cells := sts.map (·.cell), flags := flagOr g.flags fl }

/-- Whether the instruction in the feeds must wait: an earlier read-out of its own thread will write a block it reads or its
group's packing list (R46, R124), or an earlier group has not yet gone to the latch (R45). -/
def feedWaits (a : ArrayState) (q : QInstr) : Bool :=
  q.cand.any (fun c => ownPending a q.thread q.group (c.1 % 8192)) || ((a.grp q.group).map (·.listWait)).getD false
    || a.groups.any (fun g => decide (g.id < q.group) && g.readOut.isSome)

/-- What an instruction does to its group: a layout or format error poisons it (R54, R78), else its products land. In a group that
is poisoned as a whole nothing lands, and data that would poison is not noted (R96). Log entry 150 (DEDUCED). -/
def runInstr (s : State) (t : Nat) (g : Group) (q : QInstr) (get : Nat → Line) : State × Group :=
  match feedOf g q with
  | none => layoutError s t g
  | some f => if g.poison then (s, g) else (s, runCells g q f get)

/-- The instruction in the feeds and cells completes (R45): its operands are read, its products land, and the next queued
instruction takes its place. `stall` waves passed without words; its own 16 waves count as busy whatever it computes (R70). Log entry 150 (DEDUCED). -/
def instrComplete (s : State) (t stall : Nat) : State :=
  let a := (tget s t).array
  match a.running with
  | none => s
  | some q =>
    if feedWaits a q then s
    else
      let r := feedAll s t q.cand
      let s := fcount (fcount r.1 F.TILE_ARRAY_BUSY_COUNT t 16) F.TILE_ARRAY_STALL_COUNT t stall
      let a := (tget s t).array
      match (a.grp q.group).or a.dead with
      | none => setArray s t ({ a with running := none }).advance
      | some g =>
        let p := runInstr s t { g with flags := flagOr g.flags r.2.2.1, poison := g.poison || r.2.2.2 } q (fun k => mget r.2.1 k 0)
        setArray p.1 t ({ (tget p.1 t).array with running := none, dead := none }.setGrp p.2).advance

/-- The next group with a read-out goes to the latch once all its instructions have completed (R45). -/
def groupLatch (s : State) (t : Nat) : State :=
  let a := (tget s t).array
  match a.latch, a.groups with
  | none, g :: r =>
    if g.readOut.isSome && !(a.queue.any (fun q => q.group == g.id)) && !((a.running.map (fun q => q.group == g.id)).getD false)
    then setArray s t { a with latch := some g, groups := r }
    else s
  | _, _ => s

/-- The drain ends (R44, R58, R66): every result block is written, or none where the destination breaks the rules, and the
group's flags reach `TILE_FLAGS` and the issuing thread's condition field. -/
def drainDone (s : State) (t : Nat) : State :=
  let a := (tget s t).array
  match a.latch with
  | none => s
  | some g =>
    match g.readOut with
    | none => setArray s t { a with latch := none }
    | some r =>
      let s := setArray s t { a with latch := none }
      let fl := flagOr g.flags (readFlags g r)
      let s := if (destBlocks g r).isNone && !g.packed then emit s (tileHalf t) (tileBlock t) 0x0103 [(t, 12)] else s
      let s := ((destBlocks g r).getD []).foldl (fun s d => writeBlock s t d.1 (resultBlock g r d.2) (some r.thread)) s
      let s := orCond (orTileFlags s t fl) t r.thread fl
      let s := if bitAt fl 1 then emitLim s (tileHalf t) (tileBlock t) 0x0105 t ms [(t, 12), (r.thread, 3)] else s
      let s :=
        if (readRows g).any (fun i => (List.range 16).any (fun j => (g.cells.getD (i * 16 + j) {}).poison)) then
          emitLim s (tileHalf t) (tileBlock t) 0x0106 t ms [(t, 12), (r.thread, 3)]
        else s
      readLists s t

/-- A scrub write puts the corrected block back, unless another write reached the block first (R52). -/
def scrubWrite (s : State) (t b : Nat) : State :=
  let ti := tget s t
  if !ti.scrubs.contains b then s
  else
    let s := tset s t { ti with scrubs := ti.scrubs.filter (· != b) }
    match decodeBlock 4 [] (rawBlock ti b).2 with
    | .corrected x =>
      let ti := tget s t
      tset s t { ti with store := mputLine ti.store b ((rawBlock ti b).1 ^^^ x), storeErr := mput ti.storeErr b 0 0 }
    | _ => s

/-- ARRAY_INSTRUCTION_COMPLETE (R45): the instruction in the feeds and cells ends after its 16 waves. Log entry 5 (DEDUCED). -/
def execArrayInstructionComplete (tile : BitVec 12) (stall : BitVec 32) (s : State) : Res :=
  .next (instrComplete s tile.toNat stall.toNat)

/-- ARRAY_GROUP_LATCH (R45). -/
def execArrayGroupLatch (tile : BitVec 12) (s : State) : Res := .next (groupLatch s tile.toNat)

/-- ARRAY_DRAIN_DONE (R44). -/
def execArrayDrainDone (tile : BitVec 12) (s : State) : Res := .next (drainDone s tile.toNat)

/-- TILE_SCRUB_WRITE (R52). -/
def execTileScrubWrite (tile : BitVec 12) (block : BitVec 13) (s : State) : Res := .next (scrubWrite s tile.toNat block.toNat)

/-- ARRAY_ADMIT_OPENER (R41): the first held opener opens its group once none is open and the queue has room; its thread
goes on. -/
def execArrayAdmitOpener (tile : BitVec 12) (s : State) : Res :=
  let t := tile.toNat
  let a := (tget s t).array
  match a.waiters with
  | [] => .next s
  | o :: r =>
    if a.openG.isSome || a.full then .next s
    else
      let s := admitOpener (setArray s t { a with waiters := r }) t o
      let th := (tget s t).th o.thread
      .next (fcount (setThread s t o.thread { th with st := .ready, pc := th.pc + 8 }) F.TILE_ISSUED_COUNT t 1)

end Sys2Proof.Machine
end

