-- ==== Sys2Proof/Machine/Depot.lean ====
section
/-!
DEFINITION. The depot (chapter 05): stack reads with their code, spares and erasures, the depot cache, the home operations
at a slice, hot lines, refusals with their blocks, and the companion's directory.
-/

namespace Sys2Proof.Machine

/-! ## Channels (R156 to R163) -/

/-- The line a depot address lies in. -/
def LineOp.line (o : LineOp) : Nat := o.addr / 64

/-- The register index of the channel of a line, and its half. -/
def lineChan (l : Nat) : Nat := chanOf (64 * l)
def lineHalf (l : Nat) : Half := homeHalf (64 * l)

/-- Stack and channel numbers of a channel index, as event arguments (R195). -/
def chanArgs (c : Nat) : List (Nat × Nat) := [(c / 192, 1), (c % 192 / 16, 4), (c % 16, 4)]

/-- The half of a channel index. -/
def chanHalf (c : Nat) : Half := Half.ofNum (c / 192)

/-- Entry n of a channel's spare map or erasure list (R193). -/
def spareVia (n : Nat) : Fld := ⟨.DEP_CH_SPARE, 8 * n, 7, .ro, .const 0, 0, 127⟩
def spareValid (n : Nat) : Fld := ⟨.DEP_CH_SPARE, 8 * n + 7, 1, .ro, .const 0, 0, 1⟩
def eraseVia (n : Nat) : Fld := ⟨.DEP_CH_ERASE, 8 * n, 7, .ro, .const 0, 0, 127⟩
def eraseValid (n : Nat) : Fld := ⟨.DEP_CH_ERASE, 8 * n + 7, 1, .ro, .const 0, 0, 1⟩

/-- The symbols a channel's decoder treats as erasures (R154). -/
def erasures (s : State) (c : Nat) : List Nat :=
  (List.range 4).filterMap (fun n => guardOpt (fbit s (eraseValid n) c) (fget s (eraseVia n) c))

/-- The channel's spare map and erasure list go to the logbook (R519 type 0x10). -/
def bookChannel (s : State) (c : Nat) : State :=
  bookA s 0x10 c ((c, 9) :: (List.range 4).flatMap (fun n =>
    [(fget s (spareVia n) c, 7), (fget s (spareValid n) c, 1), (fget s (eraseVia n) c, 7), (fget s (eraseValid n) c, 1)]))

/-- A live retrain starts (R161), unless one is in progress or the channel is not in service. Log entry 40 (DEDUCED). -/
def startRetrain (s : State) (c : Nat) : State :=
  if fbit s F.DEP_CH_STATUS_RETRAINING c || fbit s F.DEP_CH_STATUS_FAILED c || !fbit s F.DEP_CH_STATUS_TRAINED c then s
  else fcount (fset s F.DEP_CH_STATUS_RETRAINING c 1) F.DEP_STATUS_RETRAINING (c / 192) 1

/-- A via takes a free spare (R158, R160): the lowest free one. Log entry 40 (DEDUCED). -/
def useSpare (s : State) (c via : Nat) : State :=
  let n := fget s F.DEP_CH_STATUS_SPARES_USED c
  let s := fset (fset s (spareVia n) c via) (spareValid n) c 1
  let s := fset s F.DEP_CH_STATUS_SPARES_USED c (n + 1)
  emit s (chanHalf c) unitDep 0x0204 (chanArgs c ++ [(via, 7), (n, 2)])

/-- A via enters the erasure list. Log entry 40 (DEDUCED). -/
def useErasure (s : State) (c via : Nat) : State :=
  let n := fget s F.DEP_CH_STATUS_ERASED c
  let s := fset (fset s (eraseVia n) c via) (eraseValid n) c 1
  fset (fset s F.DEP_CH_STATUS_ERASED c (n + 1)) F.DEP_STATUS_DEGRADED (c / 192) 1

/-- A fifth via without a spare (R162): the channel is failed, no longer in service (R192), and the device declares a device fault.
Log entry 141 (DEDUCED). -/
def failChannel (s : State) (c : Nat) : State :=
  let s := fset (fset (fset s F.DEP_CH_STATUS_FAILED c 1) F.DEP_CH_STATUS_TRAINED c 0) F.DEP_STATUS_FAILED (c / 192) 1
  fset (emit s (chanHalf c) unitDep 0x020C (chanArgs c)) F.MOD_STATUS_DEV_FAULT 0 1

/-- The via that carries a symbol (R150): the last spare switched in for it, 72 to 75, else via `sym` itself. -/
def carrier (s : State) (c sym : Nat) : Nat :=
  ((((List.range 4).reverse.find? (fun n => fbit s (spareValid n) c && fget s (spareVia n) c == sym))).map (72 + ·)).getD sym

/-- The via that carries a symbol is marked failed (R160, R162): event 0x0203, then a spare, an erasure or the channel's failure; `n`
is the number of corrections counted. Log entry 40 (DEDUCED). -/
def failVia (s : State) (c sym n : Nat) : State :=
  let s := emit s (chanHalf c) unitDep 0x0203 (chanArgs c ++ [(carrier s c sym, 7), (n, 16)])
  if fget s F.DEP_CH_STATUS_SPARES_USED c < 4 then bookChannel (useSpare s c sym) c
  else if fget s F.DEP_CH_STATUS_ERASED c < 4 then bookChannel (useErasure s c sym) c
  else failChannel s c

/-- A via is marked failed in service (R160): with a spare free the channel retrains live. Log entry 40 (DEDUCED). -/
def markVia (s : State) (c sym n : Nat) : State :=
  let spare := decide (fget s F.DEP_CH_STATUS_SPARES_USED c < 4)
  let s := failVia s c sym n
  if spare then startRetrain s c else s

/-- One second, in ns. -/
def secNs : Nat := 1000000000

/-- A correction at a symbol position is counted (R160). Log entry 39 (DEDUCED). -/
def noteSymbol (s : State) (c sym : Nat) : State :=
  let n := now s (chanHalf c)
  let k := c * 72 + sym
  let l := (mget s.dep.symHits k []).filter (fun t => n < t + secNs) ++ [n]
  let s := fset (fset s F.DEP_CH_STATUS_LAST_SYM c sym) F.DEP_CH_STATUS_LSV c 1
  if fget s F.DEP_CFG_ERASE_THR (c / 192) ≤ l.length then
    markVia { s with dep := { s.dep with symHits := mput s.dep.symHits k [] [] } } c sym l.length
  else { s with dep := { s.dep with symHits := mput s.dep.symHits k l [] } }

/-- One corrected burst of a channel (R187, R194, R195). Log entry 39 (DEDUCED). -/
def noteCorrected (s : State) (c : Nat) (syms : List Nat) : State :=
  let s := fcount (fcount s F.DEP_CORR_COUNT (c / 192) 1) F.DEP_CH_CORR_CORR c 1
  let s := emitLim s (chanHalf c) unitDep 0x0201 c ms (chanArgs c)
  syms.foldl (fun s y => noteSymbol s c y) s

/-- `DEP_ERR_ADDR` takes a line (R188), event 0x0202 is logged and `DEP_UNCORR` counts. -/
def noteLost (s : State) (l : Nat) : State :=
  let h := (lineHalf l).num
  let s := fset (fset s F.DEP_ERR_ADDR_ADDR h l) F.DEP_ERR_ADDR_VALID h 1
  emit (fcount s F.DEP_UNCORR_COUNT h 1) (lineHalf l) unitDep 0x0202 (chanArgs (lineChan l) ++ [(64 * l, 36)])

/-- An uncorrectable stack read is reported (R156). -/
def noteUncorrectable (s : State) (l : Nat) : State := fcount (noteLost s l) F.DEP_CH_CORR_UNCORR (lineChan l) 1

/-- The symbols that a correction changed, erased positions apart. -/
def fixedSyms (era : List Nat) (e : ErrPat) : List Nat :=
  ((corrections (syndromes e) era).filter (fun p => p.2 != 0 && !era.contains p.1)).map (·.1)

/-- The damage of the stack copy of a line. -/
def lineErr (s : State) (l : Nat) : Damage := mget s.dep.err l 0

/-- Set the damage of the stack copy of a line. -/
def setLineErr (s : State) (l : Nat) (e : Damage) : State := { s with dep := { s.dep with err := mput s.dep.err l e 0 } }

/-- The stack copy of a line becomes what the decoder delivered. -/
def repair (s : State) (l : Nat) (x : Line) : State := setLineErr (setDepLine s l (depLine s l ^^^ x)) l 0

/-- Whether the half's decoders correct at most three unknown errors (R155). -/
def strict (s : State) (l : Nat) : Bool := fbit s F.DEP_CFG_STRICT (lineHalf l).num

/-- A stack read of a line (R156, R157): `d1` and `d2` are the damage the two readings meet beyond the stored damage. The
answer says whether the line could be read; a corrected line is written back, and an uncorrectable one stays as its second
reading found it. -/
def stackRead (s : State) (l : Nat) (d1 d2 : Damage) : State × Bool :=
  let c := lineChan l
  let era := erasures s c
  let e1 := lineErr s l ^^^ d1
  let e2 := lineErr s l ^^^ d2
  if fbit s F.DEP_CH_STATUS_FAILED c then (noteUncorrectable s l, false)
  else
    match decodeDepot (strict s l) era e1 with
    | .clean x => (if x = 0 then s else repair s l x, true)
    | .corrected x => (noteCorrected (repair s l x) c (fixedSyms era e1), true)
    | .uncorrectable =>
      match decodeDepot (strict s l) era e2 with
      | .clean x => (noteCorrected (if x = 0 then s else repair s l x) c [], true)
      | .corrected x => (noteCorrected (repair s l x) c (fixedSyms era e2), true)
      | .uncorrectable => (noteUncorrectable (setLineErr s l e2) l, false)

/-! ## The cache (R168 to R171) -/

/-- The cache set of a line. -/
def lineSet (s : State) (l : Nat) : CacheSet := mget s.dep.cache (setOf (64 * l)) {}

/-- Replace the cache set of a line. -/
def setLineSet (s : State) (l : Nat) (c : CacheSet) : State :=
  { s with dep := { s.dep with cache := mput s.dep.cache (setOf (64 * l)) c {} } }

/-- The way that holds a line. -/
def findWay (c : CacheSet) (l : Nat) : Option Nat :=
  (List.range 16).find? (fun w => match mget c.ways w none with | some y => y.line == l | none => false)

/-- Whether the cache holds a line, and whether it holds it dirty. -/
def cached (s : State) (l : Nat) : Bool := (findWay (lineSet s l) l).isSome
def cachedDirty (s : State) (l : Nat) : Bool :=
  match findWay (lineSet s l) l with
  | some w => (match mget (lineSet s l).ways w none with | some y => y.dirty | none => false)
  | none => false

/-- The pseudo-LRU tree after a use of way w: every node on the path points away from it. Log entry 37 (DESIGN CHOICE). -/
def plruTouch (p w : Nat) : Nat :=
  ((List.range 4).foldl (fun (a : Nat × Nat) k =>
    let b := bitAt w (3 - k)
    (setBit a.1 a.2 (!b), 2 * a.2 + 1 + (if b then 1 else 0))) (p, 0)).1

/-- The way the tree points to among the allowed ones: at each node the pointed side, unless it has no allowed way. Log entry 37 (DESIGN CHOICE). -/
def plruVictim (p : Nat) (ok : Nat → Bool) : Nat → Nat → Nat → Option Nat
  | 0, _, lo => guardOpt (ok lo) lo
  | k + 1, node, lo =>
    let a := if bitAt p node then plruVictim p ok k (2 * node + 2) (lo + 2 ^ k) else plruVictim p ok k (2 * node + 1) lo
    match a with
    | some w => some w
    | none => if bitAt p node then plruVictim p ok k (2 * node + 1) lo else plruVictim p ok k (2 * node + 2) (lo + 2 ^ k)

/-- Note a use of a cached line, and whether it was written. -/
def touch (s : State) (l : Nat) (write : Bool) : State :=
  let c := lineSet s l
  match findWay c l with
  | none => s
  | some w =>
    let y : Way := (mget c.ways w none).getD ⟨l, false⟩
    setLineSet s l { ways := mput c.ways w (some { y with dirty := y.dirty || write }) none, plru := plruTouch c.plru w }

/-- The damage of a line's cache copy, and its update. -/
def copyErr (s : State) (l : Nat) : Damage := mget s.dep.cerr l 0
def setCopyErr (s : State) (l : Nat) (e : Damage) : State := { s with dep := { s.dep with cerr := mput s.dep.cerr l e 0 } }

/-- Drop a line from the cache. -/
def dropCached (s : State) (l : Nat) : State :=
  let c := lineSet s l
  match findWay c l with
  | none => s
  | some w => setCopyErr (setLineSet s l { c with ways := mput c.ways w none none }) l 0

/-- A cache copy is written back to its stack, `d` being the damage it has met (R157, R171): poisoned where it cannot be
corrected. -/
def writeBack (s : State) (l : Nat) (d : Damage) : State :=
  match decodeDepot (strict s l) [] d with
  | .clean x => repair s l x
  | .corrected x => fcount (repair s l x) F.DEP_CORR_COUNT (lineHalf l).num 1
  | .uncorrectable => noteLost (setLineErr (setDepLine s l (depLine s l ^^^ ErrPat.data d)) l poisonPat) l

/-- Whether an operation on a line is in service: it waits for the line's stack read or for a recall. -/
def inService (s : State) (l : Nat) : Bool :=
  s.dep.fills.any (fun o => o.line == l) || s.dep.recalls.any (fun r => r.ops.any (fun o => o.line == l))

/-- The combining queue of a line. -/
def hotOf (s : State) (l : Nat) : Option HotQueue := s.dep.hot.find? (fun q => q.line == l)

/-- Allocate a line (R169, R170): an empty way, else the tree's victim among the ways that are not reserved and whose line
has no operation in service and no combining queue. `d` is the damage the victim's cache copy has met. -/
def allocate (s : State) (l : Nat) (d : Damage) : State :=
  let c := lineSet s l
  if (findWay c l).isSome then s
  else
    let n := 16 - fget s F.DEP_CFG_QWAYS (lineHalf l).num
    let ok : Nat → Bool := fun w => decide (w < n) && (match mget c.ways w none with
      | none => true
      | some y => !inService s y.line && (hotOf s y.line).isNone)
    let put : State → Nat → State := fun s w =>
      let c := lineSet s l
      setLineSet s l { ways := mput c.ways w (some ⟨l, false⟩) none, plru := plruTouch c.plru w }
    match (List.range n).find? (fun w => (mget c.ways w none).isNone) with
    | some w => put s w
    | none =>
      match plruVictim c.plru ok 4 0 0 with
      | none => s
      | some w =>
        match mget c.ways w none with
        | some y => put (setCopyErr (if y.dirty then writeBack s y.line (d ^^^ copyErr s y.line) else s) y.line 0) w
        | none => put s w

/-! ## The home operations (R173 to R176) -/

/-- Signed comparison of w-byte words. -/
def sLt (w a b : Nat) : Bool := decide (sext a (8 * w) < sext b (8 * w))

/-- The marker of a saturated exact accumulate. -/
def satMark : Nat := 0x80000000

/-- Whether an exact accumulate saturates now (R176). -/
def accSaturates (old x : Nat) : Bool :=
  let t := sext old 32 + sext x 32
  old != satMark && (decide (t < -(2 ^ 31 - 1)) || decide (2 ^ 31 - 1 < t))

/-- Whether an operation writes its whole line. -/
def LineOp.whole (o : LineOp) : Bool := (o.op == .store || o.op == .poison) && o.width == 64

/-- The new value of the word (R173). -/
def homeNew (op : HomeOp) (w old x cmp : Nat) : Nat :=
  match op with
  | .load | .rdShared | .rdOwn | .poison => old
  | .store | .swap => x
  | .add => (old + x) % 2 ^ (8 * w)
  | .min => if sLt w x old then x else old
  | .max => if sLt w old x then x else old
  | .xor => Nat.xor old x
  | .cas => if old = cmp then x else old
  | .acc => if old = satMark || accSaturates old x then satMark else (old + x) % 2 ^ 32
  | .fadd => fAdd old x

/-- Whether an operation takes a home sequence number (R175). -/
def HomeOp.numbered : HomeOp → Bool
  | .load | .rdShared | .rdOwn => false
  | _ => true

/-- The part of the shunter's command region that a depot address lies in, as half and job slot (R280). -/
def shnPart (s : State) (d : Nat) : Option (Half × Nat) :=
  let b := fget s F.DEP_SHN_QBASE_ADDR * 0x80000
  guardOpt (fbit s F.DEP_SHN_STATUS_READY && decide (b ≤ d) && decide (d < b + 0x80000))
    (Half.ofNum ((d - b) / 0x40000), (d - b) / 0x1000 % 64)

/-- Line `i` of a WRITE is performed: one that lies in the command region is a shunter command, in the order in which the home slices
perform the writes (R25, R280), whatever befalls the WRITE's other lines. -/
def commandWritten (s : State) (id i : Nat) : State :=
  match s.fab.prog.find? (fun p => p.id == id) with
  | none => s
  | some p =>
    if p.req.op ≠ 5 then s
    else match shnPart s (p.addr + 64 * i) with
      | some x => { s with shn := { s.shn with arrived := s.shn.arrived ++ [⟨x.1, x.2, p.req.job, p.req.data.getD i 0⟩] } }
      | none => s

/-- Answer a line operation: a home row through the outbox, a request part in its request. -/
def answer (s : State) (o : LineOp) (a : Ans) : State :=
  match o.who with
  | .row tag => send s (.home tag a)
  | .part id i =>
    let s := if a.status = 0 then commandWritten s id i else s
    { s with fab := { s.fab with prog := s.fab.prog.map (fun p => if p.id = id then { p with got := mput p.got i (some a) none } else p) } }
  | .none => s

/-- The companion is granted a line (R172, R483). -/
def enterDir (s : State) (l : Nat) (owned : Bool) : State :=
  let d := s.dep
  { s with dep := { d with
      dir := d.dir.filter (fun e => e.line != l) ++ [⟨l, owned, d.dirClock⟩], dirClock := d.dirClock + 1,
      closed := d.closed.filter (· != l) } }

/-- Perform an operation on a line whose contents are at hand, and answer it. -/
def perform (s : State) (o : LineOp) : State :=
  let h := homeHalf o.addr
  let old := depRead s o.addr o.width
  let new := homeNew o.op o.width old (o.operand % 2 ^ (8 * o.width)) (o.compare % 2 ^ (8 * o.width))
  let s := if o.op == .acc && accSaturates old (o.operand % 2 ^ 32) then
      emitLim (fcount s F.DEP_ACC_SAT_COUNT h.num 1) h unitDep 0x0206 h.num ms [(o.addr, 36)]
    else s
  let s := if o.op.numbered then depWrite s o.addr new o.width else s
  let s := touch s o.line o.op.numbered
  let sl := sliceOf o.addr
  let n := seqNext (mget s.dep.hseq sl 0)
  let s := if o.op.numbered then { s with dep := { s.dep with hseq := mput s.dep.hseq sl n 0 } } else s
  let s := match o.op with
    | .rdShared => enterDir s o.line false
    | .rdOwn => enterDir s o.line true
    | .poison => setLineErr (dropCached s o.line) o.line poisonPat
    | _ => s
  answer s o ⟨0, if o.op = .store then 0 else old, guardOpt o.op.numbered n, 0⟩

/-- A whole-line store of a line the cache does not hold goes to its stack without a fill (R169), and ends its damage. -/
def performLine (s : State) (o : LineOp) : State := perform (setLineErr s o.line 0) o

/-- Whether an operation can run without a stack read. -/
def noFill (s : State) (o : LineOp) : Bool := cached s o.line || o.whole

/-- Whether the channel of a line holds its requests (R161). -/
def chanWaits (s : State) (l : Nat) : Bool := fbit s F.DEP_CH_STATUS_RETRAINING (lineChan l)

/-- A cache copy takes damage; the next operation that reads the copy meets it. Log entry 151 (DESIGN CHOICE). -/
def hitCopy (s : State) (l : Nat) (d : Damage) : State :=
  if cached s l && d != 0 then setCopyErr s l (copyErr s l ^^^ d) else s

/-- Damage of the cache copy met on a read (R171): corrected and counted, a clean copy dropped, a dirty one lost and written
back poisoned. Log entry 141 (DEDUCED). -/
def cacheDamage (s : State) (l : Nat) : State :=
  let d := copyErr s l
  if d = 0 || !cached s l then s
  else
    match decodeDepot (strict s l) [] d with
    | .clean x => setCopyErr (setDepLine s l (depLine s l ^^^ x)) l 0
    | .corrected x => setCopyErr (fcount (setDepLine s l (depLine s l ^^^ x)) F.DEP_CORR_COUNT (lineHalf l).num 1) l 0
    | .uncorrectable =>
      if cachedDirty s l then dropCached (writeBack s l d) l
      else fcount (dropCached s l) F.DEP_CORR_COUNT (lineHalf l).num 1

/-- Serve an operation whose turn it is: from the cache, whose copy it reads unless it replaces the whole line, straight to the stack,
or by waiting for the stack read. -/
def serveNow (s : State) (o : LineOp) : State :=
  let s := if o.whole then setCopyErr s o.line 0 else cacheDamage s o.line
  if cached s o.line then perform s o
  else if o.whole && !chanWaits s o.line then performLine s o
  else { s with dep := { s.dep with fills := s.dep.fills ++ [o] } }

/-! ## The companion's directory (R172, R484) -/

/-- The companion's entry for a line. -/
def dirEntry (s : State) (l : Nat) : Option DirEntry := s.dep.dir.find? (fun e => e.line == l)

/-- The recall that an operation needs on its own line: `some keep`. -/
def recallFor (s : State) (o : LineOp) : Option Bool :=
  match dirEntry s o.line with
  | none => none
  | some e =>
    if o.op.numbered then some false
    else if o.op == .rdOwn then none
    else if e.owned then some true else none

/-- The directory set of a line: 128 sets of 16 ways per slice. Log entry 38 (DESIGN CHOICE). -/
def dirSet (l : Nat) : Nat := sliceOf (64 * l) * 128 + halfOff (64 * l) / 64 / 512 % 128

/-- Grants of a directory set that wait for their line's stack read, each of which will take an entry. -/
def grantsDue (s : State) (o : LineOp) : Nat :=
  (s.dep.fills.filter (fun x => (x.op == .rdShared || x.op == .rdOwn) && dirSet x.line == dirSet o.line && x.line != o.line &&
    (dirEntry s x.line).isNone)).length

/-- The line to recall before a grant, where its directory set is full (R172): the least recently granted. Log entry 38 (DESIGN CHOICE). -/
def dirVictim (s : State) (o : LineOp) : Option Nat :=
  if (o.op == .rdShared || o.op == .rdOwn) && (dirEntry s o.line).isNone then
    let es := s.dep.dir.filter (fun e => dirSet e.line == dirSet o.line)
    if 16 ≤ es.length + grantsDue s o then
      (es.foldl (fun (a : Option DirEntry) e => match a with
        | none => some e
        | some b => if e.stamp < b.stamp then some e else some b) none).map (·.line)
    else none
  else none

/-- An operation waits for a recall of a line; a recall of that line already in progress serves it too. -/
def waitRecall (s : State) (l : Nat) (keep : Bool) (o : LineOp) : State :=
  let d := s.dep
  if d.recalls.any (fun r => r.line == l) then
    { s with dep := { d with recalls := d.recalls.map (fun r => if r.line = l then { r with ops := r.ops ++ [o] } else r) } }
  else { s with dep := { d with recalls := d.recalls ++ [⟨none, l, keep, [o]⟩] } }

/-- Serve an operation, after a recall where the companion holds the line. -/
def serve (s : State) (o : LineOp) : State :=
  match recallFor s o with
  | some keep => waitRecall s o.line keep o
  | none =>
    match dirVictim s o with
    | some l => waitRecall s l false o
    | none => serveNow s o

/-- A recall is closed: the entry is cleared or kept shared, and the waiting operations proceed (R485, R486). -/
def closeRecall (s : State) (r : Recall) : State :=
  let d := s.dep
  let s := { s with dep := { d with
    recalls := d.recalls.filter (fun x => x.line != r.line)
    dir := if r.keep then d.dir.map (fun e => if e.line = r.line then { e with owned := false } else e)
      else d.dir.filter (fun e => e.line != r.line) } }
  r.ops.foldl serve s

/-! ## Hot lines and refusals (R177 to R180) -/

/-- The service slot: 3 waves, 2 ns at nominal (R178). Log entry 42 (DESIGN CHOICE). -/
def svcNs : Nat := 2

/-- A delay in units of 8 ns, rounded up, and 1 µs in them. Log entry 42 (DESIGN CHOICE). -/
def delayUnits (ns : Nat) : Nat := (ns + 7) / 8
def oneMicro : Nat := 125

/-- Whether a request in progress will take a place among the retained responses of a half. -/
def willRetain (h : Half) (p : InProg) : Bool :=
  match p.tgt with
  | .remote src _ _ => !p.lost && Half.ofNum src == h
  | _ => false

/-- The pool of retained responses of a half (R170, R212, R180): responses of its stream halves, those of the requests taken and not
yet answered, and block records of its slices. Log entry 142 (DEDUCED). -/
def poolUsed (s : State) (h : Half) : Nat :=
  ((s.fab.rx.filter (fun r => Half.ofNum r.src == h)).map (fun r => r.retained.length)).sum
    + (s.fab.prog.filter (willRetain h)).length
    + (s.dep.blocks.filter (fun b => !b.closure && lineHalf b.line == h)).length
def poolSize : Nat := 65536
def poolHasRoom (s : State) (h : Half) : Bool := decide (poolUsed s h < poolSize)

/-- The block of a stream on a line, and whether the line is closed. -/
def blockOf (s : State) (st : Nat × Nat) (l : Nat) : Option Block :=
  s.dep.blocks.find? (fun b => b.src == st.1 && b.job == st.2 && b.line == l)
def lineClosed (s : State) (l : Nat) : Bool := s.dep.blocks.any (fun b => b.closure && b.line == l)

/-- Closure records of a slice; at 256 it takes no further request. -/
def closureFull (s : State) (d : Nat) : Bool :=
  decide (256 ≤ (s.dep.blocks.filter (fun b => b.closure && sliceOf (64 * b.line) == sliceOf d)).length)

/-- Place a block record: in the closure store of a closed line or where the pool has no room, which closes the line. -/
def placeBlock (s : State) (st : Nat × Nat) (l origin : Nat) : State :=
  let h := lineHalf l
  let cl := lineClosed s l || !poolHasRoom s h
  let s := if cl && !lineClosed s l then emitLim s h unitDep 0x0207 h.num ms [(64 * l, 36)] else s
  { s with dep := { s.dep with blocks := s.dep.blocks ++ [⟨st.1, st.2, l, origin, cl⟩] } }

/-- The delay a refusal carries: booked where the line has a combining queue (R179), else 1 µs. Log entry 42 (DESIGN CHOICE). -/
def bookDelay (s : State) (l : Nat) : State × Nat :=
  match hotOf s l with
  | none => (s, oneMicro)
  | some q =>
    let t := now s (lineHalf l)
    let b := if q.booked < t then t + q.entries.length * svcNs else q.booked
    ({ s with dep := { s.dep with hot := s.dep.hot.map (fun x => if x.line = l then { x with booked := b + svcNs } else x) } },
      delayUnits (b - t))

/-- Refuse an operation with RETRY_AFTER: the refusal is counted, and the stream is blocked on the line. -/
def refuseWith (s : State) (o : LineOp) (delay : Nat) : State :=
  let s := fcount s F.DEP_HOT_REFUSED_COUNT (homeHalf o.addr).num 1
  let s := match o.stream with
    | some st => if (blockOf s st o.line).isSome then s else placeBlock s st o.line o.origin
    | none => s
  answer s o ⟨7, 0, none, delay⟩

/-- Refuse with the booked delay. -/
def refuse (s : State) (o : LineOp) : State :=
  let p := bookDelay s o.line
  refuseWith p.1 o p.2

/-- Whether R180 refuses an operation: a closed line, or a block of its stream that it does not lift. -/
def blocked (s : State) (o : LineOp) : Bool :=
  lineClosed s o.line ||
    (match o.stream with
     | none => false
     | some st => match blockOf s st o.line with
       | none => false
       | some b => !(o.rp && o.origin == b.origin))

/-- Lift the block of an accepted operation. -/
def liftBlock (s : State) (o : LineOp) : State :=
  match o.stream with
  | none => s
  | some st => { s with dep := { s.dep with blocks := s.dep.blocks.filter (fun b => !(b.src == st.1 && b.job == st.2 && b.line == o.line)) } }

/-- Combining queues of a slice, and of a half. -/
def hotInSlice (s : State) (d : Nat) : Nat := (s.dep.hot.filter (fun q => sliceOf (64 * q.line) == sliceOf d)).length
def hotInUse (s : State) (h : Half) : Nat := (s.dep.hot.filter (fun q => lineHalf q.line == h)).length

/-- Give a line a combining queue. -/
def giveQueue (s : State) (l : Nat) : State :=
  let h := lineHalf l
  let s := { s with dep := { s.dep with hot := s.dep.hot ++ [⟨l, [], 0⟩] } }
  let n := hotInUse s h
  if fget s F.DEP_HOT_STATUS_PEAK h.num < n then fset s F.DEP_HOT_STATUS_PEAK h.num n else s

/-- Enter a line's combining queue, or be refused where it is full. -/
def enqueueHot (s : State) (o : LineOp) : State :=
  match hotOf s o.line with
  | none => s
  | some q =>
    if 64 ≤ q.entries.length then refuse s o
    else
      let s := liftBlock s o
      { s with dep := { s.dep with hot := s.dep.hot.map (fun x => if x.line = o.line then { x with entries := x.entries ++ [o] } else x) } }

/-- An operation waits at its slice's input. -/
def stall (s : State) (o : LineOp) : State := { s with dep := { s.dep with stalled := s.dep.stalled ++ [o] } }

/-- Whether a unit's own write, which no answer could send back, waits instead of being refused. Log entry 151 (DESIGN CHOICE). -/
def unitWaits (s : State) (o : LineOp) : Bool :=
  o.who == .none && (lineClosed s o.line || (match hotOf s o.line with
    | some q => decide (64 ≤ q.entries.length)
    | none => inService s o.line && decide (8 ≤ hotInSlice s o.addr)))

/-- Whether the slice would refuse an operation (R177, R180). -/
def wouldRefuse (s : State) (o : LineOp) : Bool :=
  blocked s o || (match hotOf s o.line with
    | some q => decide (64 ≤ q.entries.length)
    | none => inService s o.line && decide (8 ≤ hotInSlice s o.addr))

/-- An operation reaches its slice (R174, R177, R180, R212). A duplicate READ that is refused leaves nothing behind (R215). -/
def arrive (s : State) (o : LineOp) : State :=
  if closureFull s o.addr || unitWaits s o then stall s o
  else if o.again && wouldRefuse s o then answer s o ⟨7, 0, none, oneMicro⟩
  else if o.noRoom || blocked s o then refuse s o
  else if (hotOf s o.line).isSome then enqueueHot s o
  else if inService s o.line then
    if hotInSlice s o.addr < 8 then enqueueHot (giveQueue s o.line) o
    else
      let h := homeHalf o.addr
      refuseWith (emitLim s h unitDep 0x0207 h.num ms [(64 * o.line, 36)]) o oneMicro
  else serve (liftBlock s o) o

/-- The operations that wait at their slices' inputs go on where they can, in order. -/
def restart (s : State) : State := s.dep.stalled.foldl arrive { s with dep := { s.dep with stalled := [] } }

/-- A stack read completes for the operation in service on a line (R156, R169). -/
def fillDone (s : State) (l : Nat) (d1 d2 dv : Damage) : State :=
  match s.dep.fills.find? (fun o => o.line == l) with
  | none => s
  | some o =>
    if chanWaits s l then s
    else
      let s1 := { s with dep := { s.dep with fills := s.dep.fills.filter (fun x => x != o) } }
      if o.whole then performLine s1 o
      else
        let r := stackRead s1 l d1 d2
        if !r.2 then answer r.1 o ⟨6, 0, none, 0⟩
        else perform (if o.alloc then allocate r.1 l dv else r.1) o

/-- Whether two consecutive entries share a slot (R178). -/
def sharesSlot (a b : LineOp) : Bool :=
  a.op == b.op && (a.op == .add || a.op == .xor || a.op == .acc) && a.addr == b.addr && a.width == b.width

/-- The entries that a service slot takes. -/
def slotEntries (q : List LineOp) : List LineOp :=
  match q with
  | [] => []
  | a :: r => a :: (r.takeWhile (sharesSlot a)).take 7

/-- A service slot of a hot line (R178); nothing is served while an operation on the line is in service. -/
def hotSlot (s : State) (l : Nat) : State :=
  match hotOf s l with
  | none => s
  | some q =>
    if inService s l then s
    else
      let es := match slotEntries q.entries with
        | [] => []
        | a :: r => if (recallFor s a).isNone && (dirVictim s a).isNone && noFill s a then a :: r else [a]
      let s := { s with dep := { s.dep with hot := s.dep.hot.map (fun x => if x.line = l then { x with entries := x.entries.drop es.length } else x) } }
      restart (es.foldl serve (fcount s F.DEP_HOT_OPS_COUNT (lineHalf l).num es.length))

/-- A combining queue that has stood empty is released (R177). -/
def hotRelease (s : State) (l : Nat) : State :=
  match hotOf s l with
  | none => s
  | some q =>
    if q.entries = [] ∧ inService s l = false then
      restart { s with dep := { s.dep with hot := s.dep.hot.filter (fun x => x.line != l) } }
    else s

/-- Move a closure record of a half's slices into the pool once it has room, the oldest first; the slice then takes the
requests that waited (R180). -/
def closureMove (s : State) (h : Half) : State :=
  if !poolHasRoom s h then s
  else
    match s.dep.blocks.find? (fun b => b.closure && lineHalf b.line == h) with
    | none => s
    | some b =>
      let d := s.dep
      let moved := d.blocks.filter (fun x => x != b)
      restart { s with dep := { d with blocks := moved ++ [{ b with closure := false }] } }

/-- The symbol whose via a retrain's test names: via 0 to 71 carries its own, spare 72 + n the one it was switched in for; none
where the via is not in service. -/
def viaSym (s : State) (c v : Nat) : Option Nat :=
  if v < 72 then guardOpt (carrier s c v == v) v
  else if fbit s (spareValid (v - 72)) c then guardOpt (carrier s c (fget s (spareVia (v - 72)) c) == v) (fget s (spareVia (v - 72)) c)
  else none

/-- A live retrain ends (R161): vias in service that its test failed take spares or enter the erasure list; writes that waited for the
channel go on. Log entry 40 (DEDUCED). -/
def retrainDone (s : State) (c : Nat) (failed : List Nat) : State :=
  if !fbit s F.DEP_CH_STATUS_RETRAINING c then s
  else
    let s := fset s F.DEP_CH_STATUS_RETRAINING c 0
    let s := fset s F.DEP_STATUS_RETRAINING (c / 192) (fget s F.DEP_STATUS_RETRAINING (c / 192) - 1)
    let s := failed.foldl (fun s v => match viaSym s c v with
      | some y =>
        if (erasures s c).contains y || fbit s F.DEP_CH_STATUS_FAILED c then s
        else failVia s c y (mget s.dep.symHits (c * 72 + y) []).length
      | none => s) s
    let w := s.dep.fills.filter (fun o => lineChan o.line == c && o.whole)
    w.foldl performLine { s with dep := { s.dep with fills := s.dep.fills.filter (fun o => !w.contains o) } }

/-- Clear the depot counters of a half (R186). -/
def depCntClr (s : State) (h : Half) : State :=
  fset (fset (fset (fset s F.DEP_CORR_COUNT h.num 0) F.DEP_UNCORR_COUNT h.num 0) F.DEP_HOT_OPS_COUNT h.num 0) F.DEP_HOT_REFUSED_COUNT h.num 0

/-- Lines of a half. -/
def halfLines : Nat := halfSize / 64

/-- A scrub pass starts or restarts (R163). -/
def scrubNow (s : State) (h : Half) : State := { s with dep := { s.dep with scrub := mput s.dep.scrub h.num 0 0 } }

/-- The scrubber reads its next line (R163); a line with a newer dirty copy is skipped, a line of a retraining channel waits. -/
def scrubAccess (s : State) (h : Half) (d1 d2 : Damage) : State :=
  let p := mget s.dep.scrub h.num 0
  let l := p + h.num * halfLines
  if chanWaits s l then s
  else
    let r := (stackRead s l d1 d2).1
    let s := if cachedDirty s l then s
      else if cached s l && depLine r l != depLine s l then setLineErr (setDepLine r l (depLine s l)) l (lineErr s l ^^^ d1)
      else r
    if p + 1 < halfLines then { s with dep := { s.dep with scrub := mput s.dep.scrub h.num (p + 1) 0 } }
    else fcount { s with dep := { s.dep with scrub := mput s.dep.scrub h.num 0 0 } } F.DEP_SCRUB_PASSES h.num 1

/-! ## The device's own units

The cue engine, the stationmaster, the log writer, the security core and the dispatchers reach lines of the depot at their home slices
like any requester (R156, R169). -/

/-- What a unit reads as a line: the cache's copy, else the stack's where it can be corrected; none where it cannot. -/
def unitLine (s : State) (l : Nat) : Option Line :=
  if cached s l then some (depLine s l)
  else if fbit s F.DEP_CH_STATUS_FAILED (lineChan l) then none
  else match decodeDepot (strict s l) (erasures s (lineChan l)) (lineErr s l) with
    | .clean x | .corrected x => some (depLine s l ^^^ x)
    | .uncorrectable => none

/-- A unit's read of a line: a single access, which fills and allocates on a miss (R169), with what a stack read reports and repairs
(R156). Log entry 151 (DESIGN CHOICE). -/
def unitRead (s : State) (l : Nat) : State × Option Line :=
  let s := cacheDamage s l
  if cached s l then (touch s l false, unitLine s l)
  else
    let r := stackRead s l 0 0
    (if r.2 then allocate r.1 l 0 else r.1, unitLine s l)

/-- A unit's read of consecutive lines. -/
def unitReads : Nat → Nat → State → State × List (Option Line)
  | 0, _, s => (s, [])
  | n + 1, l, s =>
    let r := unitRead s l
    let q := unitReads n (l + 1) r.1
    (q.1, r.2 :: q.2)

/-- A unit's write of `n` bytes inside a line, as its home slice takes it (R169, R172, R175). Log entry 151 (DESIGN CHOICE). -/
def unitStore (s : State) (a v n : Nat) : State :=
  arrive s {
    op := .store, addr := a, width := n, operand := v, compare := 0, alloc := decide (n < 64), stream := none, origin := 0, rp := false,
    who := .none }

/-! ## Bands (R164, R165) -/

/-- The refresh window in ms and the beat interval in 0.1 ps of a band. -/
def bandRefresh (b : Nat) : Nat := if b < 3 then 32 else if b = 3 then 16 else 8
def bandBeat (b : Nat) : Nat := if b < 3 then 512 else if b = 3 then 563 else 640

/-- Training applies the band of the half's hottest block (R185). -/
def bandAtTraining (s : State) (h b : Nat) : State :=
  fset (fset (fset s F.DEP_BAND_BAND h b) F.DEP_BAND_BEAT h (bandBeat b)) F.DEP_BAND_REFRESH_MS h (bandRefresh b)

/-- The half's band changes (R165): the new beat interval at once, a new refresh window later. Before training the reset values
stand (R185). Log entry 41 (DEDUCED). -/
def depBand (s : State) (h : Half) (b : Nat) : State :=
  let old := fget s F.DEP_BAND_BAND h.num
  if old = b || !fbit s F.DEP_STATUS_READY h.num then s
  else
    let s := fset (fset s F.DEP_BAND_BAND h.num b) F.DEP_BAND_BEAT h.num (bandBeat b)
    let s := { s with dep := { s.dep with bandWant := mput s.dep.bandWant h.num (bandRefresh b, now s h) (0, 0) } }
    emit s h unitDep 0x0208 [(old, 3), (b, 3)]

/-- A refresh command (R165): a shorter window applies now, a longer one after a full pass at the shorter one. Log entry 41 (DEDUCED). -/
def refresh (s : State) (h : Half) : State :=
  let w := mget s.dep.bandWant h.num (0, 0)
  let cur := fget s F.DEP_BAND_REFRESH_MS h.num
  if w.1 = 0 then s
  else if w.1 ≤ cur || decide (w.2 + cur * ms ≤ now s h) then
    fset { s with dep := { s.dep with bandWant := mput s.dep.bandWant h.num (0, 0) (0, 0) } } F.DEP_BAND_REFRESH_MS h.num w.1
  else s

end Sys2Proof.Machine
end

