-- ==== Sys2Proof/Machine/Lanes.lean ====
section
/-!
DEFINITION. Lanes and their framing (R294 to R298): how a code block is striped over the live lanes and scrambled, the
marker, and a lane's good mask.
-/

namespace Sys2Proof.Machine

/-! ## Framing (R295, R296) -/

/-- The lanes of a mask, in ascending order. -/
def maskLanes (m : Nat) : List Nat := bitList m 8

/-- Byte i of a code block travels on live position i mod w, as byte i div w of that lane's share. -/
def byteLane (live i : Nat) : Option (Nat × Nat) :=
  let ls := maskLanes live
  match ls.length with
  | 0 => none
  | w + 1 => (ls[i % (w + 1)]?).map (fun n => (n, i / (w + 1)))

/-- One step of the PRBS31 generator x^31 + x^28 + 1: the bit it gives, and the next state. -/
def prbsStep (v : Nat) : Nat × Nat :=
  let b := (if bitAt v 30 then 1 else 0 : Nat).xor (if bitAt v 27 then 1 else 0)
  (b, v * 2 % 2 ^ 31 + b)

/-- The first `n` bits of the scrambling sequence of a frame, from slot 1 on, seeded with all ones. -/
def prbsBits : Nat → Nat → List Nat
  | 0, _ => []
  | n + 1, v => (prbsStep v).1 :: prbsBits n (prbsStep v).2
def scramble (n : Nat) : List Nat := prbsBits n (2 ^ 31 - 1)

/-- A block of R153: 64 data bytes and their 8 check bytes, which are what erasure decoding finds for them. -/
def codeBlock (f : Line) : ErrPat :=
  let d : ErrPat := f.setWidth 576
  d ^^^ patOf (corrections (syndromes d) ((List.range 8).map (64 + ·)))

/-- Bytes of a lane's share of a slot over `w` live lanes. -/
def shareLen (w : Nat) : Nat := if w = 0 then 9 else 72 / w

/-- The bytes of a block that live position j of w carries. -/
def blockShare (b : ErrPat) (w j : Nat) : List Nat := (List.range (shareLen w)).map (fun k => symAt b (k * w + j))

/-- The scrambling bytes of flit slot k, `n` bytes to the slot: the sequence's first bit meets a byte's bit 0. Log entry 158 (DESIGN
CHOICE). -/
def scrambleBytes (k n : Nat) : List Nat :=
  let bs := (scramble (8 * n * k)).drop (8 * n * (k - 1))
  (List.range n).map (fun i => (((bs.drop (8 * i)).take 8).zipIdx.map (fun b => b.1 * 2 ^ b.2)).sum)

/-- The PAM4 level of a bit pair, and the four symbols of a byte from bits [1:0] up. -/
def grayLevel (b : Nat) : Nat := match b with | 0 => 0 | 1 => 1 | 3 => 2 | _ => 3
def pam4 (byte : Nat) : List Nat := (List.range 4).map (fun i => grayLevel (bitsAt byte (2 * i) 2))

/-- The symbols of a lane's bytes: PAM4 levels, or on a signal port bits, the least significant first (R296). -/
def symbols (sig : Bool) (bytes : List Nat) : List Nat :=
  if sig then bytes.flatMap (fun b => (List.range 8).map (fun i => bitsAt b i 1)) else bytes.flatMap pam4

/-! ## Markers (R297) -/

/-- CRC-8 over bits [63:0], the first bit sent first: polynomial x^8 + x^2 + x + 1, initial value 0. -/
def crc8Step (c b : Nat) : Nat :=
  let t := Nat.xor (c / 128) b
  let d := c * 2 % 256
  if t = 1 then Nat.xor d 7 else d
def crc8 (v : Nat) : Nat :=
  (List.range 8).foldl (fun c k => (List.range 8).foldl (fun c i => crc8Step c (bitsAt v (8 * k + 7 - i) 1)) c) 0

/-- Marker fields. -/
def mkSync (m : BitVec 72) : Nat := bitsAt m.toNat 0 8
def mkLane (m : BitVec 72) : Nat := bitsAt m.toNat 8 3
def mkPwrLane (m : BitVec 72) : Nat := bitsAt m.toNat 11 3
def mkS (m : BitVec 72) : Nat := bitsAt m.toNat 14 1
def mkRqp (m : BitVec 72) : Bool := bitAt m.toNat 15
def mkDevice (m : BitVec 72) : Nat := bitsAt m.toNat 16 16
def mkPort (m : BitVec 72) : Nat := bitsAt m.toNat 32 5
def mkRxMask (m : BitVec 72) : Nat := bitsAt m.toNat 37 8
def mkNext (m : BitVec 72) : Nat := bitsAt m.toNat 45 8
def mkRxPwr (m : BitVec 72) : Nat := bitsAt m.toNat 53 10
def mkPrb (m : BitVec 72) : Bool := bitAt m.toNat 63

/-- A marker counts unless its SYNC or CRC is wrong. Log entry 62 (DESIGN CHOICE). -/
def mkValid (m : BitVec 72) : Bool := mkSync m == 0xB3 && crc8 (bitsAt m.toNat 0 64) == bitsAt m.toNat 64 8

/-- A marker with the given fields. -/
def mkMarker (lane pwrLane : Nat) (sig rqp : Bool) (dev port rxMask next rxPwr : Nat) (prb : Bool) : BitVec 72 :=
  let v := 0xB3 + lane % 8 * 2 ^ 8 + pwrLane % 8 * 2 ^ 11 + (if sig then 2 ^ 14 else 0) + (if rqp then 2 ^ 15 else 0) + dev % 65536 * 2 ^ 16
    + port % 32 * 2 ^ 32 + rxMask % 256 * 2 ^ 37 + next % 256 * 2 ^ 45 + rxPwr % 1024 * 2 ^ 53 + (if prb then 2 ^ 63 else 0)
  BitVec.ofNat 72 (v + crc8 v * 2 ^ 64)

/-- A lane's share of a marker slot: the marker, then bytes 0x00. -/
def markerShare (m : BitVec 72) (w : Nat) : List Nat := (List.range (shareLen w)).map (fun i => if i < 9 then bitsAt m.toNat (8 * i) 8 else 0)

/-! ## Lanes (R298) -/

/-- The half of a port or of a chiplet (R18). -/
def portHalf (p : Nat) : Half := if p < 16 ∨ p = 32 then .up else .down

/-- A port's optics, and their update. -/
def oget (s : State) (p : Nat) : PortOpt := mget s.opt.ports p {}
def oset (s : State) (p : Nat) (o : PortOpt) : State := { s with opt := { s.opt with ports := mput s.opt.ports p o {} } }

/-- A lane of a port, and its update. -/
def laneOf (s : State) (p n : Nat) : LaneRx := mget (oget s p).lanes n {}
def setLaneRx (s : State) (p n : Nat) (l : LaneRx) : State :=
  oset s p { oget s p with lanes := mput (oget s p).lanes n l {} }

/-- A bit of a lane mask register. -/
def laneBit (s : State) (f : Fld) (p n : Nat) (b : Bool) : State := fset s f p (setBit (fget s f p) n b)

/-- A lane is excluded for a reason: out of the good mask, with event 0x0501 and the reason's place in R342's list; a further reason
only prolongs an exclusion (R298). Log entry 158 (DESIGN CHOICE). -/
def excludeLane (s : State) (p n why : Nat) : State :=
  let l := laneOf s p n
  if bitAt l.why why then s
  else
    let s := setLaneRx s p n { l with why := l.why + 2 ^ why, valid := 0 }
    let s := laneBit s F.PORT_LANES_RX_GOOD p n false
    if l.why % 32 ≠ 0 then s
    else emitLim s (portHalf p) unitOpt 0x0501 (p * 8 + n) ms [(p, 6), (n, 3), (why, 3)]

/-- A lane is restored. -/
def restoreLane (s : State) (p n : Nat) : State :=
  let s := setLaneRx s p n { laneOf s p n with why := 0 }
  let s := laneBit s F.PORT_LANES_RX_GOOD p n true
  emitLim s (portHalf p) unitOpt 0x0502 (p * 8 + n) ms [(p, 6), (n, 3)]

/-- The counter of corrected bytes of a lane (R335). -/
def laneCorr (n : Nat) : Fld :=
  if n < 4 then ⟨.PORT_LANE_CORR_LO, 16 * n, 16, .rc, .const 0, 0, 65535⟩ else ⟨.PORT_LANE_CORR_HI, 16 * (n - 4), 16, .rc, .const 0, 0, 65535⟩

/-- A ten-thousandth of a lane's bytes in 1 ms, rounded down: 106.25 GBd PAM4 native, half of it in UH1 mode (R294). Log entry 63 (DEDUCED). -/
def corrLimit (s : State) (p : Nat) : Nat := if 32 ≤ p then 332 else if fbit s F.PORT_STATUS_UH1 p then 1328 else 2656

/-- A corrected byte of a lane is counted; more than the limit within 1 ms exclude the lane. -/
def noteLaneCorr (s : State) (p n : Nat) : State :=
  let s := fcount s (laneCorr n) p 1
  let l := laneOf s p n
  let t := now s (portHalf p)
  let l := if l.winCnt = 0 ∨ l.winAt + ms ≤ t then { l with winAt := t, winCnt := 1 } else { l with winCnt := l.winCnt + 1 }
  let s := setLaneRx s p n l
  if corrLimit s p < l.winCnt then excludeLane s p n 3 else s

/-- The corrected symbols of a flit slot, each on its lane. Log entry 63 (DEDUCED). -/
def noteSlotCorr (s : State) (p : Nat) (err : Damage) : State :=
  (corrections (syndromes err) []).foldl (fun s c =>
    if c.2 = 0 then s
    else match byteLane (fget s F.PORT_LANES_RX_LIVE p) c.1 with
      | some x => noteLaneCorr s p x.1
      | none => s) s

end Sys2Proof.Machine
end

