-- ==== Sys2Proof/Machine/Link.lean ====
section
/-!
DEFINITION. The fabric link layer and routing (chapter 10): flits, link-level retry, credits, egress queues, route choice,
forwarding, MISS notices and the injection throttle.
-/

namespace Sys2Proof.Machine

/-! ## Links and ports -/

/-- The link of port p. -/
def lget (s : State) (p : Nat) : Link := mget s.links.link p {}

/-- Replace the link of port p. -/
def lset (s : State) (p : Nat) (l : Link) : State := { s with links := { s.links with link := mput s.links.link p l {} } }

/-- Whether a port is steering (R320). -/
def steering (s : State) (p : Nat) : Bool := fbit s F.PORT_STATUS_STEERING p

/-- Flits of a packet. -/
def Pkt.flits (k : Pkt) : Nat := 1 + k.data.length

/-- Flits queued and not yet sent, and sent and not yet acknowledged (`FAB_PORT_QUEUE`). -/
def Link.unsent (l : Link) : Nat := (l.queue.map Pkt.flits).sum
def Link.unackedFlits (l : Link) : Nat := (l.unacked.map (fun u => u.pkt.flits - u.done)).sum

/-- Flits that occupy the egress queue, which is also the retry buffer (R347). -/
def Link.load (l : Link) : Nat := l.unsent + l.unackedFlits

/-- The number of the oldest unacknowledged flit, of the next to send where there is none. -/
def Link.oldest (l : Link) : Nat := match l.unacked with | u :: _ => (u.seq + u.done) % 65536 | [] => l.txSeq

/-- Link sequence comparison (R347): R29 with 2^16 and 2^15. -/
def seqNewer16 (a b : Nat) : Bool :=
  let d := (BitVec.ofNat 16 a - BitVec.ofNat 16 b).toNat
  d != 0 && decide (d < 2 ^ 15)

/-! ## Credits (R354) -/

/-- Virtual channels in use. -/
def Link.channels (l : Link) : Nat := if l.direct then 8 else 4

/-- Credits granted for channel v, or for the shared pool (index 8); a switch-leaf port's odd channels take none (R353). -/
def grant (s : State) (l : Link) (v : Nat) : Nat :=
  if v = 8 then fget s F.FAB_CREDIT_SPACE - l.ded * l.channels else if !l.direct && v % 2 == 1 then 0 else l.ded

/-- Credits held toward the peer. -/
def credit (s : State) (l : Link) (v : Nat) : Nat := grant s l v - (mget l.used v 0 - mget l.freed v 0)

/-- The credit kind a packet can use: dedicated credits of its channel, or shared ones. -/
def creditKind (s : State) (l : Link) (vc n : Nat) : Option Bool :=
  if n ≤ credit s l vc then some false else if n ≤ credit s l 8 then some true else none

/-! ## The route header (R343) -/

/-- The route header of a head flit. -/
def routeHdr (k : Pkt) (vc : Nat) (sh : Bool) (crv crn ack : Nat) : Nat :=
  2 + k.tc * 4 + vc % 2 * 16 + (if k.ad then 32 else 0) + (if sh then 64 else 0) + k.data.length % 128 * 128
    + k.hops % 16 * 16384 + crv % 16 * 2 ^ 18 + crn % 1024 * 2 ^ 22 + k.dst % 65536 * 2 ^ 32 + ack % 65536 * 2 ^ 48

/-- A head flit. -/
def headFlit (k : Pkt) (vc : Nat) (sh : Bool) (crv crn ack : Nat) : Line :=
  BitVec.ofNat 512 (routeHdr k vc sh crv crn ack + k.hdr.toNat * 2 ^ 64)

/-- The last accepted number, as ACK carries it. -/
def Link.ack (l : Link) : Nat := (l.rxExp + 65535) % 65536

/-- What every control flit of a link carries: its acknowledgement and every cumulative count (R346). -/
def controlBase (l : Link) : Nat :=
  let cr := ((List.range 8).map (fun v => mget l.rxFreed v 0 % 2 ^ 32 * 2 ^ (64 + 32 * v))).sum
  1 + 9 * 2 ^ 18 + l.ack * 2 ^ 48 + cr + mget l.rxFreed 8 0 % 2 ^ 32 * 2 ^ 320

/-- A control flit with the NAK, REPLAY and SEQ fields given. -/
def controlFlit (l : Link) (nak replay : Bool) (seq : Nat) : Line :=
  BitVec.ofNat 512 (controlBase l + (if nak then 2 ^ 352 else 0) + (if replay then 2 ^ 353 else 0) + seq % 65536 * 2 ^ 368)

/-- A notice that a device or district is, or is no longer, unreachable through this link (R346, R362). -/
def missFlit (l : Link) (dist again : Bool) (id : Nat) : Line :=
  BitVec.ofNat 512 (controlBase l + 2 ^ 354 + (if dist then 2 ^ 355 else 0) + (if again then 2 ^ 356 else 0) + id % 65536 * 2 ^ 384)

/-- An idle flit that reports the count of credit kind v (R343, R354). -/
def idleFlit (l : Link) (v : Nat) : Line := BitVec.ofNat 512 (v % 16 * 2 ^ 18 + mget l.rxFreed v 0 % 1024 * 2 ^ 22 + l.ack * 2 ^ 48)

/-! ## Sending (R344, R356) -/

/-- The virtual channel of a packet on this link (R361). -/
def outVc (l : Link) (k : Pkt) : Nat :=
  let vin := match k.ring with
    | some (r, v) => if l.direct && r == l.ring then v else 0
    | none => 0
  let v := if l.direct && l.dateline then 1 else if l.direct then vin else 0
  2 * k.tc + v

/-- The first queued packet of a class that stands first in its channel and has credits for it (R356). -/
def ready (s : State) (l : Link) (tc : Nat) : Option Pkt :=
  l.queue.find? (fun k => k.tc == tc && l.queue.find? (fun x => outVc l x == outVc l k) == some k &&
    (creditKind s l (outVc l k) k.flits).isSome)

/-- The weight of a class (R356). -/
def weight (s : State) (tc : Nat) : Nat :=
  if tc = 0 then fget s F.FAB_ARB_WREQ else if tc = 2 then fget s F.FAB_ARB_WCOLL else fget s F.FAB_ARB_WBULK

/-- The class whose turn it is among request, collective and bulk. -/
def Link.turnClass (l : Link) : Nat := [0, 2, 3].getD l.turn 0

/-- The turn passes to the next class, which this one leaves with deficit `d`. -/
def Link.nextTurn (l : Link) (d : Nat) : Link :=
  { l with deficit := mput l.deficit l.turnClass d 0, turn := (l.turn + 1) % 3, visit := false }

/-- Deficit round robin over request, collective and bulk, counted in flits (R356): a class that comes to its turn gains its weight,
sends while its deficit covers its packets, and passes the turn on; a class with nothing ready keeps no deficit. Log entry 152 (DEDUCED). -/
def drr (s : State) : Nat → Link → Link × Option Pkt
  | 0, l => (l, none)
  | n + 1, l =>
    match ready s l l.turnClass with
    | none => drr s n (l.nextTurn 0)
    | some k =>
      let d := mget l.deficit l.turnClass 0 + (if l.visit then 0 else weight s l.turnClass)
      if k.flits ≤ d then ({ l with deficit := mput l.deficit l.turnClass (d - k.flits) 0, visit := true }, some k)
      else drr s n (l.nextTurn d)

/-- The next packet: responses first (R356). -/
def nextPkt (s : State) (l : Link) : Link × Option Pkt :=
  match ready s l 1 with
  | some k => (l, some k)
  | none => if [0, 2, 3].any (fun c => (ready s l c).isSome) then drr s 200 l else (l, none)

/-- Whether a fabric port's flit slots carry the rehearsal pattern because its peer asks for it (R316). -/
def patternOut (s : State) (p : Nat) : Bool := decide (p < 32) && (oget s p).peerRqp

/-- Whether a port can send: its link is up, not held, not steering, its flit slots free of the pattern, and its half is not in partial
reset. -/
def canSend (s : State) (p : Nat) : Bool :=
  !patternOut s p && fbit s F.FAB_PORT_STATUS_LINK p && !fbit s F.FAB_PORT_STATUS_HELD p && !steering s p && (decide (32 ≤ p) || !inPreset s (portHalf p))

/-- Send packets of the egress queue while credits last; a packet leaves whole (R344). -/
def pumpN (p : Nat) : Nat → State → State
  | 0, s => s
  | n + 1, s =>
    if !canSend s p then s
    else
      let c := nextPkt s (lget s p)
      match c.2 with
      | none => s
      | some k =>
        let l := c.1
        let vc := outVc l k
        let sh := (creditKind s l vc k.flits).getD false
        let v := if sh then 8 else vc
        let f := headFlit k vc sh v (mget l.rxFreed v 0) l.ack :: k.data
        let l2 : Link := { l with
          queue := l.queue.erase k, unacked := l.unacked ++ [{ seq := l.txSeq, vc := vc, sh := sh, pkt := k }], txSeq := (l.txSeq + k.flits) % 65536,
          advance := if l.unacked.isEmpty then now s (portHalf p) else l.advance,
          used := mput l.used v (mget l.used v 0 + k.flits) 0 }
        pumpN p n (send (fcount (lset s p l2) F.FAB_PORT_TX_FLITS p k.flits) (.flits p f))

/-- Send what the egress queue of port p can. -/
def pump (s : State) (p : Nat) : State := pumpN p (lget s p).queue.length s

/-! ## Routes (R357 to R360) -/

/-- A dropped packet (R344, R350, R360). -/
def dropPkt (s : State) (reason port dst tc : Nat) : State :=
  let s := fcount s F.FAB_DROPS_COUNT 0 1
  let s := fset (fset (fset s F.FAB_LAST_DROP_REASON 0 reason) F.FAB_LAST_DROP_PORT 0 port) F.FAB_LAST_DROP_DST 0 dst
  let s := fset (fset s F.FAB_LAST_DROP_TC 0 tc) F.FAB_LAST_DROP_VALID 0 1
  if reason = 1 ∨ reason = 2 then emitLim s (portHalf port) unitRoute 0x0604 dst ms [(port, 5), (dst, 16), (reason, 4)]
  else if reason = 3 then emitLim s (portHalf port) unitRoute 0x0605 0 ms [(port, 5), (dst, 16)]
  else if reason = 4 then emitLim s (portHalf port) unitRoute 0x0609 port ms [(port, 5)]
  else s

/-- The port mask of a destination (R358). -/
def routeMask (s : State) (dst : Nat) : Nat :=
  if districtOf dst = districtOf (deviceId s) then fget s F.FAB_ROUTE_MEMBER_PORTS (memberOf dst)
  else fget s F.FAB_ROUTE_DIST_PORTS (districtOf dst)

/-- The route entry of a destination: of `FAB_ROUTE_DIST`, or of `FAB_ROUTE_MEMBER`, and its number (R358). -/
def routeEntry (s : State) (dst : Nat) : Bool × Nat :=
  if districtOf dst = districtOf (deviceId s) then (false, memberOf dst) else (true, districtOf dst)

/-- The route entries that cover a named device or district (R362). -/
def missEntries (s : State) (dist : Bool) (id : Nat) : List (Bool × Nat) :=
  if dist && districtOf id == districtOf (deviceId s) then (List.range 64).map (fun m => (false, m)) else [routeEntry s id]

/-- Whether a MISS notice has taken port p out of the mask of a destination (R362). -/
def missed (s : State) (p dst : Nat) : Bool :=
  s.links.miss.any (fun m => m.port == p && (m.wide, m.entry) == routeEntry s dst)

/-- Whether a port's link is up and its peer accepted. -/
def linkUsable (s : State) (p : Nat) : Bool := fbit s F.FAB_PORT_STATUS_LINK p && !fbit s F.FAB_PORT_STATUS_IDPEND p

/-- The ports of a destination's mask that are up and not removed. -/
def maskPorts (s : State) (dst : Nat) : List Nat :=
  (List.range 32).filter (fun p => bitAt (routeMask s dst) p && linkUsable s p && !missed s p dst)

/-- The eligible ports, steering ones only where no other qualifies (R359). -/
def eligible (s : State) (dst : Nat) : List Nat :=
  let ps := maskPorts s dst
  let ns := ps.filter (fun p => !steering s p)
  if ns.isEmpty then ps else ns

/-- Whether a port is throttled (R363). -/
def throttled (s : State) (p : Nat) : Bool := bitAt (fget s F.FAB_STATUS_THROTTLED) p

/-- Whether a locally originated packet to `dst` must be held at its source: there are eligible ports and all are
throttled (R363). -/
def mustHold (s : State) (dst : Nat) : Bool :=
  let ps := eligible s dst
  !ps.isEmpty && ps.all (throttled s)

/-- The choice of R359 among ports: the fewest unsent flits and the lowest number where AD is 1, else the lowest number. -/
def choosePort (s : State) (ad : Bool) : List Nat → Option Nat
  | [] => none
  | p :: r =>
    match choosePort s ad r with
    | none => some p
    | some q => if ad && decide ((lget s q).unsent < (lget s p).unsent) then some q else some p

/-- Engage the throttle where the egress queue now exceeds THR_HI sixteenths of E (R363). -/
def engage (s : State) (p : Nat) : State :=
  if !throttled s p && decide (fget s F.FAB_CFG_THR_HI * fget s F.FAB_CREDIT_SPACE < 16 * (lget s p).unsent) then
    emitLim (fset s F.FAB_STATUS_THROTTLED 0 (setBit (fget s F.FAB_STATUS_THROTTLED) p true)) (portHalf p) unitRoute 0x0608 p ms [(p, 5)]
  else s

/-- Put a packet into a port's egress queue and send what can be sent. -/
def egress (s : State) (p : Nat) (k : Pkt) : State :=
  let l := lget s p
  engage (pump (lset s p { l with queue := l.queue ++ [k] }) p) p

/-- Whether a packet is a response or read data, for which a quarter of each egress queue is reserved (R352). -/
def Pkt.isReply (k : Pkt) : Bool :=
  bitAt k.hdr.toNat 7 || (bitsAt k.hdr.toNat 0 8 == 6 && (k.data.head?.map (fun l => bitAt l.toNat 71)).getD false)

/-- Whether an egress queue of E flits has room for a packet (R352, R355): a request takes none of the reserved quarter. -/
def egressRoom (s : State) (p : Nat) (k : Pkt) : Bool :=
  let e := fget s F.FAB_CREDIT_SPACE
  decide ((lget s p).load + k.flits ≤ if k.isReply then e else e - e / 4)

/-- Whether a packet can go to port p's egress queue now: it has room, and a packet from the other half can cross the bridge. -/
def canEnter (s : State) (p : Nat) (k : Pkt) : Bool := egressRoom s p k && (k.half == portHalf p || brgOpen s)

/-- A packet enters port p's egress queue, over the bridge where it comes from the other half (R24). Log entry 81 (DESIGN CHOICE). -/
def enterEgress (s : State) (p : Nat) (k : Pkt) : State :=
  egress (if k.half = portHalf p then s else brgCount s k.half k.flits) p { k with half := portHalf p }

/-- The ports a packet may take (R359, R363): one that began on this device takes no throttled port. -/
def portsFor (s : State) (k : Pkt) : List Nat :=
  let ps := eligible s k.dst
  if k.mine then ps.filter (fun p => !throttled s p) else ps

/-- Admit a packet to an egress queue by its route (R358, R359). With no eligible port it is dropped with reason 1; where every one is
throttled, or the one chosen has no room for it, or the bridge does not carry it there, it waits at its source (R352, R363). Log entry
153 (DESIGN CHOICE). -/
def admitPkt (s : State) (from_ : Nat) (k : Pkt) : State :=
  let wait : State := { s with links := { s.links with waiting := s.links.waiting ++ [(from_, k)] } }
  if (eligible s k.dst).isEmpty then dropPkt s 1 from_ k.dst k.tc
  else
    match choosePort s k.ad (portsFor s k) with
    | some p => if canEnter s p k then enterEgress s p k else wait
    | none => wait

/-- Whether a waiting packet can be admitted or must be dropped now. -/
def mayAdmit (s : State) (k : Pkt) : Bool :=
  (eligible s k.dst).isEmpty || ((choosePort s k.ad (portsFor s k)).map (fun p => canEnter s p k)).getD false

/-- The first waiting packet that can be admitted is. -/
def admitWaiting (s : State) : Option State :=
  match s.links.waiting.find? (fun w => mayAdmit s w.2) with
  | some w => some (admitPkt { s with links := { s.links with waiting := s.links.waiting.erase w } } w.1 w.2)
  | none => none

/-- Whether adaptive choice is enabled for a class (R359). -/
def adaptive (s : State) (tc : Nat) : Bool := bitAt (fget s F.FAB_CFG_ADAPT) tc

/-! ## Link up and down (R350, R354) -/

/-- The link comes up with fresh state: sequence 0, ACK 0xFFFF, full credits (R347, R350, R354). What its ingress holds
stays. -/
def linkUp (s : State) (p : Nat) : State :=
  let l := lget s p
  let n : Link := {
    queue := l.queue, ingress := l.ingress.map (fun i => { i with vc := 9 }), held := l.held.map (fun i => { i with vc := 9 }),
    ded := fget s F.FAB_CREDIT_DED,
    direct := fbit s F.FAB_PORT_CFG_ROLE p, ring := fget s F.FAB_PORT_CFG_RING p, dateline := fbit s F.FAB_PORT_CFG_DATELINE p }
  let s := lset s p n
  let s := fset (fset (fset s F.FAB_PORT_STATUS_LINK p 1) F.FAB_PORT_STATUS_DISCARD p 0) F.FAB_PORT_STATUS_HELD p 0
  pump s p

/-- The link goes down (R350): packets not begun are admitted again to other ports, those begun and not acknowledged are
dropped with reason 5. -/
def linkDown (s : State) (p : Nat) : State :=
  if !fbit s F.FAB_PORT_STATUS_LINK p then s
  else
    let l := lget s p
    let s := fset (fset (fset s F.FAB_PORT_STATUS_LINK p 0) F.FAB_PORT_STATUS_DISCARD p 0) F.FAB_PORT_STATUS_HELD p 0
    let s := fset s F.PORT_STATUS_UP p 0
    let s := lset s p { ingress := l.ingress, held := l.held }
    let s := fset s F.FAB_STATUS_THROTTLED 0 (setBit (fget s F.FAB_STATUS_THROTTLED) p false)
    let s := l.unacked.foldl (fun s u => dropPkt s 5 p u.pkt.dst u.pkt.tc) s
    if 32 ≤ p then l.queue.foldl (fun s k => dropPkt s 1 p k.dst k.tc) s else l.queue.foldl (fun s k => admitPkt s p k) s

/-! ## Reachability (R362)

A device that forwards is its direct-link peers' way to others, and sends them the notices that R362 lets a peer send. Log entry 154
(DESIGN CHOICE). -/

/-- The members of this district, and the other districts, that route entries name and no port reaches now: (district, ID). -/
def cutOff (s : State) : List (Bool × Nat) :=
  if !fbit s F.FAB_CFG_FWD then []
  else
    let me := deviceId s
    let cut := fun (d : Nat) => routeMask s d != 0 && (maskPorts s d).isEmpty
    ((List.range 64).map (fun m => (false, districtOf me * 64 + m))).filter (fun e => e.2 != me && cut e.2) ++
      ((List.range 256).map (fun d => (true, 64 * d))).filter (fun e => districtOf e.2 != districtOf me && cut e.2)

/-- A notice on every other up port of a direct link. Log entry 154 (DESIGN CHOICE). -/
def notify (s : State) (again : Bool) (e : Bool × Nat) : State :=
  ((List.range 32).filter (fun p => canSend s p && (lget s p).direct)).foldl
    (fun s p => send s (.flits p [missFlit (lget s p) e.1 again e.2])) s

/-- Run a change of the device's routes, and tell the peers what it cut off or made reachable again. Log entry 154 (DESIGN CHOICE). -/
def announcing (s : State) (f : State → State) : State :=
  if !fbit s F.FAB_CFG_FWD then f s
  else
    let a := cutOff s
    let t := f s
    let b := cutOff t
    let t := (b.filter (fun e => !a.contains e)).foldl (fun s e => notify s false e) t
    (a.filter (fun e => !b.contains e)).foldl (fun s e => notify s true e) t

/-- The link is lost: the port comes up again only after it has trained again. -/
def linkLost (s : State) (p : Nat) : State := announcing s (fun s => oset (linkDown s p) p { oget s p with trained := false })

/-- The link itself gives up (R349, R354), event 0x0603. -/
def linkFail (s : State) (p : Nat) : State := emit (linkLost s p) (portHalf p) unitRoute 0x0603 [(p, 5)]

/-- Send a packet straight on a port, where it carries flits: a link-local packet, or a record on a signal plane (R375). -/
def sendOn (s : State) (p dst : Nat) (hdr : BitVec 448) : State :=
  if !fbit s F.PORT_STATUS_UP p && !steering s p then s
  else
    let l := lget s p
    let k : Pkt := { half := portHalf p, tc := 2, dst := dst, ad := false, hops := 0, ring := none, mine := false, hdr := hdr, data := [] }
    pump (lset s p { l with queue := l.queue ++ [k] }) p

/-! ## Replay (R348, R349) -/

/-- Replay the numbered flits from `seq` on, after a REPLAY control flit. -/
def replay (s : State) (p seq : Nat) : State :=
  let l := lget s p
  let s := send s (.flits p [controlFlit l false true seq])
  let s := emitLim (fcount s F.FAB_PORT_REPLAYS_REPLAYS p 1) (portHalf p) unitRoute 0x0602 p ms [(p, 5)]
  let fs := l.unacked.flatMap (fun u =>
    let v := if u.sh then 8 else u.vc
    ((headFlit u.pkt u.vc u.sh v (mget l.rxFreed v 0) l.ack :: u.pkt.data).zipIdx).filter
      (fun f => let q := (u.seq + f.2) % 65536; q == seq || seqNewer16 q seq) |>.map (·.1))
  send (lset s p { l with replayAt := some (seq, now s (portHalf p)), replays := l.replays + 1, advance := now s (portHalf p) }) (.flits p fs)

/-- Replay, unless it would be the 9th in a row without progress of ACK, which takes the link down (R349). -/
def tryReplay (s : State) (p seq : Nat) : State := if 8 ≤ (lget s p).replays then linkFail s p else replay s p seq

/-- A NAK (R348): replays from SEQ, unless a replay that covers it began less than LINK_RTO ago. -/
def takeNak (s : State) (p seq : Nat) : State :=
  match (lget s p).replayAt with
  | some (q, at_) =>
    if (q == seq || seqNewer16 seq q) && decide (now s (portHalf p) < at_ + fget s F.FAB_CFG_LINK_RTO * 1000) then s else tryReplay s p seq
  | none => tryReplay s p seq

/-- The receiver enters the discard state and sends NAK (R348). -/
def enterDiscard (s : State) (p : Nat) : State :=
  let l := lget s p
  let s := fset s F.FAB_PORT_STATUS_DISCARD p 1
  send (fcount s F.FAB_PORT_REPLAYS_NAKS p 1) (.flits p [controlFlit l true false l.rxExp])

/-- A REPLAY control flit (R348): the numbered flits that follow start at SEQ. With the expected SEQ it ends the discard state; outside
that state, as after the peer's own time-out (R349), the flits that follow may be older than the expected one. -/
def takeReplay (s : State) (p seq : Nat) : State :=
  let l := lget s p
  if fbit s F.FAB_PORT_STATUS_DISCARD p then
    (if seq = l.rxExp then lset (fset s F.FAB_PORT_STATUS_DISCARD p 0) p { l with rxNum := seq } else s)
  else if seqNewer16 seq l.rxExp then s else lset s p { l with rxNum := seq }

/-- Take `n` flits from the head of the retry buffer; a packet stays until all of it is covered. -/
def coverAck : Nat → List SentPkt → List SentPkt
  | _, [] => []
  | n, u :: r => if u.pkt.flits - u.done ≤ n then coverAck (n - (u.pkt.flits - u.done)) r else { u with done := u.done + n } :: r

/-- An acknowledgement (R347, R349): flits up to ACK leave the retry buffer; any advance of ACK resets the replay count. -/
def takeAck (s : State) (p ack : Nat) : State :=
  let l := lget s p
  let n := (ack + 1 + 65536 - l.oldest) % 65536
  if 0 < n ∧ n ≤ l.unackedFlits then
    lset s p { l with unacked := coverAck n l.unacked, replays := 0, advance := now s (portHalf p) }
  else s

/-- A reported cumulative count, given modulo `m`: the count advances to the next value congruent to it (R354). -/
def healCount (old rep m : Nat) : Nat := old + (rep + m - old % m) % m

/-- Take CRV and CRN of an idle or head flit. -/
def takeCredit (s : State) (p crv crn : Nat) : State :=
  if 8 < crv then s
  else
    let l := lget s p
    lset s p { l with freed := mput l.freed crv (min (mget l.used crv 0) (healCount (mget l.freed crv 0) crn 1024)) 0 }

/-! ## Receiving -/

/-- A packet leaves the ingress of port p: its credits return to their kind, and an idle flit reports the count (R354). -/
def freeIngress (s : State) (p : Nat) (i : IngPkt) : State :=
  let l := lget s p
  let v := if i.sh then 8 else i.vc
  if 9 ≤ i.vc then s
  else
    let l := { l with rxFreed := mput l.rxFreed v (mget l.rxFreed v 0 + 1 + i.data.length) 0 }
    let s := lset s p l
    if canSend s p then send s (.flits p [idleFlit l v]) else s

/-- A packet that arrived at port p as it goes on (R345, R360, R361). -/
def IngPkt.onward (l : Link) (p : Nat) (i : IngPkt) : Pkt :=
  { half := portHalf p, tc := bitsAt i.route 2 2, dst := bitsAt i.route 32 16, ad := bitAt i.route 5, hops := bitsAt i.route 14 4,
    ring := guardOpt l.direct (l.ring, bitsAt i.route 4 1), mine := false, hdr := i.hdr, data := i.data }

/-- Take a delivered packet out of the ingress of port p, where it stands there, with the packet as it goes on. -/
def takeIngress (s : State) (p : Nat) (hdr : BitVec 448) (data : List Line) : State × Option Pkt :=
  let l := lget s p
  match l.ingress.find? (fun i => i.hdr == hdr && i.data == data) with
  | some i => (freeIngress (lset s p { l with ingress := l.ingress.erase i }) p i, some (i.onward l p))
  | none => (s, none)

/-- Whether a packet is a request that will be answered, and its answer's flits: a response, or the read data of a READ (R208). -/
def asksAnswer (hdr : BitVec 448) : Bool := decide (bitsAt hdr.toNat 0 8 < 0x80) && bitsAt hdr.toNat 0 8 != 7
def answerFlits (hdr : BitVec 448) : Nat :=
  if bitsAt hdr.toNat 0 8 = 4 then
    let n := bitsAt hdr.toNat 256 12 + 1
    n + (n + 63) / 64
  else 1

/-- The port that the answer to a request from `src` would take now: that of the source, or of its district. -/
def answerPort (s : State) (src : Nat) : Option Nat := choosePort s (adaptive s 1) (eligible s src)

/-- The room an answer needs: its flits, as far as the reserved quarter goes. Log entry 153 (DESIGN CHOICE). -/
def answerRoom (s : State) (n : Nat) : Nat := min n (fget s F.FAB_CREDIT_SPACE / 4)

/-- The requests admitted and not yet answered, as (source, flits of the answer). -/
def promised (s : State) : List (Nat × Nat) :=
  let of := fun (h : BitVec 448) => (bitsAt h.toNat 32 16, answerFlits h)
  s.links.link.flatMap (fun e => (e.2.ingress.filter (fun i => asksAnswer i.hdr)).map (fun i => of i.hdr)) ++
    s.fab.rx.flatMap (fun r => r.wait.map (fun w => of w.1)) ++
    s.fab.prog.filterMap (fun p => match p.tgt with
      | .remote src _ _ => some (src, if p.req.op = 4 then p.n + (p.n + 63) / 64 else 1)
      | _ => none)

/-- Whether a request can be admitted to its ingress (R352): the egress queue that its answer will use keeps room for it beside what it
holds and the answers already promised there. Log entry 153 (DESIGN CHOICE). -/
def mayTakeIn (s : State) (hdr : BitVec 448) : Bool :=
  if !asksAnswer hdr then true
  else
    match answerPort s (bitsAt hdr.toNat 32 16) with
    | none => true
    | some q =>
      let due := ((promised s).filter (fun a => answerPort s a.1 == some q)).map (fun a => answerRoom s a.2)
      decide ((lget s q).load + due.sum + answerRoom s (answerFlits hdr) ≤ fget s F.FAB_CREDIT_SPACE)

/-- The first request that waits outside its ingress and can be admitted is. -/
def admitHeld (s : State) : Option State :=
  match s.links.link.findSome? (fun e => (e.2.held.find? (fun i => mayTakeIn s i.hdr)).map (fun i => (e.1, i))) with
  | some (p, i) =>
    let l := lget s p
    some (lset s p { l with held := l.held.erase i, ingress := l.ingress ++ [i] })
  | none => none

/-- Deliver or forward a complete packet that arrived at port p (R352, R358, R360). Link-local packets go to the interlocking; a
switch-leaf port forwards nothing (R365). -/
def deliverPkt (s : State) (p : Nat) (x : RxPkt) : State :=
  let h := x.head.toNat
  let dst := bitsAt h 32 16; let tc := bitsAt h 2 2
  let v := 2 * tc + bitsAt h 4 1
  let sh := bitAt h 6
  let hdr : BitVec 448 := BitVec.ofNat 448 (h / 2 ^ 64)
  let i : IngPkt := { vc := v, sh := sh, route := h % 2 ^ 64, hdr := hdr, data := x.data }
  if x.drop then freeIngress (dropPkt s 4 p dst tc) p i
  else if dst = 0xFFFF ∨ (32 ≤ p ∧ dst = deviceId s) then
    freeIngress { s with links := { s.links with linkLocal := s.links.linkLocal ++ [(p, hdr)] } } p i
  else if dst = deviceId s then
    let l := lget s p
    if mayTakeIn s hdr then lset s p { l with ingress := l.ingress ++ [i] } else lset s p { l with held := l.held ++ [i] }
  else if !fbit s F.FAB_CFG_FWD || !(lget s p).direct || fbit s F.ILK_STATUS_FENCED || decide (32 ≤ p) then freeIngress (dropPkt s 2 p dst tc) p i
  else if bitsAt h 14 4 = 15 then freeIngress (dropPkt s 3 p dst tc) p i
  else
    admitPkt (freeIngress s p i) p { i.onward (lget s p) p with hops := bitsAt h 14 4 + 1 }

/-- What a received slot holds: the corrected flit, or an uncorrectable slot. -/
def slotRead (flit : Line) (err : Damage) : Option Line :=
  match decodeBlock 4 [] err with
  | .clean x => some (flit ^^^ x)
  | .corrected x => some (flit ^^^ x)
  | .uncorrectable => none

/-- Whether a port's link takes flits now. -/
def canTake (s : State) (p : Nat) : Bool := fbit s F.FAB_PORT_STATUS_LINK p && (decide (32 ≤ p) || !inPreset s (portHalf p))

/-- The hold of a link ends (R368): both ends replay from their oldest unacknowledged flit, the receiver starting in the
discard state. The replay count was suspended and stands. -/
def releaseHold (s : State) (p : Nat) : State :=
  let s := fset (fset s F.FAB_PORT_STATUS_HELD p 0) F.FAB_PORT_STATUS_DISCARD p 1
  let l := lget s p
  let t := replay s p l.oldest
  lset t p { lget t p with replays := l.replays }

/-- Receive a flit through `body`, unless the slot is uncorrectable (R348) or the link is in the discard state. -/
def receive (p : PortId) (flit : Line) (err : Damage) (s : State) (body : State → Nat → Line → State) : State :=
  let n := p.idx
  if !canTake s n then s
  else
    let s := if fbit s F.FAB_PORT_STATUS_HELD n then releaseHold s n else s
    let s := noteSlotCorr s n (match decodeBlock 4 [] err with | .corrected _ => err | _ => 0)
    match slotRead flit err with
    | none => if fbit s F.FAB_PORT_STATUS_DISCARD n then s else enterDiscard s n
    | some f => if fbit s F.FAB_PORT_STATUS_DISCARD n then s else body s n f

/-- A numbered flit older than the expected one, sent again, is discarded (R348). -/
def skipOld (s : State) (p : Nat) (body : State → State) : State :=
  let l := lget s p
  if l.rxNum = l.rxExp then body s else lset s p { l with rxNum := (l.rxNum + 1) % 65536 }

/-- Accept a numbered flit: the credits it takes are counted, and a flit beyond the grant takes the link down with event
0x0603 (R354). -/
def acceptNumbered (s : State) (p v : Nat) : State × Bool :=
  let l := lget s p
  let u := mget l.rxUsed v 0 + 1
  let s := fcount (lset s p { l with rxExp := (l.rxExp + 1) % 65536, rxNum := (l.rxExp + 1) % 65536, rxUsed := mput l.rxUsed v u 0 }) F.FAB_PORT_RX_FLITS p 1
  if grant s l v < u - mget l.rxFreed v 0 then (linkFail s p, false) else (s, true)

/-- The NFLIT of a transaction header (R207, R208). -/
def hdrNflit (hdr : BitVec 448) : Nat := if bitAt hdr.toNat 7 then bitsAt hdr.toNat 224 7 else bitsAt hdr.toNat 241 7

/-- A head flit in sequence (R344). -/
def headIn (s : State) (p : Nat) (f : Line) : State :=
  let h := f.toNat
  let n := bitsAt h 7 7
  let bad := bitsAt h 0 2 ≠ 2 ∨ 64 < n ∨ (bitsAt h 32 16 ≠ 0xFFFF ∧ p < 32 ∧ hdrNflit (BitVec.ofNat 448 (h / 2 ^ 64)) ≠ n)
  let v := if bitAt h 6 then 8 else 2 * bitsAt h 2 2 + bitsAt h 4 1
  let a := acceptNumbered s p v
  if !a.2 then a.1
  else
    let x : RxPkt := { head := f, data := [], left := n, drop := decide bad }
    if n = 0 then pump (deliverPkt a.1 p x) p else pump (lset a.1 p { lget a.1 p with rxPkt := some x }) p

/-- A head flit: its acknowledgement and count are taken, and it is accepted in sequence (R343, R347). -/
def takeHead (s : State) (p : Nat) (f : Line) : State :=
  let h := f.toNat
  skipOld (takeCredit (takeAck s p (bitsAt h 48 16)) p (bitsAt h 18 4) (bitsAt h 22 10)) p (fun s => headIn s p f)

/-- A data flit in sequence (R344). -/
def dataIn (s : State) (p : Nat) (f : Line) : State :=
  match (lget s p).rxPkt with
  | none => s
  | some x =>
    let h := x.head.toNat
    let v := if bitAt h 6 then 8 else 2 * bitsAt h 2 2 + bitsAt h 4 1
    let a := acceptNumbered s p v
    if !a.2 then a.1
    else
      let x := { x with data := x.data ++ [f], left := x.left - 1 }
      let s := lset a.1 p { lget a.1 p with rxPkt := if x.left = 0 then none else some x }
      if x.left = 0 then deliverPkt s p x else s

/-- A data flit: accepted in sequence (R347). -/
def takeData (s : State) (p : Nat) (f : Line) : State := skipOld s p (fun s => dataIn s p f)

/-- A MISS notice (R362): the port leaves or rejoins the masks that cover the destination; packets for it that have not begun
are admitted again. -/
def missNotice (s : State) (p : Nat) (dist again : Bool) (id : Nat) : State :=
  let n := if dist then districtOf id else id
  let mine : Missed → Bool := fun m => m.port == p && m.dist == dist && m.id == n
  if again then
    if s.links.miss.any mine then
      emit { s with links := { s.links with miss := s.links.miss.filter (fun m => !mine m) } } (portHalf p) unitRoute 0x0607 [(p, 5), (id, 16)]
    else s
  else
    let new := ((missEntries s dist id).map (fun e => (⟨p, dist, n, e.1, e.2⟩ : Missed))).filter (fun m => !s.links.miss.contains m)
    let s := { s with links := { s.links with miss := s.links.miss ++ new } }
    let s := emit s (portHalf p) unitRoute 0x0606 [(p, 5), (id, 16)]
    let l := lget s p
    let for_ := fun (k : Pkt) => if dist then districtOf k.dst == n else k.dst == n
    (l.queue.filter for_).foldl (fun s k => admitPkt s p k) (lset s p { l with queue := l.queue.filter (fun k => !for_ k) })

/-- A MISS notice is taken, and passed on to the peers that this device forwards for. -/
def takeMiss (s : State) (p : Nat) (dist again : Bool) (id : Nat) : State := announcing s (fun s => missNotice s p dist again id)

/-- Software has written a route entry: the removals of ports from it end (R362). -/
def routeWritten (s : State) (wide : Bool) (i : Nat) : State :=
  let here : Missed → Bool := fun m => m.wide == wide && m.entry == i
  (s.links.miss.filter here).foldl (fun s m => emit s (portHalf m.port) unitRoute 0x0607 [(m.port, 5), (if m.dist then m.id * 64 else m.id, 16)])
    { s with links := { s.links with miss := s.links.miss.filter (fun m => !here m) } }

/-- A control flit (R346): its ACK and every cumulative count, then what it asks. -/
def takeControl (s : State) (p : Nat) (f : Line) : State :=
  let h := f.toNat
  let s := takeAck s p (bitsAt h 48 16)
  let l := lget s p
  let fr := (List.range 9).foldl (fun m v =>
    let c := if v = 8 then bitsAt h 320 32 else bitsAt h (64 + 32 * v) 32
    mput m v (min (mget l.used v 0) (healCount (mget m v 0) c (2 ^ 32))) 0) l.freed
  let s := lset s p { l with freed := fr }
  let s := if bitAt h 353 then takeReplay s p (bitsAt h 368 16) else s
  let s := if bitAt h 352 then takeNak s p (bitsAt h 368 16) else s
  let s := if bitAt h 354 then takeMiss s p (bitAt h 355) (bitAt h 356) (bitsAt h 384 16) else s
  pump s p

end Sys2Proof.Machine
end

