-- ==== Sys2Proof/Machine/MemFab.lean ====
section
/-!
DEFINITION. The memory fabric (chapter 06): membership, windows and their checks, the sending and receiving sides of
streams, messages and gateways.
-/

namespace Sys2Proof.Machine

/-! ## Membership and windows -/

/-- Whether a device is a member: of the installed epoch in this district, of the hall table's entry in another (R201 step
2, R413). -/
def member (s : State) (d : Nat) : Bool :=
  let di := districtOf d
  if 256 ≤ di then false
  else if di = districtOf (deviceId s) then bitAt (fget s F.ILK_MEMBERS_MAP) (memberOf d)
  else bitAt (fget s F.ILK_HALL_MEMBERS_MAP di) (memberOf d)

/-- Whether `d` is this device. -/
def isOwn (s : State) (d : Nat) : Bool := validDevice d && d == deviceId s

/-- The slot that binds a job (R199). -/
def jobSlot (s : State) (job : Nat) : Option Nat :=
  (List.range 64).find? (fun k => fbit s F.WIN_JOB_BOUND k && fget s F.WIN_JOB_JOB k == job)

/-- Statuses of R202, and the internal one of an abandoned request. -/
def stOk : Nat := 0
def stNoJob : Nat := 1
def stNoWindow : Nat := 2
def stRange : Nat := 3
def stPerm : Nat := 4
def stMisaligned : Nat := 5
def stUncorr : Nat := 6
def stRetry : Nat := 7
def stStale : Nat := 8
def stUnreachable : Nat := 9
def stSeqWindow : Nat := 10
def stBadOp : Nat := 11
def stAbandoned : Nat := 0x100

/-- The tile fault cause of a status (R202, R214). -/
def causeOf (st : Nat) : Nat := if st = stUncorr then 6 else if st = stAbandoned then 9 else 5

/-- A window entry as a half translates with it (R200, R203): base, size in bytes, R, W, A, LOCAL, VALID. While a window
write is in progress, each half's copy changes at a moment of its own: an open value decides it at each translation. Log entries 9 (DESIGN CHOICE), 49 (DESIGN CHOICE). -/
def windowEntry (s : State) (h : Half) (slot win : Nat) : State × (Nat × Nat × Nat) :=
  let i := 64 * slot + win
  let new := (fget s F.WIN_BASE_BASE i * 4096, fget s F.WIN_SIZE_SIZE i * 4096,
    fget s F.WIN_PERM_R i + 2 * fget s F.WIN_PERM_W i + 4 * fget s F.WIN_PERM_A i + 8 * fget s F.WIN_PERM_LOCAL i
      + 16 * fget s F.WIN_PERM_VALID i)
  match s.fab.commit with
  | none => (s, new)
  | some c =>
    if !(c.slot == slot && c.win == win) then (s, new)
    else if (match h with | .up => c.up | .down => c.dn) then (s, new)
    else
      let f := fresh s
      if f.1 % 2 = 0 then (f.2, (c.base, c.size, c.perm))
      else
        let c := match h with | .up => { c with up := true } | .down => { c with dn := true }
        ({ f.2 with fab := { f.2.fab with commit := some c } }, new)

/-! ## Header fields (R207, R208) -/

/-- Bits [lo+w-1:lo] of a transaction header. -/
def hb (h : BitVec 448) (lo w : Nat) : Nat := bitsAt h.toNat lo w

/-- The request that a header carries, with its data flits. -/
def reqOf (h : BitVec 448) (data : List Line) : Req :=
  { op := hb h 0 8, fn := hb h 8 8, job := hb h 16 12, addr := hb h 128 64, operand := hb h 256 64, compare := hb h 320 64,
    msg := hb h 192 16, pkt := hb h 208 16, total := hb h 224 16, data := data }

/-- A request's header. -/
def reqHdr (src dst seq epoch : Nat) (r : Req) (rp : Bool) (orig ack : Nat) : BitVec 448 :=
  BitVec.ofNat 448 (r.op % 256 + r.fn % 256 * 2 ^ 8 + r.job % 4096 * 2 ^ 16 + src % 65536 * 2 ^ 32 + dst % 65536 * 2 ^ 48
    + seq % 2 ^ 32 * 2 ^ 64 + epoch % 2 ^ 32 * 2 ^ 96 + r.addr % 2 ^ 64 * 2 ^ 128 + r.msg % 65536 * 2 ^ 192
    + r.pkt % 65536 * 2 ^ 208 + r.total % 65536 * 2 ^ 224 + (if 0 < r.total ∧ r.pkt + 1 = r.total then 2 ^ 240 else 0)
    + r.data.length % 128 * 2 ^ 241 + (if rp then 2 ^ 248 else 0) + r.operand % 2 ^ 64 * 2 ^ 256
    + r.compare % 2 ^ 64 * 2 ^ 320 + ack % 2 ^ 32 * 2 ^ 384 + (if rp then orig % 2 ^ 32 else 0) * 2 ^ 416)

/-- A response's header: `op` 0x80 or 0x81. Log entry 46 (DEDUCED). -/
def respHdr (op st job src dst seq cum : Nat) (hseq : Option Nat) (delay msg pkt total nflit value : Nat) : BitVec 448 :=
  BitVec.ofNat 448 (op + st % 256 * 2 ^ 8 + job % 4096 * 2 ^ 16 + (if hseq.isSome then 2 ^ 28 else 0) + src % 65536 * 2 ^ 32
    + dst % 65536 * 2 ^ 48 + seq % 2 ^ 32 * 2 ^ 64 + cum % 2 ^ 32 * 2 ^ 96 + hseq.getD 0 % 2 ^ 32 * 2 ^ 128
    + delay % 65536 * 2 ^ 160 + msg % 65536 * 2 ^ 176 + pkt % 65536 * 2 ^ 192 + total % 65536 * 2 ^ 208
    + nflit % 128 * 2 ^ 224 + value % 2 ^ 64 * 2 ^ 256)

/-- Lines of a READ, and of any request's extent. -/
def readLines (r : Req) : Nat := r.operand % 4096 + 1

/-- The width in bytes of the operation (R173), and the extent of the request. -/
def Req.width (r : Req) : Nat :=
  if r.op = 1 ∨ r.op = 2 then (if bitAt r.fn 0 then 8 else 4) else if r.op = 3 then (if bitAt r.fn 4 then 8 else 4) else 64
def Req.extent (r : Req) : Nat :=
  if r.op ≤ 3 then r.width else if r.op = 4 then 64 * readLines r else if r.op = 5 then 64 * r.data.length else 64

/-- The home operation of a request. -/
def Req.homeOp (r : Req) : HomeOp :=
  if r.op = 1 ∨ r.op = 4 then .load
  else if r.op = 2 ∨ r.op = 5 then .store
  else if r.op = 0x101 then .rdShared
  else if r.op = 0x102 then .rdOwn
  else match r.fn % 16 with
    | 0 => .add | 1 => .min | 2 => .max | 3 => .xor | 4 => .swap | 5 => .cas | 6 => .acc | _ => .fadd

/-- Whether OP and FN are defined (R201 step 5, R208), `nflit` being the header's NFLIT and `res` its reserved bits. -/
def Req.defined (r : Req) (nflit res : Nat) : Bool :=
  res == 0 && nflit == r.data.length &&
  (match r.op with
   | 1 | 2 => decide (r.fn < 2) && nflit == 0
   | 3 => decide (r.fn < 64) && decide (r.fn % 16 < 8) && !(bitAt r.fn 4 && decide (6 ≤ r.fn % 16)) && nflit == 0
   | 4 => r.fn == 0 && nflit == 0
   | 5 => r.fn == 0 && decide (1 ≤ nflit) && decide (nflit ≤ 64) && decide (r.pkt < r.total)
   | 6 => r.fn == 0 && decide (1 ≤ nflit) && decide (nflit ≤ 64)
   | 0x101 | 0x102 => true
   | _ => false)

/-- The reserved bits of a request header. -/
def hdrReserved (h : BitVec 448) : Nat := hb h 28 4 + hb h 249 7

/-- Whether the permission bits admit the operation (R200, R483). -/
def permOk (r : Req) (perm : Nat) : Bool :=
  match r.op with
  | 1 | 4 | 0x101 => bitAt perm 0
  | 2 | 5 => bitAt perm 1
  | 3 => bitAt perm 2
  | 0x102 => bitAt perm 0 && bitAt perm 1
  | _ => true

/-- Steps 6 to 11 of R201 on the half `h`: the job slot and depot address, or the status. -/
def translate (s : State) (h : Half) (r : Req) (src : Nat) : State × Except Nat (Nat × Nat) :=
  match jobSlot s r.job with
  | none => (s, .error stNoJob)
  | some k =>
    let w := windowEntry s h k (r.addr / 2 ^ 42 % 64)
    let off := r.addr % 2 ^ 42
    let base := w.2.1; let size := w.2.2.1; let perm := w.2.2.2
    (w.1,
      if !bitAt perm 4 then .error stNoWindow
      else if bitAt perm 3 && src != deviceId s then .error stPerm
      else if !permOk r perm then .error stPerm
      else if r.addr % r.width ≠ 0 then .error stMisaligned
      else if size < off + r.extent then .error stRange
      else .ok (k, base + off))

/-- A refusal given at this device (R230 to R232). Log entry 47 (DEDUCED). -/
def noteRefusal (s : State) (st src job addr : Nat) : State :=
  if st = stOk ∨ st = stRetry then s
  else
    let s := fcount s F.WIN_REFUSED_COUNT 0 1
    let s := fset (fset s F.WIN_LAST_REFUSAL_STATUS 0 st) F.WIN_LAST_REFUSAL_SRC 0 src
    let s := fset (fset s F.WIN_LAST_REFUSAL_JOB 0 job) F.WIN_LAST_REFUSAL_WINDOW 0 (addr / 2 ^ 42 % 64)
    let s := fset s F.WIN_LAST_REFUSAL_VALID 0 1
    emitLim s .up unitFab 0x0301 ((jobSlot s job).getD 64) ms [(job, 12), (src, 16), (st, 8), (addr / 2 ^ 42 % 64, 6)]

/-! ## Gateways (R219 to R221) -/

/-- Entry n of `WIN_GW_LIST`. -/
def gwEntry (s : State) (n : Nat) : Nat := fget s ⟨.WIN_GW_LIST, 16 * n, 16, .ro, .const 0xFFFF, 0, 65535⟩

/-- Look for the gateway of district d from entry `k` on; a listed gateway that is not a member is logged once per epoch, with the job
of the request (R232). -/
def gatewayFrom (s : State) (job d ngw : Nat) : List Nat → State × Option Nat
  | [] => (s, none)
  | k :: ks =>
    let g := gwEntry s ((d + k) % ngw)
    if member s g && validDevice g then (s, some g)
    else
      let s := if s.fab.gwLogged.contains g then s
        else emit { s with fab := { s.fab with gwLogged := s.fab.gwLogged ++ [g] } } .up unitFab 0x0308 [(job, 12), (g, 16)]
      gatewayFrom s job d ngw ks

/-- The gateway a packet for another district takes. Log entry 50 (DESIGN CHOICE). -/
def gatewayFor (s : State) (job dst : Nat) : State × Option Nat :=
  let n := min (fget s F.WIN_GW_CFG_NGW) 4
  if n = 0 then (s, none) else gatewayFrom s job (districtOf dst) n (List.range n)

/-- Whether this device acts as a gateway. -/
def isGateway (s : State) : Bool := fbit s F.WIN_GW_CFG_GATEWAY

/-- The remote gateway for a district: the first one listed for the hall that is a member. Log entry 50 (DESIGN CHOICE). -/
def remoteGw (s : State) (d : Nat) : Option Nat := (mget s.fab.hallGw d []).find? (member s)

/-- The class of a packet (R351): responses, and batches of them, 1; read data and WRITE 3; what the cue engine or the stationmaster
requests 2; the rest 0. -/
def classOf (w : Who) (hdr : BitVec 448) (data : List Line) : Nat :=
  let op := hb hdr 0 8
  match w with
  | .cue .. => 2
  | _ =>
    if op = 0x80 then 1
    else if op = 6 then (if (data.head?.map (fun l => bitAt l.toNat 71)).getD false then 1 else 0)
    else if op = 0x81 ∨ op = 5 then 3 else 0

/-- A gateway takes a packet for another district (R220): single requests and responses join the district's batches, other packets go on
to the remote gateway with the head flit they came with, `k`. -/
def gwTake (s : State) (dst : Nat) (k : Pkt) : State :=
  let op := hb k.hdr 0 8
  let d := districtOf dst
  if op = 4 ∨ op = 5 ∨ op = 0x81 then
    match remoteGw s d with
    | some g => admitPkt s 0 { k with dst := g }
    | none => s
  else
    let i := 2 * d + op / 0x80 % 2
    { s with fab := { s.fab with batches := mput s.fab.batches i (mget s.fab.batches i [] ++ [k.hdr]) [] } }

/-- Send a packet of this device from half `h` toward its transaction destination (R219, R357). Gateway batches and responses are never
throttled (R363). -/
def sendTo (s : State) (h : Half) (w : Who) (dst : Nat) (mine : Bool) (hdr : BitVec 448) (data : List Line) : State :=
  let tc := classOf w hdr data
  let k : Pkt := {
    half := h, tc := tc, dst := dst, ad := adaptive s tc, hops := 0, ring := none, mine := mine && hb hdr 0 8 != 6, hdr := hdr, data := data }
  if hb hdr 0 8 = 6 || districtOf dst == districtOf (deviceId s) then admitPkt s 0 k
  else
    match gatewayFor s (hb hdr 16 12) dst with
    | (s, none) => s
    | (s, some g) => if isOwn s g then gwTake s dst k else admitPkt s 0 { k with dst := g }

/-- Whether the device may originate packets (R394, R398). Log entry 52 (DEDUCED). -/
def mayOriginate (s : State) : Bool := fbit s F.ILK_STATUS_MEMBER && !fbit s F.ILK_STATUS_FENCED && !s.fab.quiet

/-! ## The sending side (R209 to R216) -/

/-- The starting point of a stream. -/
def seqStart : Nat := 0xFFFFFFFF

/-- The sending stream to a destination, fresh where there is none. -/
def txGet (s : State) (dst job : Nat) : TxStream :=
  (s.fab.tx.find? (fun t => t.dst == dst && t.job == job)).getD
    { dst := dst, job := job, next := 0, cum := seqStart, sent := [], backlog := [], acked := seqStart }

/-- Replace a sending stream. -/
def txSet (s : State) (t : TxStream) : State :=
  let has := s.fab.tx.any (fun u => u.dst == t.dst && u.job == t.job)
  let l := if has then s.fab.tx.map (fun u => if u.dst = t.dst ∧ u.job = t.job then t else u) else s.fab.tx ++ [t]
  { s with fab := { s.fab with tx := l } }

/-- Requests not covered by the cumulative point. -/
def TxStream.open_ (t : TxStream) : Nat := (BitVec.ofNat 32 t.next - BitVec.ofNat 32 t.cum).toNat - 1

/-- Whether the stream can take `n` more requests (R210). -/
def TxStream.room (t : TxStream) (n : Nat) : Bool := decide (t.open_ + n ≤ 1024)

/-- RESP_ACK (R212): the highest SEQ up to which every response is held. Log entry 51 (DEDUCED). -/
def TxStream.respAck (t : TxStream) : Nat :=
  match t.sent.filter (fun e => e.answered.isNone) with
  | [] => (t.next + 2 ^ 32 - 1) % 2 ^ 32
  | e :: es => ((es.foldl (fun a x => if seqNewer a x.seq then x.seq else a) e.seq) + 2 ^ 32 - 1) % 2 ^ 32

/-- Whether a request is settled (R216) and its entry no longer needed. -/
def settledEntry (cum : Nat) (e : Sent) : Bool :=
  match e.answered with
  | none => false
  | some st => st != stRetry && (!seqNewer e.seq cum || st == stUnreachable || st == stStale || st == stSeqWindow || st == stNoJob)

/-- Drop settled entries. -/
def TxStream.prune (t : TxStream) : TxStream := { t with sent := t.sent.filter (fun e => !settledEntry t.cum e) }

/-- Whether every request of the stream up to SEQ `q` is settled (R216); an abandoned one is. -/
def TxStream.settledTo (t : TxStream) (q : Nat) : Bool :=
  t.sent.all (fun e => e.abandoned || (seqNewer e.seq q && !(e.rp && !seqNewer e.orig q)))

/-- Note an answer for the unit that issued a request. -/
def result (s : State) (r : Result) : State :=
  if r.who = .none then s else { s with fab := { s.fab with results := s.fab.results ++ [r] } }

/-- The half whose table copy checks a unit's own requests (R552). -/
def whoHalf : Who → Half
  | .tile t _ _ => if t < 2048 then .up else .down
  | .app h _ _ => Half.ofNum h
  | .cue h _ _ => Half.ofNum h
  | .shn h _ _ => Half.ofNum h
  | .brg h _ _ => (Half.ofNum h).other
  | _ => .up

/-- The line operations of a request at depot address `d`; `noRoom` and `again` as a slice is told them. -/
def lineOps (r : Req) (d src origin : Nat) (rp : Bool) (id : Nat) (noRoom again : Bool) : List LineOp :=
  let n := if r.op ≤ 3 ∨ 0x100 < r.op then 1 else if r.op = 4 then readLines r else r.data.length
  (List.range n).map (fun i =>
    { op := if r.poison then .poison else r.homeOp, addr := d + 64 * i, width := r.width,
      operand := if r.op = 5 then ((r.data.getD i 0).toNat) else r.operand, compare := r.compare, alloc := decide (r.op ≤ 3),
      stream := some (src, r.job), origin := origin, rp := rp, noRoom := noRoom, again := again,
      who := .part id i })

/-- Flits with which a line operation crosses the bridge: its head, and the line that a whole-line store brings. -/
def LineOp.flits (o : LineOp) : Nat := if o.whole then 2 else 1

/-- An operation crosses from half `h` to its home slice (R24, R552). -/
def crossOp (s : State) (h : Half) (o : LineOp) : State := arrive (brgCount s h o.flits) o

/-- An operation that half `h` has checked goes to its home slice; one homed on the other half crosses the bridge, in order, once the
bridge carries traffic (R24, R430, R433, R552). Log entry 81 (DESIGN CHOICE). -/
def goHome (h : Half) (s : State) (o : LineOp) : State :=
  if homeHalf o.addr = h then arrive s o
  else if brgOpen s && s.brg.cross.isEmpty then crossOp s h o
  else { s with brg := { s.brg with cross := s.brg.cross ++ [o] } }

/-- What a half's check of a request led to: its target, the half, the source, whether it is refused for want of pool room (R212), and
whether it repeats an answered READ (R215). -/
structure Check where
  tgt  : Tgt
  half : Half
  src  : Nat
  lost : Bool := false
  again : Bool := false

/-- Start a translated request at its home slices. -/
def startProg (s : State) (c : Check) (r : Req) (slot d origin : Nat) (rp : Bool) : State :=
  let id := s.fab.nextProg
  let ops := lineOps r d c.src origin rp id c.lost c.again
  let p : InProg := {
    id := id, tgt := c.tgt, req := r, slot := slot, addr := d, half := c.half, src := c.src, lost := c.lost, n := ops.length, got := [] }
  ops.foldl (goHome c.half) { s with fab := { s.fab with prog := s.fab.prog ++ [p], nextProg := id + 1 } }

/-- A whole request answered without reaching a slice. -/
def progAnswer (s : State) (c : Check) (r : Req) (st delay : Nat) : State :=
  let p : InProg := {
    id := s.fab.nextProg, tgt := c.tgt, req := r, slot := 64, addr := 0, half := c.half, src := c.src, lost := c.lost, n := 1,
    got := mput [] 0 (some ⟨st, 0, none, delay⟩) none }
  { s with fab := { s.fab with prog := s.fab.prog ++ [p], nextProg := s.fab.nextProg + 1 } }

/-- This device's own request is checked on the requester's half and starts (R198, R552). -/
def ownStart (s : State) (job seq orig : Nat) (rp : Bool) (r : Req) (w : Who) : State :=
  let c : Check := { tgt := .own job seq, half := whoHalf w, src := deviceId s }
  if !r.defined r.data.length 0 then progAnswer s c r stBadOp 0
  else
    match translate s (whoHalf w) r (deviceId s) with
    | (s, .error st) => progAnswer s c r st 0
    | (s, .ok (k, d)) => startProg s c r k d (if rp then orig else seq) rp

/-- Present a request in its stream: the first time as a new entry, re-presented in the place of entry `old`. -/
def present (s : State) (dst : Nat) (r : Req) (w : Who) (old : Option Sent) : State :=
  let t := txGet s dst r.job
  let seq := t.next
  let rp := old.isSome
  let orig := match old with | some e => if e.rp then e.orig else e.seq | none => 0
  let ack := t.respAck
  let hdr := reqHdr (deviceId s) dst seq (fget s F.ILK_EPOCH_EPOCH) r rp orig ack
  let tm := now s (whoHalf w)
  let e : Sent := {
    seq := seq, orig := orig, rp := rp, hdr := hdr, req := r, who := w, first := (old.map (·.first)).getD tm, last := tm,
    answered := none, delayed := false, due := false, abandoned := false, got := [] }
  let sent := match old with
    | some o => t.sent.map (fun x => if x.seq = o.seq then e else x)
    | none => t.sent ++ [e]
  let s := txSet s { t with next := seqNext seq, sent := sent, acked := ack }
  let s := match old, w with
    | some _, .tile ti op _ =>
      let til := tget s ti
      match til.ops.find? (fun o => o.id == op) with
      | some o =>
        let th := til.th o.thread
        tset s ti (til.setTh o.thread { th with streams := th.streams.map (fun x => if x.1 = dst ∧ x.2.1 = r.job then (dst, r.job, seq) else x) })
      | none => s
    | _, _ => s
  if isOwn s dst then ownStart s r.job seq orig rp r w
  else if mayOriginate s then sendTo s (whoHalf w) w dst true hdr r.data else s

/-- The route destination a request to `dst` would take, for the throttle. -/
def routeDst (s : State) (dst : Nat) : Nat :=
  if districtOf dst = districtOf (deviceId s) then dst else ((gatewayFor s 0 dst).2).getD dst

/-- Whether two issuers are one source of requests, for the delay list (R364). A tile's threads are held one by one at issue. -/
def sameSource : Who → Who → Bool
  | .app h c _, .app g d _ => h == g && c == d
  | .lys .., .lys .. => true
  | .cue h _ _, .cue g _ _ => h == g
  | .shn h _ _, .shn g _ _ => h == g
  | .brg h _ _, .brg g _ _ => h == g
  | _, _ => false

/-- Whether a source has a refused request that finds its half's delay list full (R364). -/
def sourceHeld (s : State) (w : Who) : Bool :=
  s.fab.tx.any (fun t => t.sent.any (fun e => e.answered == some stRetry && !e.delayed && !e.due && sameSource e.who w))

/-- Whether the throttle holds requests to a destination at their source (R363); gateway batches it never holds. -/
def throttleHolds (s : State) (dst op : Nat) : Bool := !isOwn s dst && op != 6 && mustHold s (routeDst s dst)

/-- Whether a request must wait at its source: the limit of R210, an earlier one that waits, or the throttle of R363. -/
def mustWait (s : State) (dst job op n : Nat) : Bool :=
  let t := txGet s dst job
  !t.room n || !t.backlog.isEmpty || throttleHolds s dst op

/-- The status with which the sender answers a request itself before sending it, if it does (R197, R202, R204, R219). Log entries 47 (DEDUCED), 48 (DEDUCED). -/
def senderStatus (s : State) (job dst : Nat) : State × Option Nat :=
  if !validDevice dst then (s, some stUnreachable)
  else if (jobSlot s job).isNone then (s, some stNoJob)
  else if isOwn s dst then (s, none)
  else if !member s dst then (s, some stUnreachable)
  else if districtOf dst = districtOf (deviceId s) then (s, none)
  else
    match gatewayFor s job dst with
    | (s, none) => (s, some stUnreachable)
    | (s, some _) => (s, none)

/-- The sender answers a request itself (R197, R202, R204, R219). -/
def selfAnswer (s : State) (st : Nat) (r : Req) (w : Who) : State :=
  result (noteRefusal s st (deviceId s) r.job r.addr) ⟨w, st, 0, none, []⟩

/-- Present a request in its stream, unless the sender now answers it itself (R219). -/
def presentOr (s : State) (dst : Nat) (r : Req) (w : Who) (old : Option Sent) : State :=
  match senderStatus s r.job dst with
  | (s, none) => present s dst r w old
  | (s, some st) =>
    let t := txGet s dst r.job
    let s := match old with
      | some o => txSet s { t with sent := t.sent.filter (fun x => x.seq != o.seq) }
      | none => s
    selfAnswer s st r w

/-- A unit of this device issues a request (R198). One to this device itself with an undefined OP or FN is refused before its job is
looked up (R201 steps 5 and 6). -/
def submit (s : State) (r : Req) (w : Who) : State :=
  let dst := r.addr / 2 ^ 48
  if isOwn s dst && !r.defined r.data.length 0 then selfAnswer s stBadOp r w
  else
  match senderStatus s r.job dst with
  | (s, some st) => selfAnswer s st r w
  | (s, none) =>
    if mustWait s dst r.job r.op 1 || sourceHeld s w then
      let t := txGet s dst r.job
      txSet s { t with backlog := t.backlog ++ [(r, w)] }
    else present s dst r w none

/-- The stream's next waiting request, where nothing holds it at its source. -/
def drainBacklog (s : State) (t : TxStream) : Option State :=
  match t.backlog with
  | [] => none
  | b :: bs =>
    if sourceHeld s b.2 || throttleHolds s t.dst b.1.op then none
    else some (presentOr (txSet s { t with backlog := bs }) t.dst b.1 b.2 none)

/-- Present what waits in a stream: first a refused request whose delay has passed, in the original order (R213), then the
backlog. -/
def drainOne (s : State) (t : TxStream) : Option State :=
  if !t.room 1 then none
  else
    match t.sent.find? (fun e => e.answered == some stRetry) with
    | some e => if e.due && !throttleHolds s t.dst e.req.op then some (presentOr s t.dst e.req e.who (some e)) else drainBacklog s t
    | none => drainBacklog s t

/-- Requests in the delay list of a half (R364). -/
def delayList (s : State) (h : Half) : Nat :=
  (s.fab.tx.map (fun t => (t.sent.filter (fun e => e.delayed && whoHalf e.who == h)).length)).sum

/-- A freed place of a half's delay list goes to the first request that waits for one; one whose delay has already passed is due at once
(R364). -/
def fillDelayList (s : State) (h : Half) : State :=
  if 4096 ≤ delayList s h then s
  else
    match s.fab.tx.find? (fun t => t.sent.any (fun e => e.answered == some stRetry && !e.delayed && !e.due && whoHalf e.who == h)) with
    | none => s
    | some t =>
      match t.sent.find? (fun e => e.answered == some stRetry && !e.delayed && !e.due && whoHalf e.who == h) with
      | none => s
      | some x =>
        txSet s { t with sent := t.sent.map (fun e => if e.seq = x.seq then { e with delayed := !e.late, due := e.late } else e) }

/-- An answer reaches the sending side: entry `seq` of the stream takes `st` and, unless the request is refused RETRY_AFTER,
its unit gets the result. -/
def takeAnswer (s : State) (dst job seq st value : Nat) (hseq : Option Nat) (data : List Line) : State :=
  let t := txGet s dst job
  match t.sent.find? (fun e => e.seq == seq) with
  | none => s
  | some e =>
    if e.answered.isSome then s
    else
      let into := decide (delayList s (whoHalf e.who) < 4096)
      let upd : Sent → Sent := fun x =>
        if x.seq = seq then { x with answered := some st, delayed := st == stRetry && into && !x.abandoned } else x
      let t := { t with sent := t.sent.map upd }
      let t := if isOwn s dst then { t with cum := t.respAck } else t
      let t := if e.abandoned then { t with sent := t.sent.filter (fun x => !(x.seq == seq)) } else t
      let s := txSet s t.prune
      if e.abandoned || st = stRetry then s else result s ⟨e.who, st, value, hseq, data⟩

/-- The sender answers every outstanding request of a stream itself (R204, R209, R217). -/
def failStream (s : State) (t : TxStream) (st : Nat) : State :=
  let es := t.sent.filter (fun e => !e.abandoned && (e.answered.isNone || e.answered == some stRetry))
  let s := es.foldl (fun s e => result s ⟨e.who, st, 0, none, []⟩) s
  let s := t.backlog.foldl (fun s b => result s ⟨b.2, st, 0, none, []⟩) s
  txSet s { t with sent := t.sent.filter (fun e => !es.contains e), backlog := [] }

/-- Answer everything outstanding toward a device (R209, R217). -/
def failDest (s : State) (dst st : Nat) : State :=
  (s.fab.tx.filter (fun t => t.dst == dst)).foldl (fun s t => failStream s t st) s

/-- Discard streams: their sending and receiving sides go, answers of their requests in progress are dropped, and slices that their
blocks had closed take requests again (R180, R204). -/
def discardStreams (s : State) (gone : Nat → Nat → Bool) : State :=
  let drop : InProg → InProg := fun p => match p.tgt with
    | .remote src job _ => if gone src job then { p with tgt := .dropped } else p
    | .again src job _ => if gone src job then { p with tgt := .dropped } else p
    | .own job _ => if gone (deviceId s) job then { p with tgt := .dropped } else p
    | .dropped => p
  let f := s.fab
  let f := { f with tx := f.tx.filter (fun t => !gone t.dst t.job), rx := f.rx.filter (fun r => !gone r.src r.job) }
  let f := { f with prog := f.prog.map drop, messages := f.messages.filter (fun m => !gone m.src m.job) }
  restart { s with fab := f, dep := { s.dep with blocks := s.dep.blocks.filter (fun b => !gone b.src b.job) } }

/-! ## The receiving side (R201, R209 to R215) -/

/-- The receiving stream of a source, fresh where there is none. -/
def rxGet (s : State) (src job : Nat) : RxStream :=
  (s.fab.rx.find? (fun r => r.src == src && r.job == job)).getD
    { src := src, job := job, taken := seqStart, wait := [], pend := [], retained := [], poolRef := [] }

/-- Replace a receiving stream. -/
def rxSet (s : State) (r : RxStream) : State :=
  let has := s.fab.rx.any (fun u => u.src == r.src && u.job == r.job)
  let l := if has then s.fab.rx.map (fun u => if u.src = r.src ∧ u.job = r.job then r else u) else s.fab.rx ++ [r]
  { s with fab := { s.fab with rx := l } }

/-- The cumulative point (R211): just before the earliest number taken and not answered. -/
def RxStream.cum (r : RxStream) : Nat :=
  match r.pend with
  | [] => r.taken
  | p :: ps => ((ps.foldl (fun a x => if seqNewer a x then x else a) p) + 2 ^ 32 - 1) % 2 ^ 32

/-- RESP_ACK of an arriving packet frees the responses it covers (R212). -/
def takeRespAck (s : State) (src job ack : Nat) : State :=
  if s.fab.rx.any (fun r => r.src == src && r.job == job) then
    let r := rxGet s src job
    rxSet s { r with retained := r.retained.filter (fun x => seqNewer x.seq ack), poolRef := r.poolRef.filter (fun q => seqNewer q ack) }
  else s

/-- Whether responses may leave now. -/
def mayAnswer (s : State) : Bool := !s.fab.quiet

/-- The stream half of a source (R552). -/
def streamHalf (src : Nat) : Half := Half.ofNum src

/-- Send a response packet. Log entry 46 (DEDUCED). -/
def sendResp (s : State) (dst : Nat) (hdr : BitVec 448) (data : List Line) : State :=
  if mayAnswer s then sendTo s (streamHalf dst) .none dst false hdr data else s

/-- Answer a remote request that is not counted (R211). Log entry 45 (DEDUCED). -/
def answerUncounted (s : State) (hdr : BitVec 448) (st : Nat) : State :=
  let src := hb hdr 32 16; let job := hb hdr 16 12
  sendResp (noteRefusal s st src job (hb hdr 128 64)) src
    (respHdr 0x80 st job (deviceId s) src (hb hdr 64 32) (rxGet s src job).cum none 0 0 0 0 0 0) []

/-- The status of a request from its lines (R205), and the longest delay among refused ones. -/
def progStatus (p : InProg) : Nat × Nat :=
  let as := (List.range p.n).map (fun i => ((mget p.got i none).getD ⟨0, 0, none, 0⟩ : Ans))
  (((as.find? (fun a => a.status != 0)).map (·.status)).getD 0,
    (as.filter (fun a => a.status == stRetry)).foldl (fun m a => max m a.delay) 0)

/-- The lines of a READ's answer; a line not performed is zero. -/
def progLines (p : InProg) : List Line :=
  (List.range p.n).map (fun i => match mget p.got i none with
    | some a => if a.status = 0 then BitVec.ofNat 512 a.value else 0
    | none => 0)

/-- Read-data packets of a READ's answer (R205, R208). -/
def readData (p : InProg) (st delay src dst seq cum : Nat) : List (BitVec 448 × List Line) :=
  let ls := progLines p
  let total := (p.n + 63) / 64
  (List.range total).map (fun i =>
    let d := (ls.drop (64 * i)).take 64
    (respHdr 0x81 st p.req.job src dst seq cum none delay p.req.msg i total d.length 0, d))

/-- Record a performed WRITE packet toward its message (R218). -/
def noteWrite (s : State) (src : Nat) (r : Req) : State :=
  let f := s.fab
  let old := (f.messages.find? (fun m => m.src == src && m.job == r.job && m.msg == r.msg)).getD ⟨src, r.job, r.msg, r.total, [], 0⟩
  let new := if old.pkts.contains r.pkt then old else { old with pkts := old.pkts ++ [r.pkt], lines := old.lines + r.data.length }
  let rest := f.messages.filter (fun m => !(m.src == src && m.job == r.job && m.msg == r.msg))
  if new.total ≤ new.pkts.length then { s with fab := { f with messages := rest, msgDone := f.msgDone ++ [(src, r.job, r.msg, new.lines)] } }
  else { s with fab := { f with messages := rest ++ [new] } }

/-- The mailbox slot of a depot address (R240): the cue engine runs and the slot is configured. Log entry 53 (DEDUCED). -/
def mboxSlot (s : State) (d : Nat) : Option Nat :=
  let b := fget s F.CUE_MBOX_BASE_ADDR * 4096
  if fbit s F.CUE_STATUS_READY && decide (b ≤ d) && decide (d < b + 0x400000) then
    guardOpt (fbit s F.CUE_JOB_VALID ((d - b) / 0x10000)) ((d - b) / 0x10000)
  else none

/-- A performed write into a mailbox is taken as a record, or as a packet of one (R240). A word write is taken as a line that
holds the word at its place. Log entry 53 (DEDUCED). -/
def noteMbox (s : State) (src : Nat) (p : InProg) : State :=
  let r := p.req
  let d := p.addr
  match mboxSlot s d with
  | none => s
  | some k =>
    let ls := if r.op = 5 then r.data else [BitVec.ofNat 512 (r.operand % 2 ^ (8 * r.width) * 2 ^ (8 * (d % 64)))]
    { s with fab := { s.fab with mbox := s.fab.mbox ++
        [⟨k, src, r.job, r.msg, if r.op = 5 then r.pkt else 0, if r.op = 5 then r.total else 1, ls⟩] } }

/-- A shunter command refused (R283, R289, R290): kind, and the fields that `DEP_SHN_LAST_ERR` shows. Log entry 60 (DEDUCED). -/
def shnErr (s : State) (kind st job tile : Nat) : State :=
  let s := fset (fset s F.DEP_SHN_LAST_ERR_KIND 0 kind) F.DEP_SHN_LAST_ERR_STATUS 0 (if kind = 7 then st else 0)
  fset (fset (fset s F.DEP_SHN_LAST_ERR_JOB 0 job) F.DEP_SHN_LAST_ERR_TILE 0 tile) F.DEP_SHN_LAST_ERR_VALID 0 1

/-- The event of a refused command. -/
def shnRefused (s : State) (h : Half) (slot kind job tile : Nat) : State :=
  emitLim (shnErr s kind 0 job tile) h unitDep 0x020D slot ms [(h.num, 1), (job, 12), (kind, 4)]

/-- Whether line `i` of a request was performed. -/
def InProg.performed (p : InProg) (i : Nat) : Bool := ((mget p.got i none).map (·.status)).getD 1 == 0

/-- A partial write into the command region is a bad command (R280), with neither an event counter nor a record to answer through.
Log entry 60 (DEDUCED). -/
def noteShn (s : State) (p : InProg) : State :=
  if p.req.op = 5 ∨ !p.performed 0 then s
  else
    match shnPart s p.addr with
    | some x => shnRefused s x.1 x.2 8 p.req.job 0
    | none => s

/-- What a request that reached its slices means beyond its lines. -/
def notePerformed (s : State) (src : Nat) (p : InProg) (st : Nat) : State :=
  if 64 ≤ p.slot then s
  else
    let s := if p.req.op = 2 ∨ p.req.op = 3 ∨ p.req.op = 5 then noteShn s p else s
    if st ≠ 0 then s
    else
      let s := if p.req.op = 2 ∨ p.req.op = 3 ∨ p.req.op = 5 then noteMbox s src p else s
      if p.req.op = 5 then noteWrite s src p.req else s

/-- The home sequence number a response carries (R208). -/
def progHseq (p : InProg) : Option Nat :=
  if p.n = 1 then (mget p.got 0 none).bind (·.hseq) else none

/-- The returned value. -/
def progValue (p : InProg) : Nat :=
  if p.req.op = 1 ∨ p.req.op = 3 then ((mget p.got 0 none).map (·.value)).getD 0 else 0

/-- The lines of a request whose home is not on the half that checked it. -/
def InProg.far (p : InProg) : List Nat :=
  if 64 ≤ p.slot then [] else (List.range p.n).filter (fun i => homeHalf (p.addr + 64 * i) != p.half)

/-- The answers of a request's far lines cross back (R24): a flit each, and a line where one was loaded. Log entry 81 (DESIGN CHOICE). -/
def crossBack (s : State) (p : InProg) : State :=
  let load := p.req.op = 4 ∨ 0x100 < p.req.op
  let n := (p.far.map (fun i => if load ∧ p.performed i then 2 else 1)).sum
  if n = 0 then s else brgCount s p.half.other n

/-- A request all of whose lines are answered is answered itself (R205, R208, R211, R212). -/
def finishProg (s : State) (p : InProg) : State :=
  let s := crossBack { s with fab := { s.fab with prog := s.fab.prog.filter (fun q => q.id != p.id) } } p
  let sd := progStatus p
  let st := sd.1
  let delay := if st = stRetry then sd.2 else 0
  match p.tgt with
  | .dropped => notePerformed s p.src p st
  | .own job seq =>
    let s := notePerformed (noteRefusal s st (deviceId s) job p.req.addr) (deviceId s) p st
    let ls := if p.req.op = 4 ∨ 0x100 < p.req.op then
        (if st = 0 then progLines p
         else (progLines p).take (((List.range p.n).find? (fun i => ((mget p.got i none).map (·.status)).getD 1 != 0)).getD 0))
      else []
    takeAnswer s (deviceId s) job seq st (progValue p) (progHseq p) ls
  | .again src job seq =>
    let cum := (rxGet s src job).cum
    (readData p st delay (deviceId s) src seq cum).foldl (fun s d => sendResp s src d.1 d.2) s
  | .remote src job seq =>
    let s := notePerformed (noteRefusal s st src job p.req.addr) src p st
    let r := rxGet s src job
    let r := { r with pend := r.pend.filter (· != seq) }
    let hdr := respHdr 0x80 st job (deviceId s) src seq r.cum (if st = 0 then progHseq p else none) delay (if p.req.op = 4 then p.req.msg else 0) 0 0 0 (if st = 0 then progValue p else 0)
    let rd := p.req.op == 4 && p.slot < 64 && !p.lost
    let keep : Retained := ⟨seq, hdr, guardOpt rd (reqHdr src (deviceId s) seq 0 p.req false 0 0)⟩
    let s := rxSet s (if p.lost then { r with poolRef := r.poolRef ++ [seq] } else { r with retained := r.retained ++ [keep] })
    if rd then (readData p st delay (deviceId s) src seq r.cum).foldl (fun s d => sendResp s src d.1 d.2) s
    else sendResp s src hdr []

/-- The event of a request that finds no room for its response in its stream half's pool (R212). Log entry 142 (DEDUCED). -/
def noPoolRoom (s : State) (src : Nat) (r : Req) : State :=
  emitLim s (streamHalf src) unitFab 0x0306 (streamHalf src).num ms [(r.job, 12), (src, 16)]

/-- Whether a request that arrived has a defined OP and FN, no reserved bit set, and the NFLIT of its OP (R201 step 5, R208). -/
def reqDefined (hdr : BitVec 448) (data : List Line) : Bool :=
  decide (hb hdr 0 8 < 0x80) && (reqOf hdr data).defined (hb hdr 241 7) (hdrReserved hdr)

/-- A request is taken from the ingress queue (R211) and goes through steps 5 to 12 of R201 on its stream half. Where that half's pool
has no room for the response, the request is not performed: its home slices refuse it, and one that has none is answered like a refusal
of theirs (R212). Log entries 45 (DEDUCED), 142 (DEDUCED). -/
def takeRequest (s : State) (hdr : BitVec 448) (data : List Line) : State :=
  let r := reqOf hdr data
  let src := hb hdr 32 16; let seq := hb hdr 64 32; let rp := hb hdr 248 1 == 1; let orig := hb hdr 416 32
  let x := rxGet s src r.job
  let s := rxSet s { x with taken := seq, pend := x.pend ++ [seq] }
  let room := poolHasRoom s (streamHalf src)
  let c : Check := { tgt := .remote src r.job seq, half := streamHalf src, src := src, lost := !room }
  let s := if room then s else noPoolRoom s src r
  let reply := fun (s : State) (st : Nat) => if room then progAnswer s c r st 0 else progAnswer s c r stRetry oneMicro
  if !reqDefined hdr data then reply s stBadOp
  else if r.op = 6 then reply s (if (jobSlot s r.job).isNone then stNoJob else if isGateway s then stOk else stBadOp)
  else
    match translate s (streamHalf src) r src with
    | (s, .error st) => reply s st
    | (s, .ok (k, d)) => startProg s c r k d (if rp then orig else seq) rp

/-- A duplicate (R215). -/
def takeDuplicate (s : State) (src job seq : Nat) : State :=
  let x := rxGet s src job
  match x.retained.find? (fun k => k.seq == seq) with
  | some k =>
    match k.read with
    | none => sendResp s src k.resp []
    | some h =>
      let r := reqOf h []
      match translate s (streamHalf src) r src with
      | (s, .error st) => sendResp s src (respHdr 0x80 st job (deviceId s) src seq x.cum none 0 r.msg 0 0 0 0) []
      | (s, .ok (slot, d)) =>
        startProg s { tgt := .again src job seq, half := streamHalf src, src := src, again := true } r slot d seq false
  | none =>
    if x.poolRef.contains seq then
      sendResp s src (respHdr 0x80 stRetry job (deviceId s) src seq x.cum none oneMicro 0 0 0 0 0) []
    else s

/-- Whether a source passes step 2 of R201: a member, or for the system job's writes a gateway listed for the hall (R413). -/
def admitted (s : State) (src job op : Nat) : Bool :=
  member s src || (job == 0 && op == 5 && (mget s.fab.hallGw (districtOf src) []).contains src)

/-- A request packet for this device (R201 steps 2 to 4). -/
def ingressReq (s : State) (hdr : BitVec 448) (data : List Line) : State :=
  let src := hb hdr 32 16; let job := hb hdr 16 12; let seq := hb hdr 64 32
  let s := takeRespAck s src job (hb hdr 384 32)
  if hb hdr 0 8 = 7 then s
  else if fbit s F.ILK_STATUS_FENCED || !admitted s src job (hb hdr 0 8) then answerUncounted s hdr stStale
  else if s.fab.unbound.contains job then answerUncounted s hdr (if reqDefined hdr data then stNoJob else stBadOp)
  else
    let x := rxGet s src job
    if !seqNewer seq x.taken then
      if x.pend.contains seq then s else takeDuplicate s src job seq
    else if x.wait.any (fun w => hb w.1 64 32 == seq) then s
    else if 1024 < (BitVec.ofNat 32 seq - BitVec.ofNat 32 x.cum).toNat then
      answerUncounted (emit s .up unitFab 0x0305 [(job, 12), (src, 16), (seq, 32)]) hdr stSeqWindow
    else if seq = seqNext x.taken then takeRequest s hdr data
    else rxSet s { x with wait := x.wait ++ [(hdr, data)] }

/-- The next waiting request of a stream is taken once every earlier number has been (R211). -/
def takeWaiting (s : State) (src job : Nat) : State :=
  let x := rxGet s src job
  match x.wait.find? (fun w => hb w.1 64 32 == seqNext x.taken) with
  | none => s
  | some w => takeRequest (rxSet s { x with wait := x.wait.filter (fun y => y != w) }) w.1 w.2

/-- Choose at random among the zero lines of a failed READ where it failed: the lines before the first one not performed. Log entry 9 (DESIGN CHOICE). -/
def cutRead (s : State) (ls : List Line) : State × List Line :=
  let zs := (List.range ls.length).filter (fun i => ls.getD i 0 == 0)
  match zs with
  | [] => (s, ls)
  | _ =>
    let f := fresh s
    (f.2, ls.take (zs.getD (f.1 % zs.length) 0))

/-- A response packet for this device (R208, R211, R218). -/
def responseIn (s : State) (hdr : BitVec 448) (data : List Line) : State :=
  let src := hb hdr 32 16; let job := hb hdr 16 12; let seq := hb hdr 64 32; let cum := hb hdr 96 32
  let st0 := hb hdr 8 8
  let st := if 0x0C ≤ st0 then stBadOp else st0
  if (jobSlot s job).isNone || !s.fab.tx.any (fun t => t.dst == src && t.job == job) then s
  else
    let s := if st = stStale then { s with fab := { s.fab with stale := true } } else s
    let t := txGet s src job
    let t := if seqNewer cum t.cum && !seqNewer cum ((t.next + 2 ^ 32 - 1) % 2 ^ 32) then { t with cum := cum } else t
    let s := txSet s t.prune
    if hb hdr 0 8 = 0x81 then
      let t := txGet s src job
      match t.sent.find? (fun e => e.seq == seq && e.answered.isNone && e.req.op == 4) with
      | none => s
      | some e =>
        let pk := hb hdr 192 16
        let e := if e.got.any (fun g => g.1 == pk) then e else { e with got := mins pk data e.got }
        let s := txSet s { t with sent := t.sent.map (fun x => if x.seq = seq then e else x) }
        if hb hdr 208 16 ≤ e.got.length then
          let ls := e.got.flatMap (·.2)
          let c := if st = 0 then (s, ls) else cutRead s ls
          takeAnswer c.1 src job seq st 0 none c.2
        else s
    else takeAnswer s src job seq st (hb hdr 256 64) (guardOpt (hb hdr 28 1 == 1) (hb hdr 128 32)) []

/-- A packet as it goes on from a gateway with its head flit unchanged (R220): as it came, else as this device would send it. -/
def onward (s : State) (from_ : Option Pkt) (h : Half) (hdr : BitVec 448) (data : List Line) : Pkt :=
  let tc := classOf .none hdr data
  from_.getD { half := h, tc := tc, dst := 0, ad := adaptive s tc, hops := 0, ring := none, mine := false, hdr := hdr, data := data }

/-- A packet present on half `h` of this device: step 1 of R201, then by its kind; `from_` is the packet as it came by a link. -/
def packetIn (s : State) (h : Half) (from_ : Option Pkt) (hdr : BitVec 448) (data : List Line) : State :=
  let dst := hb hdr 48 16
  let op := hb hdr 0 8
  if isOwn s dst then (if 0x80 ≤ op then (if op = 0x80 ∨ op = 0x81 then responseIn s hdr data else s) else ingressReq s hdr data)
  else if isGateway s && validDevice dst && !fbit s F.ILK_STATUS_FENCED then
    let k := onward s from_ h hdr data
    if districtOf dst = districtOf (deviceId s) then admitPkt s 0 { k with dst := dst } else gwTake s dst k
  else if 0x80 ≤ op then s
  else
    if op = 7 then s
    else answerUncounted s hdr (if fbit s F.ILK_STATUS_FENCED then stStale else stUnreachable)

/-- The half on which a packet for this device is taken: a request on its stream half, a response on the half of the unit that waits for
it (R552). -/
def takingHalf (s : State) (hdr : BitVec 448) : Half :=
  let src := hb hdr 32 16
  if hb hdr 0 8 < 0x80 then streamHalf src
  else
    match (txGet s src (hb hdr 16 12)).sent.find? (fun e => e.seq == hb hdr 64 32) with
    | some e => whoHalf e.who
    | none => .up

/-- A packet of port p leaves its ingress and is taken; one whose taking half is not its port's crosses the bridge. Log entry 81
(DESIGN CHOICE). -/
def portIn (s : State) (p : Nat) (hdr : BitVec 448) (data : List Line) : State :=
  let h := portHalf p
  let s := if isOwn s (hb hdr 48 16) && takingHalf s hdr != h then brgCount s h (1 + data.length) else s
  let t := takeIngress s p hdr data
  packetIn t.1 h t.2 hdr data

/-- A packet reaches the device at port p; it waits where it must cross a bridge that carries nothing, and behind those that wait
(R24, R552). -/
def arriveAt (s : State) (p : Nat) (hdr : BitVec 448) (data : List Line) : State :=
  if isOwn s (hb hdr 48 16) && takingHalf s hdr != portHalf p && !(brgOpen s && s.brg.inbound.isEmpty) then
    { s with brg := { s.brg with inbound := s.brg.inbound ++ [(p, hdr, data)] } }
  else portIn s p hdr data

/-- A gateway unpacks a BATCH it has taken: each inner record is presented unchanged (R221). -/
def unpack (s : State) (h : Half) (data : List Line) : State :=
  data.foldl (fun s l => packetIn s h none (BitVec.ofNat 448 (l.toNat / 2 ^ 64)) []) s

/-- Send a batch to its district's remote gateway (R220). -/
def flushOne (s : State) (i : Nat) : State :=
  let b := (mget s.fab.batches i []).take 64
  match b, remoteGw s (i / 2) with
  | [], _ => s
  | _, none => s
  | _, some g =>
    let s := { s with fab := { s.fab with batches := mput s.fab.batches i ((mget s.fab.batches i []).drop 64) [] } }
    let r : Req := {
      op := 6, fn := 0, job := 0, addr := g * 2 ^ 48, operand := 0, compare := 0, msg := 0, pkt := 0, total := 0,
      data := b.map (fun h => BitVec.ofNat 512 (h.toNat * 2 ^ 64)) }
    submit s r .none

/-- Send a district's batches, that of requests and that of responses (R220, R351). -/
def flushBatch (s : State) (d : Nat) : State := flushOne (flushOne s (2 * d)) (2 * d + 1)

/-- A request in progress all of whose lines are answered, those of the other half over the bridge. -/
def progReady (s : State) (p : InProg) : Bool :=
  (List.range p.n).all (fun i => (mget p.got i none).isSome) && (p.far.isEmpty || brgOpen s)

/-! ## Message numbers (R218) -/

/-- Whether a MSG is in use by an outstanding message of this device. -/
def msgBusy (s : State) (m : Nat) : Bool :=
  s.fab.tx.any (fun t =>
    t.sent.any (fun e => (e.req.op == 4 || e.req.op == 5) && e.req.msg == m && (e.answered.isNone || e.answered == some stRetry)) ||
    t.backlog.any (fun b => (b.1.op == 4 || b.1.op == 5) && b.1.msg == m)) ||
  s.cue.tasks.any (fun t => match t.kind with
    | .read c | .send c | .accept c => c.msg == m
    | _ => false)

/-- The first number from `m` on that no outstanding message has, among the next `n`. -/
def freeMsg (s : State) : Nat → Nat → Nat
  | 0, m => m
  | n + 1, m => if msgBusy s m then freeMsg s n ((m + 1) % 65536) else m

/-- A message number for a new message. -/
def newMsg (s : State) : State × Nat :=
  let m := freeMsg s 65535 s.fab.nextMsg
  ({ s with fab := { s.fab with nextMsg := (m + 1) % 65536 } }, m)

/-- What waited for the bridge crosses, in order, once it carries traffic. -/
def crossStep (s : State) : Option State :=
  if !brgOpen s then none
  else
    match s.brg.cross, s.brg.inbound with
    | o :: os, _ => some (crossOp { s with brg := { s.brg with cross := os } } (homeHalf o.addr).other o)
    | [], x :: xs => some (portIn { s with brg := { s.brg with inbound := xs } } x.1 x.2.1 x.2.2)
    | [], [] => none

/-- One consequence of what has happened in the fabric: what waited for the bridge crosses, an answered request is answered, a taken
BATCH unpacked, a full batch sent, a packet or request admitted that waited for room, a stream's waiting request presented. Log entry 6
(DESIGN CHOICE). -/
def fabStep (s : State) : Option State :=
  match crossStep s, s.fab.prog.find? (progReady s) with
  | some t, _ => some t
  | none, some p =>
    let s := finishProg s p
    some (match p.tgt with
      | .remote .. => if p.req.op = 6 ∧ (progStatus p).1 = 0 then unpack s p.half p.req.data else s
      | _ => s)
  | none, none =>
    match s.fab.batches.find? (fun b => decide (64 ≤ b.2.length) && (remoteGw s (b.1 / 2)).isSome), admitWaiting s, admitHeld s with
    | some b, _, _ => some (flushOne s b.1)
    | none, some t, _ => some t
    | none, none, some t => some t
    | none, none, none => s.fab.tx.findSome? (drainOne s)

/-- Every such consequence, in turn. -/
def fabRun : Nat → State → State
  | 0, s => s
  | n + 1, s => match fabStep s with
    | some t => fabRun n t
    | none => s

/-- The most consequences one command is given. Log entry 6 (DESIGN CHOICE). -/
def fabFuel : Nat := 100000

end Sys2Proof.Machine
end

