-- ==== Sys2Proof/Machine/Sha.lean ====
section
/-!
DEFINITION. SHA-256 over bytes, as the descriptor hash (R242), the consist digest (R255) and the save digests use it.
-/

namespace Sys2Proof.Machine

/-! ## The constants

SHA-256 takes its initial value from the square roots of the first eight primes and its round constants from the cube roots of the
first sixty-four: 32 bits after the binary point of each. -/

/-- The primes below 312: 64 of them, none with a divisor other than itself up to 17. -/
def shaPrimes : List Nat :=
  (List.range 312).filter (fun n => decide (2 ≤ n) && [2, 3, 5, 7, 11, 13, 17].all (fun d => n == d || n % d != 0))

/-- The largest `r` below `2 ^ n` more than `acc` whose `k`-th power does not exceed `x`, bit by bit from the top. -/
def rootBits (k x : Nat) : Nat → Nat → Nat
  | 0, acc => acc
  | n + 1, acc => rootBits k x n (if (acc + 2 ^ n) ^ k ≤ x then acc + 2 ^ n else acc)

/-- The 32 bits after the binary point of the `k`-th root of `p`. -/
def rootFrac (k p : Nat) : W32 := BitVec.ofNat 32 (rootBits k (p * 2 ^ (32 * k)) 37 0)

/-! ## The compression -/

/-- The xor of a word's rotations right by `n`, `m` and `k`. -/
def rot3 (x : W32) (n m k : Nat) : W32 := x.rotateRight n ^^^ x.rotateRight m ^^^ x.rotateRight k

/-- The xor of two rotations and a shift right, as the message schedule uses it. -/
def rotShift (x : W32) (n m k : Nat) : W32 := x.rotateRight n ^^^ x.rotateRight m ^^^ (x >>> k)

/-- One round on the eight working words, newest first in each half: `p` holds a to d, `q` holds e to h. -/
def shaRound (kw : W32) : List W32 × List W32 → List W32 × List W32
  | ([a, b, c, d], [e, f, g, h]) =>
    let mix := h + kw + rot3 e 6 11 25 + (g ^^^ (e &&& (f ^^^ g)))
    ([mix + rot3 a 2 13 22 + ((a &&& (b ||| c)) ||| (b &&& c)), a, b, c], [d + mix, e, f, g])
  | x => x

/-- The rounds; `w` is a window of sixteen words of the message schedule, oldest first. -/
def shaRounds : List W32 → List W32 → List W32 × List W32 → List W32 × List W32
  | [], _, x => x
  | k :: ks, w, x =>
    let at_ := fun i => w.getD i 0
    shaRounds ks (w.drop 1 ++ [rotShift (at_ 14) 17 19 10 + at_ 9 + rotShift (at_ 1) 7 18 3 + at_ 0]) (shaRound (k + at_ 0) x)

/-- Compress one block of sixteen words into the eight words so far. -/
def shaBlock (ks x w : List W32) : List W32 :=
  let r := shaRounds ks w (x.take 4, x.drop 4)
  List.zipWith (· + ·) x (r.1 ++ r.2)

/-- Big-endian words of a byte list. -/
def beWords : List Nat → List W32
  | a :: b :: c :: d :: r => BitVec.ofNat 32 (a * 2 ^ 24 + b * 2 ^ 16 + c * 2 ^ 8 + d) :: beWords r
  | _ => []

/-- Big-endian bytes of a number. -/
def beBytes (v : Nat) : Nat → List Nat
  | 0 => []
  | n + 1 => v / 256 ^ n % 256 :: beBytes v n

/-- Little-endian bytes of a number. -/
def leBytes (v : Nat) : Nat → List Nat
  | 0 => []
  | n + 1 => v % 256 :: leBytes (v / 256) n

/-- The blocks of the padded message. -/
def shaBlocks (ks : List W32) : Nat → List W32 → List W32 → List W32
  | 0, _, x => x
  | n + 1, w, x => shaBlocks ks n (w.drop 16) (shaBlock ks x (w.take 16))

/-- SHA-256 of a byte list, as 32 bytes: a 1 bit, zeros and the length in bits fill the last block. -/
def sha256 (m : List Nat) : List Nat :=
  let p := m ++ 0x80 :: List.replicate ((119 - m.length % 64) % 64) 0 ++ beBytes (8 * m.length) 8
  (shaBlocks (shaPrimes.map (rootFrac 3)) (p.length / 64) (beWords p) ((shaPrimes.take 8).map (rootFrac 2))).flatMap
    (fun x => beBytes x.toNat 4)

/-- A number from little-endian bytes. -/
def ofLe (b : List Nat) : Nat := b.foldr (fun x a => x + 256 * a) 0

/-- The first 8 bytes of SHA-256, read little-endian (R242, R255). -/
def hash8 (m : List Nat) : Nat := ofLe ((sha256 m).take 8)

/-- The bytes of a line. -/
def lineBytes (l : Line) : List Nat := leBytes l.toNat 64

end Sys2Proof.Machine
end

