-- ==== Sys2Proof/Machine/Lysdex.lean ====
section
/-!
DEFINITION. The Lysdex link (R474 to R490): flits and their retry, messages and credits, the companion's requests but for
management, coherence, features and link loss.
-/

namespace Sys2Proof.Machine

/-! ## Message fields (R479, R480) -/

/-- Bits of a header slot. -/
def sb (h : BitVec 128) (lo w : Nat) : Nat := bitsAt h.toNat lo w

/-- A slot from its fields (low bit, width, value). -/
def mkSlot (fs : List (Nat × Nat × Nat)) : BitVec 128 := BitVec.ofNat 128 ((fs.map (fun f => f.2.2 % 2 ^ f.2.1 * 2 ^ f.1)).sum)

/-- Payload slots that follow a header arriving at the device. -/
def lysPayload (h : BitVec 128) : Nat :=
  match sb h 0 8 with
  | 0x02 | 0x03 | 0x11 => 1
  | 0x05 => 4 * (sb h 40 6 + 1)
  | 0x09 => 4
  | 0x0A => if sb h 32 1 = 1 then 4 else 0
  | _ => 0

/-- The class of a message that arrives; CREDIT, FEATURE and reserved types take no credits. -/
def lysClass (h : BitVec 128) : Option Nat :=
  match sb h 0 8 with
  | 1 | 2 | 3 | 4 | 5 | 6 | 7 => some 0
  | 8 | 9 | 0x0A => some 1
  | 0x10 | 0x11 => some 2
  | _ => none

/-- Reserved bits of an arriving message (R480). JOB, FN and ADDR belong to the companion's requests, RECALL_ACK among them. Log entry 106 (DEDUCED). -/
def lysReserved (h : BitVec 128) : Nat :=
  let mt := sb h 0 8; let fn := sb h 32 8
  if mt = 0x20 then sb h 104 24
  else if mt = 0x21 then sb h 8 56 + sb h 71 57
  else
    sb h 47 1 + sb h 112 16
      + (if mt = 4 ∨ mt = 5 then 0 else sb h 40 6)
      + (if mt = 0x10 ∨ mt = 0x11 then 0 else sb h 46 1)
      + (if mt = 1 ∨ mt = 2 then fn / 2 else if mt = 3 then fn / 32 else if mt = 0x0A then fn / 4 else fn)

/-- A line as four payload slots, and back. -/
def lineSlots (l : Line) : List (BitVec 128) := (List.range 4).map (fun i => BitVec.ofNat 128 (l.toNat / 2 ^ (128 * i)))
def slotsLine (p : List (BitVec 128)) (i : Nat) : Line :=
  BitVec.ofNat 512 (((List.range 4).map (fun j => (p.getD (4 * i + j) 0).toNat * 2 ^ (128 * j))).sum)

/-! ## Flits (R477, R478) -/

/-- CRC-64/ECMA-182: one byte taken, and a message. -/
def crc64Byte (c : BitVec 64) (b : Nat) : BitVec 64 :=
  (List.range 8).foldl (fun c _ => if c.msb then (c <<< 1) ^^^ 0x42F0E1EBA9EA3693#64 else c <<< 1) (c ^^^ (BitVec.ofNat 64 b <<< 56))
def crc64 (bs : List Nat) : BitVec 64 := bs.foldl crc64Byte 0#64

/-- A flit without its FEC: fifteen slots, the link word, and the first six bytes of the CRC. Log entry 102 (PRESUMED). -/
def lysFlitOf (slots : List (BitVec 128)) (seq ack : Nat) (nak idle : Bool) : BitVec 2000 :=
  let body := ((List.range 15).map (fun i => (slots.getD i 0).toNat * 2 ^ (128 * i))).sum
  let word := seq % 1024 + ack % 1024 * 1024 + (if nak then 2 ^ 20 else 0) + (if idle then 2 ^ 21 else 0)
  let v := body + word * 2 ^ 1920
  BitVec.ofNat 2000 (v + (crc64 (leBytes v 244)).toNat % 2 ^ 48 * 2 ^ 1952)

/-- Whether an arriving flit's CRC is right. -/
def lysFlitOk (f : BitVec 2000) : Bool := (crc64 (leBytes f.toNat 244)).toNat % 2 ^ 48 == bitsAt f.toNat 1952 48

/-- Flit numbers compare as in R29, modulo 1,024 with a window of 512: whether `a` is newer than `b`. -/
def newer10 (a b : Nat) : Bool :=
  let d := (a % 1024 + 1024 - b % 1024) % 1024
  decide (1 ≤ d) && decide (d < 512)

/-- The latest ACK of this side: the last good number. -/
def lysAck (s : State) : Nat := (s.lys.rxExp + 1023) % 1024

/-- The credits granted by the companion, at the least: 1,024, 256 and 64 slots (R481). Log entry 101 (DESIGN CHOICE). -/
def lysGrant (c : Nat) : Nat := if c = 0 then 1024 else if c = 1 then 256 else 64

/-- Slots that a class may still use. -/
def lysCredit (s : State) (c : Nat) : Nat := lysGrant c - (mget s.lys.used c 0 - mget s.lys.freed c 0)

/-- A CREDIT message with this side's cumulative counts. Log entry 101 (DESIGN CHOICE). -/
def lysCreditMsg (s : State) : BitVec 128 :=
  mkSlot [(0, 8, 0xA0), (8, 32, mget s.lys.myFreed 0 0), (40, 32, mget s.lys.myFreed 1 0), (72, 32, mget s.lys.myFreed 2 0)]

/-- Send slots as numbered flits; what a last flit has left over carries CREDIT messages. -/
def lysFlits : Nat → State → List (BitVec 128) → State
  | 0, s, _ => s
  | n + 1, s, sl =>
    let here := sl.take 15
    let here := here ++ List.replicate (15 - here.length) (lysCreditMsg s)
    let y := s.lys
    let f := lysFlitOf here y.txSeq (lysAck s) false false
    let s := { s with lys := { y with txSeq := (y.txSeq + 1) % 1024, unacked := y.unacked ++ [(y.txSeq, here)], shown := lysAck s } }
    lysFlits n (send (fcount s F.LYS_TX_FLITS_COUNT 0 1) (.lys f)) (sl.drop 15)

/-- An acknowledgement that no flit has carried yet goes out in an idle flit (R478). Log entry 104 (DEDUCED). -/
def lysShow (s : State) : State :=
  if !fbit s F.LYS_STATUS_UP || s.lys.shown == lysAck s then s
  else send { s with lys := { s.lys with shown := lysAck s } } (.lys (lysFlitOf [] 0 (lysAck s) false true))

/-- The first message of a class that waits, if its credits and the retry buffer have room for it. Class 3 takes no credits. -/
def lysReady (s : State) (c : Nat) : Option (Nat × List (BitVec 128)) :=
  match s.lys.queue.find? (fun q => q.1 == c) with
  | some q =>
    guardOpt ((c == 3 || decide (q.2.length ≤ lysCredit s c)) && decide (s.lys.unacked.length + (q.2.length + 14) / 15 ≤ 512)) q
  | none => none

/-- Send what waits, while it can be sent. -/
def lysPumpN : Nat → State → State
  | 0, s => s
  | n + 1, s =>
    match [3, 1, 0, 2].findSome? (lysReady s) with
    | none => s
    | some q =>
      let y := s.lys
      let used := if q.1 = 3 then y.used else mput y.used q.1 (mget y.used q.1 0 + q.2.length) 0
      let s := { s with lys := { y with queue := y.queue.erase q, used := used } }
      lysPumpN n (lysFlits ((q.2.length + 14) / 15) s q.2)
def lysPump (s : State) : State := if fbit s F.LYS_STATUS_UP then lysPumpN s.lys.queue.length s else s

/-- Send a message of class `c`; with the link down it is discarded (R490). -/
def lysSend (s : State) (c : Nat) (slots : List (BitVec 128)) : State :=
  if fbit s F.LYS_STATUS_UP then lysPump { s with lys := { s.lys with queue := s.lys.queue ++ [(c, slots)] } } else s

/-- A message was taken: its slots are freed, and a CREDIT returns them (R481). -/
def lysFree (s : State) (h : BitVec 128) (n : Nat) : State :=
  match lysClass h with
  | none => s
  | some c =>
    let s := { s with lys := { s.lys with myFreed := mput s.lys.myFreed c (mget s.lys.myFreed c 0 + n) 0 } }
    lysSend s 3 [lysCreditMsg s]

/-! ## Class 0 requests (R479 to R483) -/

/-- A RESP. -/
def lysResp (s : State) (tag st : Nat) (hseq : Option Nat) (value : Nat) : State :=
  lysSend s 0 [mkSlot [(0, 8, 0x80), (8, 12, tag), (20, 8, st), (28, 1, if hseq.isSome then 1 else 0), (32, 32, hseq.getD 0), (64, 64, value)]]

/-- Feature bits (R488). -/
def lysOn (s : State) (b : Nat) : Bool := bitAt (fget s F.LYS_FEATURES_BITS) b

/-- The request that a class 0 message makes. -/
def lysReq (h : BitVec 128) (p : List (BitVec 128)) (msg : Nat) : Req :=
  let mt := sb h 0 8; let v := (p.getD 0 0).toNat
  let n := sb h 40 6
  { op := if mt = 6 then 0x101 else if mt = 7 then 0x102 else mt, fn := sb h 32 8, job := sb h 20 12, addr := sb h 48 64,
    operand := if mt = 4 then n else if mt = 2 ∨ mt = 3 then v % 2 ^ 64 else 0, compare := if mt = 3 then v / 2 ^ 64 else 0,
    msg := if mt = 4 ∨ mt = 5 then msg else 0, pkt := 0, total := if mt = 4 ∨ mt = 5 then 1 else 0,
    data := if mt = 5 then (List.range (n + 1)).map (slotsLine p) else [] }

/-- A class 0 message. -/
def lysRequest (s : State) (h : BitVec 128) (p : List (BitVec 128)) : State :=
  let mt := sb h 0 8; let tag := sb h 8 12; let dst := sb h 96 16
  if lysReserved h ≠ 0 || !s.lys.peer then lysResp s tag stBadOp none 0
  else if mt = 3 ∧ lysOn s 1 = false then lysResp s tag stBadOp none 0
  else if 6 ≤ mt ∧ (lysOn s 0 = false ∨ isOwn s dst = false) then lysResp s tag stBadOp none 0
  else if !isOwn s dst && !lysOn s 2 then lysResp s tag stUnreachable none 0
  else
    let m := if mt = 4 ∨ mt = 5 then newMsg s else (s, 0)
    let s := m.1
    let r := lysReq h p m.2
    let s := if 6 ≤ mt then
        match translate s .up r (deviceId s) with
        | (_, .ok (_, d)) => { s with lys := { s.lys with granted := mput s.lys.granted (d / 64) (r.addr + 1) 0 } }
        | _ => s
      else s
    submit s r (.lys (tag + 4096 * s.lys.gen) mt 0)

/-! ## Link up and down (R475, R476, R488, R490) -/

/-- The link goes down (R490); class 0 messages that wait behind the bridge have been taken, and complete. `cause` 1 training, 2 LRST_N, 3 replays, 4 retrain, 5 the reference clock. -/
def lysDown (s : State) (cause : Nat) : State :=
  if !fbit s F.LYS_STATUS_UP then s
  else
    let s := fset (fset s F.LYS_STATUS_UP 0 0) F.LYS_STATUS_WIDTH 0 0
    let s := s.lys.late.foldl (fun s m => if lysClass (m.headD 0) = some 0 then lysRequest s (m.headD 0) (m.drop 1) else s) s
    let rs := s.dep.recalls
    let s := { s with
      dep := { s.dep with dir := [], closed := [] }
      lys := { ({} : Lys) with lrst := s.lys.lrst, gen := s.lys.gen + 1 } }
    let s := rs.foldl closeRecall s
    emit s .up unitLys 0x0A0C [(cause, 3)]

/-- The link comes up (R488): fresh numbering and credits, and this side's FEATURE goes out. Log entry 105 (DEDUCED). -/
def lysUp (s : State) (x16 : Bool) : State :=
  if fbit s F.LYS_STATUS_UP || s.lys.lrst || !fbit s F.MOD_MSTATUS_PGOOD then s
  else
    let s := fset (fset (fcount s F.LYS_STATUS_TRAININGS 0 1) F.LYS_STATUS_UP 0 1) F.LYS_STATUS_WIDTH 0 (if x16 then 16 else 8)
    let s := fset (fset (fset s F.LYS_STATUS_FEAT_DONE 0 0) F.LYS_FEATURES_BITS 0 0) F.LYS_FEAT_PEER_BITS 0 0
    let s := { s with lys := { ({} : Lys) with gen := s.lys.gen } }
    lysSend s 3 [mkSlot [(0, 8, 0xA1), (64, 64, fget s F.LYS_FEAT_DEV_BITS)]]

/-- The features are agreed. -/
def lysAgreed (s : State) (set_ : Nat) : State :=
  let s := fsetb (fset s F.LYS_FEATURES_BITS 0 set_) F.LYS_STATUS_FEAT_DONE 0 true
  emit s .up unitLys 0x0A0B [(fget s F.LYS_STATUS_WIDTH, 5), (set_, 7)]

/-- The companion's FEATURE (R488). Log entry 105 (DEDUCED). -/
def lysFeature (s : State) (h : BitVec 128) : State :=
  if !fbit s F.LYS_STATUS_UP || lysReserved h != 0 || s.lys.peer then s
  else
    let s := fset { s with lys := { s.lys with peer := true } } F.LYS_FEAT_PEER_BITS 0 (sb h 64 7)
    if fbit s F.LYS_STATUS_FEAT_DONE then s else lysAgreed s (Nat.land (fget s F.LYS_FEAT_DEV_BITS) (sb h 64 7))

/-- No FEATURE within 100 ms. Log entry 105 (DEDUCED). -/
def lysFeatureTimeout (s : State) : State :=
  if !fbit s F.LYS_STATUS_UP || fbit s F.LYS_STATUS_FEAT_DONE then s else lysAgreed s 0

/-- A link that failed equalisation trains again (R475); so does one in recovery that has agreed on features without BOOT_RECOVERY
(R503). Log entry 109 (DEDUCED). -/
def lysTrainRetry (s : State) : State :=
  if fbit s F.LYS_STATUS_UP && fget s F.SEC_BOOT_STAGE == 6 && fbit s F.LYS_STATUS_FEAT_DONE && !lysOn s 4 then lysDown s 4
  else if fbit s F.LYS_STATUS_UP || s.lys.lrst || !fbit s F.MOD_MSTATUS_PGOOD then s
  else emit (fcount s F.LYS_STATUS_TRAININGS 0 1) .up unitLys 0x0A0C [(1, 3)]

/-- LRST_N (R476). -/
def lysReset (s : State) (low : Bool) : State :=
  let s := if low then lysDown s 2 else s
  { s with lys := { s.lys with lrst := low } }

/-- Replay the held flits from number `seq` on; the 16th replay without an advance takes the link down (R478). -/
def lysReplay (s : State) (seq : Nat) : State :=
  if !s.lys.unacked.any (fun u => !newer10 seq u.1) then s
  else if 16 ≤ s.lys.replays + 1 then lysDown s 3
  else
    let s := { s with lys := { s.lys with replays := s.lys.replays + 1 } }
    let s := fcount s F.LYS_ERRORS_REPLAYS 0 1
    (s.lys.unacked.filter (fun u => !newer10 seq u.1)).foldl
      (fun s u => send (fcount s F.LYS_TX_FLITS_COUNT 0 1) (.lys (lysFlitOf u.2 u.1 (lysAck s) false false))) s

/-- 2 µs without an advance. -/
def lysReplayTimeout (s : State) : State :=
  match s.lys.unacked with
  | [] => s
  | u :: _ => if fbit s F.LYS_STATUS_UP then lysReplay s u.1 else s

/-- An acknowledgement. -/
def lysTakeAck (s : State) (ack : Nat) : State :=
  let rest := s.lys.unacked.filter (fun u => newer10 u.1 ack)
  if rest.length < s.lys.unacked.length then lysPump { s with lys := { s.lys with unacked := rest, replays := 0 } } else s

/-- Whole messages leave the slots received. -/
def lysWhole : Nat → Lys → Lys
  | 0, y => y
  | n + 1, y =>
    match y.slots with
    | [] => y
    | h :: _ =>
      let m := 1 + lysPayload h
      if y.slots.length < m then y
      else lysWhole n { y with slots := y.slots.drop m, inq := y.inq ++ [y.slots.take m] }

/-- A flit arrives (R478), `fec` saying that the FEC corrected it. Log entry 104 (DEDUCED). -/
def lysFlitIn (s : State) (f : BitVec 2000) (fec : Bool) : State :=
  if !fbit s F.LYS_STATUS_UP then s
  else
    let s := if fec then fcount s F.LYS_ERRORS_FEC_CORR 0 1 else s
    if !lysFlitOk f then send s (.lys (lysFlitOf [] 0 (lysAck s) true true))
    else
      let seq := bitsAt f.toNat 1920 10; let ack := bitsAt f.toNat 1930 10
      let s := lysTakeAck s ack
      let s := if bitAt f.toNat 1940 then lysReplay s ((ack + 1) % 1024) else s
      if bitAt f.toNat 1941 || !fbit s F.LYS_STATUS_UP then s
      else if seq != s.lys.rxExp then s
      else
        let s := fcount s F.LYS_RX_FLITS_COUNT 0 1
        let sl := (List.range 15).map (fun i => BitVec.ofNat 128 (f.toNat / 2 ^ (128 * i)))
        let y := { s.lys with rxExp := (seq + 1) % 1024, slots := s.lys.slots ++ sl }
        { s with lys := lysWhole y.slots.length y }

/-! ## Answers (R480) -/

/-- An answer reaches the endpoint: of a request from before a link loss it is discarded (R490). Log entry 110 (DEDUCED). -/
def lysResult (s : State) (tag mt st value : Nat) (hseq : Option Nat) (data : List Line) : State :=
  if tag / 4096 ≠ s.lys.gen then s
  else
    let body := data.flatMap lineSlots
    if st ≠ 0 then lysResp s tag st none 0
    else if mt = 4 then lysSend s 0 (mkSlot [(0, 8, 0x81), (8, 12, tag)] :: body)
    else if mt = 6 ∨ mt = 7 then lysSend s 0 (mkSlot [(0, 8, 0x82), (8, 12, tag), (29, 2, mt - 5)] :: body)
    else lysResp s tag 0 hseq value

/-! ## What the companion returns (R485 to R487) -/

/-- The line that the companion returns is written at its home. -/
def lysLine (s : State) (l : Nat) (v : Line) : State :=
  let s := setDepLine s l v
  if cached s l then touch s l true else setLineErr s l 0

/-- The directory entry of a line goes. -/
def lysForget (s : State) (l : Nat) : State := { s with dep := { s.dep with dir := s.dep.dir.filter (fun e => e.line != l) } }

/-- What an EVICT or a WRITEBACK is checked as: a READ or a WRITE of its line. Log entry 107 (DEDUCED). -/
def lysReturnReq (h : BitVec 128) (p : List (BitVec 128)) : Req :=
  let mt := sb h 0 8
  { op := if mt = 8 then 4 else 5, fn := 0, job := sb h 20 12, addr := sb h 48 64, operand := 0, compare := 0, msg := 0, pkt := 0,
    total := 1, data := if mt = 8 then [] else [slotsLine p 0] }

/-- EVICT and WRITEBACK (R485, R486), checked as a load and as a store; until FEATURE is taken they are not served (R488). Log entries
105 (DEDUCED), 107 (DEDUCED). -/
def lysReturn (s : State) (h : BitVec 128) (p : List (BitVec 128)) : State :=
  let mt := sb h 0 8; let tag := sb h 8 12
  if lysReserved h ≠ 0 || !s.lys.peer || !isOwn s (sb h 96 16) then lysResp s tag stBadOp none 0
  else
    let r := lysReturnReq h p
    match translate s .up r (deviceId s) with
    | (s, .error st) => lysResp (noteRefusal s st (deviceId s) r.job r.addr) tag st none 0
    | (s, .ok (_, d)) =>
      let l := d / 64
      let e := dirEntry s l
      if mt = 8 then lysResp (lysForget s l) tag stOk none 0
      else if (e.map (·.owned)).getD false then lysResp (lysForget (lysLine s l (slotsLine p 0)) l) tag stOk none 0
      else
        let s := emitLim s (lineHalf l) unitLys 0x0A0E (lineHalf l).num ms [(64 * l, 36)]
        lysResp (noteRefusal s stPerm (deviceId s) r.job r.addr) tag stPerm none 0

/-- The recall with a tag on the link. -/
def recallBy (s : State) (tag : Nat) : Option Recall := s.dep.recalls.find? (fun r => r.tag == some tag)

/-- RECALL_ACK (R485, R486). Data for a line that is no longer listed owned is discarded. -/
def lysRecallAck (s : State) (h : BitVec 128) (p : List (BitVec 128)) : State :=
  if lysReserved h ≠ 0 then s
  else
    let stale := fun (s : State) (hf : Half) => emitLim s hf unitLys 0x0A0E hf.num ms [(sb h 8 12, 12)]
    match recallBy s (sb h 8 12) with
    | none => if sb h 32 1 = 1 then stale s .up else s
    | some r =>
      let s := if sb h 32 2 = 1 then
          (if ((dirEntry s r.line).map (·.owned)).getD false then lysLine s r.line (slotsLine p 0) else stale s (lineHalf r.line))
        else s
      closeRecall s (if sb h 33 1 = 1 then { r with keep := false } else r)

/-- RECALL_TIMEOUT (R486). -/
def recallTimeout (s : State) (tag : Nat) : State :=
  match recallBy s tag with
  | none => s
  | some r =>
    let s := fcount { s with dep := { s.dep with closed := r.line :: s.dep.closed.filter (· != r.line) } } F.LYS_STATUS_RTO 0 1
    let hf := lineHalf r.line
    closeRecall (emitLim s hf unitLys 0x0A0D hf.num ms [(64 * r.line, 36)]) { r with keep := false }

/-- Whether a recall can go from its line's half to the endpoint on the up half now; without a link it is closed at once. Log entry 81
(DESIGN CHOICE). -/
def recallCan (s : State) (r : Recall) : Bool := lineHalf r.line == .up || brgOpen s || !fbit s F.LYS_STATUS_UP

/-- Recalls not yet sent go out, each under a free tag (R480, R484). Log entry 108 (DEDUCED). -/
def sendRecalls (s : State) : State :=
  (s.dep.recalls.filter (fun r => r.tag.isNone && recallCan s r)).foldl (fun s r =>
    if !fbit s F.LYS_STATUS_UP then closeRecall s { r with keep := false }
    else
      match (List.range 4096).find? (fun t => (recallBy s t).isNone) with
      | none => s
      | some t =>
        let s := { s with dep := { s.dep with recalls := s.dep.recalls.map (fun x => if x = r then { x with tag := some t } else x) } }
        let s := if lineHalf r.line = .down then brgCount s .down 1 else s
        lysSend (fcount s F.LYS_RECALLS_COUNT 0 1) 1
          [mkSlot [(0, 8, 0x83), (8, 12, t), (48, 64, mget s.lys.granted r.line 0 - 1), (112, 2, if r.keep then 1 else 0)]]) s

/-- CREDIT (R481). Log entry 101 (DESIGN CHOICE). -/
def lysTakeCredit (s : State) (h : BitVec 128) : State :=
  if lysReserved h ≠ 0 then s
  else
    let up := fun (m : NMap Nat) (c : Nat) => mput m c (healCount (mget m c 0) (sb h (8 + 32 * c) 32) (2 ^ 32)) 0
    lysPump { s with lys := { s.lys with freed := up (up (up s.lys.freed 0) 1) 2 } }

/-- A log record yields an EVENT (R489). Log entry 113 (DEDUCED). -/
def lysEvent (s : State) (code half idx time : Nat) : State :=
  if !fbit s F.LYS_STATUS_UP || !lysOn s 3 then s
  else if lysCredit s 2 = 0 then fcount s F.LYS_STATUS_EV_DROP 0 1
  else lysSend s 2 [mkSlot [(0, 8, 0x85), (8, 16, code), (24, 1, half), (32, 32, idx), (64, 64, time)]]

/-- The message is taken out of what has arrived, where it stands there. -/
def lysTake (s : State) (m : List (BitVec 128)) : State :=
  if s.lys.inq.contains m then lysFree { s with lys := { s.lys with inq := s.lys.inq.erase m } } (m.headD 0) m.length else s

/-- Every message but management: its header decides. -/
def lysMessage (s : State) (h : BitVec 128) (p : List (BitVec 128)) : State :=
  match sb h 0 8 with
  | 1 | 2 | 3 | 4 | 5 | 6 | 7 => lysRequest s h p
  | 8 | 9 => lysReturn s h p
  | 0x0A => lysRecallAck s h p
  | 0x20 => lysTakeCredit s h
  | 0x21 => lysFeature s h
  | _ => lysResp s (sb h 8 12) stBadOp none 0

/-- The down-half line that a message of class 1 returns: it crosses the bridge to its home slice (R22, R24). -/
def lysFar (s : State) (h : BitVec 128) : Bool :=
  lysClass h == some 1 &&
    (if sb h 0 8 = 0x0A then ((recallBy s (sb h 8 12)).map (fun r => lineHalf r.line == .down)).getD false
    else match (translate s .up (lysReturnReq h []) (deviceId s)).2 with
      | .ok (_, d) => lineHalf (d / 64) == .down
      | .error _ => false)

/-- A message is presented to its home; one that crosses the bridge is counted there. Log entry 81 (DESIGN CHOICE). -/
def lysPresent (s : State) (h : BitVec 128) (p : List (BitVec 128)) : State :=
  lysMessage (if lysFar s h then brgCount s .up (1 + p.length / 4) else s) h p

/-- The endpoint presents messages of classes 0 and 1 in link order (R482): one that cannot cross the bridge yet keeps those after it
waiting. -/
def lysInOrder (s : State) (h : BitVec 128) (p : List (BitVec 128)) : State :=
  let ordered := lysClass h == some 0 || lysClass h == some 1
  if (ordered && !s.lys.late.isEmpty) || (lysFar s h && !(brgOpen s && s.brg.cross.isEmpty)) then
    { s with lys := { s.lys with late := s.lys.late ++ [h :: p] } }
  else lysPresent s h p

/-- The first message that waits behind the bridge is presented once the bridge carries it. -/
def lysLate (s : State) : Option State :=
  match s.lys.late with
  | (h :: p) :: rest => guardOpt (brgOpen s && s.brg.cross.isEmpty) (lysPresent { s with lys := { s.lys with late := rest } } h p)
  | _ => none

/-- Clear the counters (R492). -/
def lysCntClr (s : State) : State := fset (fset (fset s F.LYS_RECALLS_COUNT 0 0) F.LYS_TX_FLITS_COUNT 0 0) F.LYS_RX_FLITS_COUNT 0 0

end Sys2Proof.Machine
end

