-- ==== Sys2Proof/Machine/Log.lean ====
section
/-!
DEFINITION. The log ring and the trace ring (R516 to R518, R544).
-/

namespace Sys2Proof.Machine

/-- The ARGS of a record: each argument at its width, from a byte boundary on (R516). -/
def argBits (args : List (Nat × Nat)) : Nat :=
  (args.foldl (fun a x => (a.1 + x.1 % 2 ^ x.2 * 2 ^ a.2, a.2 + (x.2 + 7) / 8 * 8)) (0, 0)).1 % 2 ^ 128

/-- A log record's 32 bytes (R516). -/
def logBits (r : LogRec) (idx : Nat) : Nat :=
  idx % 2 ^ 32 + r.code % 65536 * 2 ^ 32 + r.half.num * 2 ^ 48 + r.unit % 128 * 2 ^ 49 + (if r.defer then 2 ^ 56 else 0)
    + r.time % 2 ^ 64 * 2 ^ 64 + argBits r.args * 2 ^ 128

/-- A cue point's 32 bytes (R518). -/
def cueBits (c : CuePoint) (idx : Nat) : Nat :=
  idx % 2 ^ 32 + 1 * 2 ^ 32 + c.half.num * 2 ^ 40 + c.job % 4096 * 2 ^ 48 + c.cue % 16384 * 2 ^ 64 + c.value % 2 ^ 32 * 2 ^ 96
    + c.time % 2 ^ 64 * 2 ^ 128 + (match c.coll with | some k => k % 1024 * 2 ^ 192 + 2 ^ 202 | none => 0)

/-- Records of the log ring. -/
def ringRecs : Nat := 131072

/-- The in-band interrupt of an event (R471). Log entry 113 (DEDUCED). -/
def i3cIbi (s : State) (code : Nat) : State :=
  if fbit s F.MOD_I3C_IBI && fget s F.MOD_I3C_DA != 0 then send s (.ibi (code / 256)) else s

/-- The log writer writes a log record (R517), through the record's home slice (R169, R172); one of the down half has crossed the
bridge as management traffic. Log entries 81 (DESIGN CHOICE), 111 (DESIGN CHOICE), 112 (DEDUCED), 151 (DESIGN CHOICE). -/
def writeLog (s : State) (r : LogRec) : State :=
  let s := if r.half = .down then brgCount s .down 1 else s
  let idx := fget s F.LOG_RING_HEAD_INDEX
  let s := unitStore s (fget s F.LOG_RING_BASE_ADDR * 0x400000 + 32 * (idx % ringRecs)) (logBits r idx) 32
  let s := fset s F.LOG_RING_HEAD_INDEX 0 (seqNext idx)
  let old := (idx + 2 ^ 32 - ringRecs) % 2 ^ 32
  let rd := fget s F.LOG_RING_READ_INDEX
  let s := if old = rd ∨ seqNewer old rd = true then emitLim (fcount s F.LOG_STATUS_LOST 0 1) .up unitLog 0x0C06 0 (1000 * ms) [] else s
  i3cIbi (lysEvent s r.code r.half.num idx r.time) r.code

/-- The log writer writes a cue point through its home slice, unless the trace ring is full (R518). Log entries 111 (DESIGN
CHOICE), 151 (DESIGN CHOICE). -/
def writeCue (s : State) (c : CuePoint) : State :=
  let idx := fget s F.LOG_TRACE_HEAD_INDEX
  let cap := fget s F.LOG_TRACE_BASE_SIZE * 0x400000 / 32
  if cap < (seqNext idx + 2 ^ 32 - fget s F.LOG_TRACE_READ_INDEX) % 2 ^ 32 then fcount s F.LOG_STATUS_TRACE_DROP 0 1
  else
    let s := unitStore s (fget s F.LOG_TRACE_BASE_ADDR * 0x400000 + 32 * (idx % cap)) (cueBits c idx) 32
    fset s F.LOG_TRACE_HEAD_INDEX 0 (seqNext idx)

/-- The oldest entry of the writer's queue, a log record or a cue point as `cue` asks, is written once the ring is open. -/
def logWrite (s : State) (cue : Bool) : State :=
  if !s.logw.ringOpen then s
  else
    match s.logw.queue with
    | [] => s
    | e :: q =>
      let t := { s with logw := { s.logw with queue := q } }
      match e, cue with
      | .log r, false => writeLog t r
      | .cue c, true => writeCue t c
      | _, _ => s

/-- Records kept on the down half go to the writer once the bridge and the clock are back (R517). Log entry 114 (DEDUCED). -/
def flushHeld (s : State) : State :=
  if s.logw.downHeld.isEmpty || downIsolated s then s
  else { s with logw := { s.logw with queue := s.logw.queue ++ s.logw.downHeld.map WEntry.log, downHeld := [] } }

end Sys2Proof.Machine
end

