-- ==== Sys2Proof/Machine/Cue.lean ====
section
/-!
DEFINITION. The cue engine (R233 to R254): counters, cues, mailbox records, collectives and gradient messages, and what each
answer to one of its requests leads to.
-/

namespace Sys2Proof.Machine

/-! ## Fields, maps and counters -/

/-- Bits [lo+w-1:lo] of a line. -/
def lb (l : Line) (lo w : Nat) : Nat := bitsAt l.toNat lo w

/-- Whether every bit outside the named fields is 0. -/
def onlyFields (l : Line) (fs : List (Nat × Nat)) : Bool := (fs.foldl (fun v f => setBits v f.1 f.2 0) l.toNat) == 0

/-- A line from (lowest bit, width, value) fields. -/
def mkLine (fs : List (Nat × Nat × Nat)) : Line := BitVec.ofNat 512 ((fs.map (fun f => f.2.2 % 2 ^ f.2.1 * 2 ^ f.1)).sum)

/-- The half whose unit serves a job slot (R546). -/
def slotHalf (k : Nat) : Half := if k < 32 then .up else .down

/-- The job a slot binds; an unbound slot gives an ID no job has. -/
def slotJob (s : State) (k : Nat) : Nat := if fbit s F.WIN_JOB_BOUND k then fget s F.WIN_JOB_JOB k else 4096

/-- The lines of a list of `n` device IDs at line `a`, and the IDs, where every line can be read (R156). -/
def mapLines (n : Nat) : Nat := (n + 31) / 32
def idsAt (s : State) (n a : Nat) : Option (List Nat) :=
  let ls := (List.range (mapLines n)).map (fun i => unitLine s (a + i))
  guardOpt (ls.all Option.isSome) ((List.range n).map (fun i => lb ((ls.getD (i / 32) none).getD 0) (16 * (i % 32)) 16))

/-- The device IDs of a map entry (valid, N, address), if it is valid (R239): it must hold this device's own ID. -/
def idsOf (s : State) (e : Bool × Nat × Nat) : Option (List Nat) :=
  if e.1 && decide (1 ≤ e.2.1) && decide (e.2.1 ≤ 16384) then
    (idsAt s e.2.1 e.2.2).bind (fun ids => guardOpt (ids.contains (deviceId s)) ids)
  else none

/-- A map entry as `CUE_MAP` holds it, and its device IDs. -/
def mapEntry (s : State) (m : Nat) : Bool × Nat × Nat := (fbit s F.CUE_MAP_VALID m, fget s F.CUE_MAP_N m, fget s F.CUE_MAP_ADDR m)
def mapIds (s : State) (m : Nat) : Option (List Nat) := idsOf s (mapEntry s m)

/-- The engine reads a map's lines at its home slices (R156, R169). -/
def readMap (s : State) (m : Nat) : State :=
  if fbit s F.CUE_MAP_VALID m then (unitReads (mapLines (fget s F.CUE_MAP_N m)) (fget s F.CUE_MAP_ADDR m) s).1 else s

/-- The job map of a slot, and this device's position in a map. -/
def jobMap (s : State) (k : Nat) : Option (List Nat) := mapIds s (fget s F.CUE_JOB_MMAP k)
def posOf (ids : List Nat) (d : Nat) : Nat := (ids.findIdx? (· == d)).getD 0
def selfPos (s : State) (k : Nat) : Nat := posOf ((jobMap s k).getD []) (deviceId s)

/-- Whether a counter lies in a slot's range (R233). -/
def ctrOk (s : State) (k c : Nat) : Bool :=
  decide (fget s F.CUE_JOB_CTR_BASE k ≤ c) && decide (c < fget s F.CUE_JOB_CTR_BASE k + fget s F.CUE_JOB_CTR_CNT k)

/-- Increment a counter. -/
def ctrInc (s : State) (c n : Nat) : State := fset s F.CUE_CTR_VALUE c (fget s F.CUE_CTR_VALUE c + n)

/-- Whether a counter has reached a threshold (R233). -/
def ctrReached (s : State) (c t : Nat) : Bool := fget s F.CUE_CTR_VALUE c == t || seqNewer (fget s F.CUE_CTR_VALUE c) t

/-- A cue-store line as the engine reads it; none where it cannot be read. -/
def storeSlot (s : State) (slot : Nat) : Nat := fget s F.CUE_STORE_BASE_ADDR * 64 + slot
def storeLine (s : State) (slot : Nat) : Option Line := unitLine s (storeSlot s slot)

/-- A cue error or bad record (R237, R240): `CUE_LAST_ERR` and event 0x0401. -/
def cueErr (s : State) (cause slot k status : Nat) : State :=
  let s := fset (fset s F.CUE_LAST_ERR_CAUSE 0 cause) F.CUE_LAST_ERR_SLOT 0 (if cause = 7 then 0 else slot)
  let s := fset (fset s F.CUE_LAST_ERR_JSLOT 0 k) F.CUE_LAST_ERR_STATUS 0 (if cause = 5 then status else 0)
  let s := fset s F.CUE_LAST_ERR_VALID 0 1
  emitLim s (slotHalf k) unitCue 0x0401 k ms [(slotJob s k, 12), (cause, 4), (slot, 14)]

/-! ## Sending -/

/-- Who sends what the engine of slot `k` awaits no answer for: no task has number 0. -/
def nobody (k : Nat) : Who := .cue (slotHalf k).num 0 0

/-- A fresh number of the engine. -/
def cueId (s : State) : State × Nat := ({ s with cue := { s.cue with nextId := s.cue.nextId + 1 } }, s.cue.nextId)

/-- Write lines as one message to the mailbox of slot `k` on device `dev` (R240). -/
def mboxSend (s : State) (k dev : Nat) (ls : List Line) (w : Who) : State :=
  let m := newMsg s
  let a := dev * 2 ^ 48 + fget s F.CUE_JOB_MBOX_WIN k * 2 ^ 42
  submit m.1 { op := 5, fn := 0, job := slotJob s k, addr := a, operand := 0, compare := 0, msg := m.2, pkt := 0, total := 1, data := ls } w

/-- Start a group of requests. -/
def cueTask (s : State) (run : Option Nat) (k : Nat) (kind : CueKind) (n : Nat) (data : NMap (List Line)) :
    State × (Nat → Who) :=
  let i := cueId s
  ({ i.1 with cue := { i.1.cue with tasks := i.1.cue.tasks ++ [⟨i.2, run, k, kind, n, 0, data⟩] } }, .cue (slotHalf k).num i.2)

/-- Read lines of this device's memory for the engine. -/
def cueRead (s : State) (k a n : Nat) (w : Who) : State :=
  let m := newMsg s
  submit m.1 { op := 4, fn := 0, job := slotJob s k, addr := a, operand := n - 1, compare := 0, msg := m.2, pkt := 0, total := 1, data := [] } w

/-- A record's header (R240). -/
def recHdr (s : State) (k type flags : Nat) : List (Nat × Nat × Nat) :=
  [(0, 8, type), (8, 8, flags), (16, 14, selfPos s k), (32, 32, fget s F.ILK_EPOCH_EPOCH)]

/-- Send records, as one group. -/
def sendRecs (s : State) (run : Option Nat) (k : Nat) (kind : CueKind) (rs : List (Nat × Line)) : State :=
  let t := cueTask s run k kind rs.length []
  rs.foldl (fun s r => mboxSend s k r.1 [r.2] (t.2 0)) t.1

/-! ## Collectives (R241 to R247) -/

/-- The collective in an index, and its update. -/
def collGet (s : State) (c : Nat) : Option Coll := s.cue.colls.find? (fun x => x.idx == c)
def collSet (s : State) (x : Coll) : State :=
  { s with cue := { s.cue with colls := s.cue.colls.map (fun y => if y.idx = x.idx then x else y) } }

/-- Whether a collective is armed and neither committed nor aborted. -/
def collLive (s : State) (c : Nat) : Bool := fget s F.CUE_COLL_STATE c == 1 || fget s F.CUE_COLL_STATE c == 2

/-- A fired cue completes one of its parts; with none left it is done and increments LDONE (R234). -/
def finishRun (s : State) (r : RunCue) : State :=
  let s := { s with cue := { s.cue with runs := s.cue.runs.filter (fun x => x.id != r.id) } }
  ctrInc s (lb r.line 64 12) 1
def runStep (s : State) (id : Nat) (f : RunCue → RunCue) : State :=
  match s.cue.runs.find? (fun r => r.id == id) with
  | none => s
  | some r =>
    let r := f r
    if r.open_ = 0 && r.closes.isNone && r.port.isNone then finishRun s r
    else { s with cue := { s.cue with runs := s.cue.runs.map (fun x => if x.id = id then r else x) } }
def runDone (s : State) (run : Option Nat) : State :=
  match run with
  | none => s
  | some id => runStep s id (fun r => { r with open_ := r.open_ - 1 })

/-- The CLOSE cues of a collective complete. -/
def closeRuns (s : State) (c : Nat) : State :=
  (s.cue.runs.filter (fun r => r.closes == some c)).foldl (fun s r => runStep s r.id (fun r => { r with closes := none })) s

/-- Whether a cue line belongs to collective `c`. -/
def cueOf (l : Line) (c : Nat) : Bool := lb l 122 1 == 1 && lb l 112 10 == c

/-- What a member remembers of a collective that is over, so that its late records are known (R246). Log entry 155 (DESIGN CHOICE). -/
def overOf (s : State) (x : Coll) : CollOver :=
  { hash := x.hash, heard := x.heard, dones := x.dones.map (fun p => x.ids.getD p 0xFFFF) ++ (if x.begun then [deviceId s] else []) }

/-- The map that a cue names, as it stood when its collective was armed (R267). -/
def cueMap (s : State) (l : Line) : Option (List Nat) :=
  let m := lb l 344 8
  match (if lb l 122 1 = 1 then collGet s (lb l 112 10) else none) with
  | none => mapIds s m
  | some x =>
    if lb x.desc 72 8 = m then some x.ids
    else match mget x.maps m none with
      | some e => idsOf s e
      | none => mapIds s m

/-- A write of a map entry: armed collectives keep the entry as it stood (R267). -/
def mapWritten (s : State) (m : Nat) : State :=
  let e := mapEntry s m
  { s with cue := { s.cue with colls := s.cue.colls.map (fun x =>
      if (mget x.maps m none).isSome then x else { x with maps := mput x.maps m (some e) none }) } }

/-- A member aborts a collective locally (R246); with `tell` it sends ABORT to every member of the map. -/
def abortColl (s : State) (c err ha hb_ : Nat) (tell : Bool) : State :=
  match collGet s c with
  | none => s
  | some x =>
    let q := s.cue
    let s := { s with cue := { q with
      colls := q.colls.filter (fun y => y.idx != c), armed := q.armed.filter (fun a => !cueOf a.line c),
      past := mput q.past c (some (overOf s x)) none,
      held := q.held.filter (fun h => !(lb h.2 96 10 == c && h.1 == x.slot)),
      watch := q.watch.map (fun w => if lb w.ann 95 1 == 1 && lb w.ann 96 10 == c && w.slot == x.slot then { w with discard := true } else w) } }
    let s := ctrInc s (lb x.desc 256 12) 1
    let s := fset (fset s F.CUE_COLL_STATE c 4) F.CUE_COLL_ERROR c err
    let s := emit s (slotHalf x.slot) unitCue 0x0402 [(slotJob s x.slot, 12), (c, 10), (err, 4)]
    let s := closeRuns s c
    if !tell then s
    else
      let l := mkLine (recHdr s x.slot 0x07 0 ++ [(64, 10, c), (76, 4, err), (128, 64, ha), (192, 64, hb_)])
      (x.ids.filter (· != deviceId s)).foldl (fun s d => mboxSend s x.slot d [l] (nobody x.slot)) s

/-- A detected mismatch (R243, R245): the abort and event 0x0403. -/
def mismatch (s : State) (c ha hb_ : Nat) : State :=
  match collGet s c with
  | none => s
  | some x =>
    let s := emit s (slotHalf x.slot) unitCue 0x0403 [(slotJob s x.slot, 12), (c, 10), (ha, 64), (hb_, 64), (deviceId s, 16)]
    abortColl s c 1 ha hb_ true

/-- A cue is in error (R237): nothing more is armed on its list, and a collective it belongs to aborts with CUE_FAULT, a refused send
included. Log entry 143 (DEDUCED). -/
def cueFail (s : State) (list slot : Nat) (line : Line) (cause status : Nat) : State :=
  let k := lb line 8 6
  let s := cueErr { s with cue := { s.cue with dead := s.cue.dead ++ [list] } } cause slot k status
  if lb line 122 1 = 1 then abortColl s (lb line 112 10) 4 0 0 true else s

/-- Whether a fired cue is a gradient send (R254). -/
def RunCue.grad (r : RunCue) : Bool := lb r.line 4 3 == 3 && (lb r.line 0 4 == 1 || lb r.line 0 4 == 2)

/-- The stationmaster context of a slot, and its update. -/
def stmGet (s : State) (k : Nat) : Stm := mget s.cue.stm k {}
def stmSet (s : State) (k : Nat) (x : Stm) : State := { s with cue := { s.cue with stm := mput s.cue.stm k x {} } }

/-- A gradient send of a step failed: that step's READY is never due (R256). -/
def gradFailed (s : State) (r : RunCue) : State :=
  let k := lb r.line 8 6
  if r.grad then stmSet s k { stmGet s k with gradFail := (stmGet s k).gradFail ++ [r.step] } else s

/-- A fired cue fails: it is over without completing. -/
def runFail (s : State) (id cause status : Nat) : State :=
  match s.cue.runs.find? (fun r => r.id == id) with
  | none => s
  | some r =>
    let s := gradFailed s r
    let s := { s with cue := { s.cue with
      runs := s.cue.runs.filter (fun x => x.id != id), tasks := s.cue.tasks.filter (fun t => t.run != some id),
      points := s.cue.points.filter (fun p => p.1 != id) } }
    cueFail s r.list r.slot r.line cause status

/-! ## Messages of cues (R235, R236) -/

/-- Lines read at a time. -/
def chunkLines : Nat := 4096

/-- The longest message (R236). -/
def maxLines : Nat := 4194240

/-- Replace the device of a global address. -/
def withDev (a dev : Nat) : Nat := a % 2 ^ 48 + dev * 2 ^ 48

/-- Read the next lines of a message. -/
def readChunk (s : State) (run k : Nat) (m : CueMsg) : State :=
  let t := cueTask s (some run) k (.read m) 1 []
  cueRead t.1 k (m.src + 64 * m.sent) (min chunkLines (m.total - m.sent)) (t.2 0)

/-- The ANNOUNCE of a message (R236, R240, R243). Log entry 9 (DESIGN CHOICE). -/
def announce (s : State) (k : Nat) (m : CueMsg) : State × Line :=
  let x := m.coll.bind (collGet s)
  let first := match x with | some y => !y.firsts.contains m.dst | none => false
  let s := match x with | some y => if first then collSet s { y with firsts := y.firsts ++ [m.dst] } else s | none => s
  let f1 := fresh s
  let f2 := fresh f1.2
  let s := if m.acc = 3 then f2.2 else s
  (s, mkLine (recHdr s k 0x01 0 ++ [(64, 16, m.msg), (80, 12, m.rdone), (92, 3, m.acc), (95, 1, if m.coll.isSome then 1 else 0),
    (96, 10, m.coll.getD 0), (106, 1, if first then 1 else 0), (128, 64, withDev m.dstA m.dst), (192, 64, withDev m.tgt m.dst),
    (256, 64, if m.acc = 3 then f1.1 else 0), (320, 64, if first then (x.map (·.hash)).getD 0 else 0),
    (384, 40, if m.acc = 3 then f2.1 else 0), (424, 40, m.step)]))

/-- Send lines of a message: its ANNOUNCE first, then WRITE packets of up to 64 lines. -/
def sendChunk (s : State) (run k : Nat) (m : CueMsg) (ls : List Line) : State :=
  let n := (ls.length + 63) / 64
  let a := m.sent = 0
  let t := cueTask s (some run) k (.send { m with sent := m.sent + ls.length }) (n + (if a then 1 else 0)) []
  let s := if a then (let p := announce t.1 k m; mboxSend p.1 k m.dst [p.2] (t.2 0)) else t.1
  (List.range n).foldl (fun s i =>
    submit s { op := 5, fn := 0, job := slotJob s k, addr := withDev (m.dstA + 64 * m.sent + 4096 * i) m.dst, operand := 0, compare := 0,
               msg := m.msg, pkt := m.sent / 64 + i, total := (m.total + 63) / 64, data := (ls.drop (64 * i)).take 64 } (t.2 0)) s

/-- A data message starts. -/
def startMsg (s : State) (run k : Nat) (line : Line) (dst src dstA tgt n : Nat) : State :=
  let m := newMsg s
  let st := ((s.cue.runs.find? (fun r => r.id == run)).map (·.step)).getD 0
  readChunk m.1 run k { step := st, dst := dst, src := src, dstA := dstA, tgt := tgt, total := n, sent := 0, msg := m.2, acc := lb line 4 3,
                        rdone := lb line 80 12, coll := guardOpt (lb line 122 1 == 1) (lb line 112 10) }

/-! ## Arming and firing (R234, R235, R237) -/

/-- The error of a cue line, if any (R237): reserved values and fields, counters, message length, map and distance. -/
def cueBad (s : State) (l : Line) : Option Nat :=
  let op := lb l 0 4; let k := lb l 8 6; let nx := lb l 96 15; let len := lb l 320 22
  if 7 ≤ op ∨ 4 ≤ lb l 4 3 ∨ lb l 14 2 ≠ 0 ∨ lb l 28 4 ≠ 0 ∨ lb l 76 4 ≠ 0 ∨ lb l 92 4 ≠ 0 ∨ lb l 111 1 ≠ 0
      ∨ (0x4000 ≤ nx ∧ nx ≠ 0x7FFF) ∨ lb l 123 5 ≠ 0 ∨ lb l 342 2 ≠ 0 ∨ lb l 360 152 ≠ 0 ∨ lb l 352 8 = 0x80 then some 1
  else if op = 5 ∧ 255 ≤ len then some 1
  else if !ctrOk s k (lb l 16 12) || !ctrOk s k (lb l 64 12) || (decide (1 ≤ op ∧ op ≤ 3) && !ctrOk s k (lb l 80 12)) then some 2
  else if op = 1 ∧ maxLines < len + 1 then some 3
  else if op = 1 ∨ op = 2 ∨ op = 3 then
    match cueMap s l with
    | none => some 4
    | some ids => if op = 1 ∧ sext (lb l 352 8) 8 % (ids.length : Int) = 0 then some 4 else none
  else none

/-- Arm a cue slot on a list (R235, R237). Log entry 143 (DEDUCED). -/
def armCue (s : State) (slot list : Nat) : State :=
  match unitRead s (storeSlot s slot) with
  | (s, none) => cueErr { s with cue := { s.cue with dead := s.cue.dead ++ [list] } } 5 slot 0 stUncorr
  | (s, some l) =>
    let s := if lb l 0 4 = 1 ∨ lb l 0 4 = 2 ∨ lb l 0 4 = 3 then readMap s (lb l 344 8) else s
    match cueBad s l with
    | some c => cueFail s list slot l c 0
    | none =>
      if 4096 ≤ s.cue.armed.length then s
      else { s with cue := { s.cue with armed := s.cue.armed ++ [⟨slot, list, l⟩] } }

/-- The device at this device's position plus DIST along a cue's map. -/
def distDev (s : State) (ids : List Nat) (l : Line) : Nat :=
  ids.getD ((((posOf ids (deviceId s) : Int) + sext (lb l 352 8) 8) % (ids.length : Int)).toNat) 0

/-- A cue point reaches the log writer (R238, R544): dropped without counting while trace is off, and counted where 256 or
more entries are queued. -/
def cuePoint (s : State) (slot : Nat) (l : Line) : State :=
  if !fbit s F.MODE_STATE_TRACE then s
  else if 256 ≤ s.logw.queue.length then fcount s F.LOG_STATUS_TRACE_DROP 0 1
  else
    let k := lb l 8 6
    let h := slotHalf k
    let p : CuePoint := {
      half := h, job := slotJob s k, cue := slot, value := fget s F.CUE_CTR_VALUE (lb l 16 12), time := now s h,
      coll := guardOpt (lb l 122 1 == 1) (lb l 112 10) }
    { s with logw := { s.logw with queue := s.logw.queue ++ [.cue p] } }

/-- What firing a cue of the wanted operation does before the operation itself: the cue is no longer armed, it is counted,
its cue point is written and NEXT is armed. The answer is the fired cue, as a run with `open_` parts. -/
def fire (s : State) (slot op : Nat) (open_ : Nat) : State × Option RunCue :=
  match s.cue.armed.find? (fun a => a.slot == slot && lb a.line 0 4 == op && ctrReached s (lb a.line 16 12) (lb a.line 32 32)) with
  | none => (s, none)
  | some a =>
    let s := { s with cue := { s.cue with armed := s.cue.armed.filter (fun x => x != a) } }
    let bad := if lb a.line 122 1 = 1 ∧ collLive s (lb a.line 112 10) = false then some 6 else cueBad s a.line
    match bad with
    | some c => (cueFail s a.list slot a.line c 0, none)
    | none =>
      let s := fcount s F.CUE_FIRED_COUNT 0 1
      let s := if lb a.line 7 1 = 1 then cuePoint s slot a.line else s
      let nx := lb a.line 96 15
      let s := if nx < 0x4000 ∧ !s.cue.dead.contains a.list then armCue s nx a.list else s
      let i := cueId s
      let r : RunCue := {
        id := i.2, slot := slot, list := a.list, line := a.line, open_ := open_, closes := none, port := none,
        step := fget s F.STM_STEP_STEP (lb a.line 8 6) }
      ({ i.1 with cue := { i.1.cue with runs := i.1.cue.runs ++ [r] } }, some r)

/-- NOP. -/
def fireNop (s : State) (slot : Nat) : State :=
  match fire s slot 0 1 with
  | (s, some r) => runDone s (some r.id)
  | (s, none) => s

/-- SHIFT (R235). -/
def fireShift (s : State) (slot : Nat) : State :=
  match fire s slot 1 1 with
  | (s, none) => s
  | (s, some r) =>
    let l := r.line
    let ids := (cueMap s l).getD []
    startMsg s r.id (lb l 8 6) l (distDev s ids l) (lb l 128 64) (lb l 192 64) (lb l 256 64) (lb l 320 22 + 1)

/-- PERMUTE: the send list is read first. -/
def firePermute (s : State) (slot : Nat) : State :=
  match fire s slot 2 1 with
  | (s, none) => s
  | (s, some r) =>
    let k := lb r.line 8 6
    let n := lb r.line 320 22 + 1
    let t := cueTask s (some r.id) k (.list n) (((n + 1) / 2 + chunkLines - 1) / chunkLines) []
    let reads := (List.range (((n + 1) / 2 + chunkLines - 1) / chunkLines))
    reads.foldl (fun s i => cueRead s k (lb r.line 128 64 + 64 * chunkLines * i) (min chunkLines ((n + 1) / 2 - chunkLines * i)) (t.2 i)) t.1

/-- The entries of a send list: MEMBER, lines, source, DST, TGT, and whether every other bit is 0. -/
def listEntries (ls : List Line) (n : Nat) : List (Nat × Nat × Nat × Nat × Nat × Bool) :=
  (List.range n).map (fun i =>
    let e := lb (ls.getD (i / 2) 0) (256 * (i % 2)) 256
    (bitsAt e 0 14, bitsAt e 16 22 + 1, bitsAt e 64 64, bitsAt e 128 64, bitsAt e 192 64,
      bitsAt e 14 2 == 0 && bitsAt e 38 26 == 0))

/-- The send list is at hand: every entry's message starts, or the cue is in error. -/
def startList (s : State) (run n : Nat) (ls : List Line) : State :=
  match s.cue.runs.find? (fun r => r.id == run) with
  | none => s
  | some r =>
    let ids := (cueMap s r.line).getD []
    let es := listEntries ls n
    if es.any (fun e => !e.2.2.2.2.2) then runFail s run 1 0
    else if es.any (fun e => decide (ids.length ≤ e.1)) then runFail s run 4 0
    else if es.any (fun e => decide (maxLines < e.2.1)) then runFail s run 3 0
    else
      let s := runStep s run (fun r => { r with open_ := n })
      es.foldl (fun s e => startMsg s run (lb r.line 8 6) r.line (ids.getD e.1 0) e.2.2.1 e.2.2.2.1 e.2.2.2.2.1 e.2.1) s

/-- INC: records of 255, the last with the remainder (R235). -/
def fireInc (s : State) (slot : Nat) : State :=
  match fire s slot 3 1 with
  | (s, none) => s
  | (s, some r) =>
    let l := r.line
    let k := lb l 8 6
    let d := distDev s ((cueMap s l).getD []) l
    let n := lb l 320 22 + 1
    let c := (n + 254) / 255
    let rec_ : Nat → Line := fun i =>
      mkLine (recHdr s k 0x02 0 ++ [(64, 12, lb l 80 12), (80, 8, if i + 1 = c then n - 255 * i else 255)])
    sendRecs s (some r.id) k .recs ((List.range c).map (fun i => (d, rec_ i)))

/-- CLOSE: DONE goes to the leader, position 0 of the map (R245). -/
def fireClose (s : State) (slot : Nat) : State :=
  match fire s slot 4 1 with
  | (s, none) => s
  | (s, some r) =>
    let c := lb r.line 112 10
    match collGet s c with
    | none => runFail s r.id 6 0
    | some x =>
      let s := runStep s r.id (fun r => { r with closes := some c })
      let s := fset (collSet s { x with begun := true }) F.CUE_COLL_STATE c 2
      sendRecs s (some r.id) x.slot .recs [(x.ids.getD 0 0, mkLine (recHdr s x.slot 0x05 0 ++ [(64, 10, c), (128, 64, x.hash)]))]

/-- Whether a step's gradient sends have all completed (R254, R256). -/
def gradsDone (s : State) (k st : Nat) : Bool :=
  !s.cue.runs.any (fun r => r.grad && lb r.line 8 6 == k && r.step == st) && !(stmGet s k).gradFail.contains st

/-- READY goes to the stationmaster for step `st` (R235); a draining device sends none for a step after the one open at the request
(R467), and no device one for the step in which a half reset (R433). Log entry 123 (DEDUCED). -/
def sendReady (s : State) (k run st mb : Nat) : State :=
  if (match s.drain with | some d => !d.steps.contains (k, st) | none => false) || s.brg.noReady.contains (k, st) then runDone s (some run)
  else
    let s := stmSet s k { stmGet s k with sentReady := some (st, mb) }
    sendRecs s (some run) k .recs [((stmGet s k).force.primary, mkLine (recHdr s k 0x10 0 ++ [(64, 40, st), (104, 8, mb)]))]

/-- A READY cue fires for the step this device works on: READY goes once the step's gradient sends have completed (R256). Log entry 123 (DEDUCED). -/
def fireReady (s : State) (slot : Nat) : State :=
  match fire s slot 5 1 with
  | (s, none) => s
  | (s, some r) =>
    let k := lb r.line 8 6
    let mb := lb r.line 320 22 + 1
    if gradsDone s k r.step then sendReady s k r.id r.step mb
    else stmSet s k { stmGet s k with readyQ := (stmGet s k).readyQ ++ [(r.id, r.step, mb)] }

/-- A READY that waited and can now go (R256). -/
def readyStep (s : State) : Option State :=
  s.cue.stm.findSome? (fun e => (e.2.readyQ.find? (fun q => gradsDone s e.1 q.2.1)).map (fun q =>
    sendReady (stmSet s e.1 { stmGet s e.1 with readyQ := (stmGet s e.1).readyQ.erase q }) e.1 q.1 q.2.1 q.2.2))

/-- POINTS: the port's steer is asked for (R318, R319). -/
def firePoints (s : State) (slot : Nat) : State :=
  match fire s slot 6 1 with
  | (s, none) => s
  | (s, some r) =>
    let sel := lb r.line 128 16
    let s := runStep s r.id (fun r => { r with port := some (sel % 32) })
    { s with cue := { s.cue with points := s.cue.points ++ [(r.id, sel)] } }

/-! ## Gradients (R250 to R254) -/

/-- Bucket size and values per record of a slot. -/
def bkOf (s : State) (k : Nat) : Nat := 2048 * 2 ^ fget s F.CUE_JOB_BK k
def kOf (s : State) (k : Nat) : Nat := 64 * 2 ^ fget s F.CUE_JOB_K k

/-- One record (R251, R253): what it accumulates as (element, value), or the reason and element offset that poison it. -/
def gradRecord (bk n base : Nat) (b scales : List Nat) : Except (Nat × Nat) (List (Nat × Nat)) :=
  let nb := bk / 32
  let idx := (List.range n).map (fun i => b.getD (nb + 2 * i) 0 + 256 * b.getD (nb + 2 * i + 1) 0)
  let val := (List.range n).map (fun i => b.getD (nb + 2 * n + i) 0)
  match (List.range nb).find? (fun j => b.getD j 0 == 0xFF) with
  | some j => .error (1, base + 32 * j)
  | none =>
    match (List.range nb).find? (fun j => b.getD j 0 != scales.getD j 0) with
    | some j => .error (2, base + 32 * j)
    | none =>
      match (List.range n).find? (fun i => decide (8192 ≤ idx.getD i 0) ||
          (decide (0 < i) && decide (idx.getD i 0 % 8192 ≤ idx.getD (i - 1) 0 % 8192))) with
      | some i => .error (3, base + idx.getD i 0 % 8192)
      | none => .ok ((List.range n).map (fun i => (base + idx.getD i 0, wrap (sext (val.getD i 0) 8) 32)))

/-- The records of a message, in bucket order: all that is accumulated, and the first poisoning. -/
def gradRecords (bk n b0 : Nat) : Nat → Nat → List Nat → List Nat → List (Nat × Nat) × Option (Nat × Nat)
  | 0, _, _, _ => ([], none)
  | c + 1, r, b, sc =>
    let size := bk / 32 + 3 * n
    let rest := gradRecords bk n b0 c (r + 1) (b.drop size) (sc.drop (bk / 32))
    match gradRecord bk n ((b0 + r) * bk) (b.take size) (sc.take (bk / 32)) with
    | .ok adds => (adds ++ rest.1, rest.2)
    | .error p => (rest.1, some p)

/-- Fields of an ANNOUNCE. -/
def annStage (l : Line) : Nat := lb l 128 64
def annTgt (l : Line) : Nat := lb l 192 64
def annAcc (l : Line) : Nat := lb l 92 3

/-- The sender of a watched message gets ACCEPT (R253). -/
def sendAccept (s : State) (w : Watch) : State :=
  mboxSend s w.slot w.src [mkLine (recHdr s w.slot 0x08 0 ++ [(64, 16, w.msg)])] (nobody w.slot)

/-- Accumulate integers at words from a target address, as one group of requests. -/
def accumulate (s : State) (k tgt : Nat) (kind : CueKind) (adds : List (Nat × Nat)) : State :=
  let t := cueTask s none k kind adds.length []
  adds.foldl (fun s a =>
    submit s { op := 3, fn := 6, job := slotJob s k, addr := tgt + 4 * a.1, operand := a.2, compare := 0, msg := 0, pkt := 0, total := 0, data := [] } (t.2 0)) t.1

/-- Read the scales a gradient message is checked against: those of its buckets, from SCL on. -/
def readScales (s : State) (w : Watch) (bytes : List Nat) : State :=
  let bk := bkOf s w.slot
  let cnt := bytes.length / (bk / 32 + 3 * kOf s w.slot)
  let a := lb w.ann 256 64 + lb w.ann 384 40 * (bk / 32)
  let n := (a % 64 + cnt * (bk / 32) + 63) / 64
  let t := cueTask s none w.slot (.scales w bytes) ((n + chunkLines - 1) / chunkLines) []
  if n = 0 then sendAccept s w
  else (List.range ((n + chunkLines - 1) / chunkLines)).foldl (fun s i =>
    cueRead s w.slot (a - a % 64 + 64 * chunkLines * i) (min chunkLines (n - chunkLines * i)) (t.2 i)) t.1

/-- A gradient message with its scales at hand: accumulate what its records carry, keep it in the log, and go on. -/
def applyGrad (s : State) (w : Watch) (bytes sc : List Nat) : State :=
  let bk := bkOf s w.slot; let n := kOf s w.slot
  let a := lb w.ann 256 64 + lb w.ann 384 40 * (bk / 32)
  let g := gradRecords bk n (lb w.ann 384 40) (bytes.length / (bk / 32 + 3 * n)) 0 bytes (sc.drop (a % 64))
  let s := { s with cue := { s.cue with
    glog := s.cue.glog ++ [⟨w.slot, lb w.ann 16 14, lb w.ann 424 40, g.1.map (fun x => (annTgt w.ann + 4 * x.1, x.2))⟩] } }
  let p := g.2
  match g.1 with
  | [] => (let t := cueTask s none w.slot (.gradApply w p) 1 []
           result t.1 ⟨t.2 0, 0, 0, none, []⟩)
  | adds => accumulate s w.slot (annTgt w.ann) (.gradApply w p) adds

/-- The accumulates are done: POISON to the stationmaster first where the contributor is poisoned (R253), else ACCEPT. -/
def gradDone (s : State) (w : Watch) (p : Option (Nat × Nat)) : State :=
  match p with
  | none => sendAccept s w
  | some (reason, off) =>
    let k := w.slot; let st := lb w.ann 424 40; let cp := lb w.ann 16 14
    let s := emit s (slotHalf k) unitCue 0x0407 [(slotJob s k, 12), (st, 40), (cp, 14), (reason, 4), (off, 64)]
    sendRecs s none k (.poison w) [((stmGet s k).force.primary,
      mkLine (recHdr s k 0x12 0 ++ [(64, 40, st), (104, 14, cp), (118, 4, reason), (128, 64, off)]))]

/-- A counter named by a received record is incremented if it lies in the slot's range. -/
def recvInc (s : State) (k c n : Nat) : State := if ctrOk s k c then ctrInc s c n else cueErr s 2 0 k 0

/-- Read staged lines. -/
def readStaged (s : State) (w : Watch) (kind : CueKind) (k : Nat) (n : Nat) (data : NMap (List Line)) : State :=
  let t := cueTask s none w.slot kind 1 data
  cueRead t.1 w.slot (annStage w.ann + 64 * k) (min chunkLines (n - k)) (t.2 k)

/-- Staged lines are applied word by word to the target (R236). -/
def applyStaged (s : State) (w : Watch) (k n : Nat) (ls : List Line) : State :=
  let fn := if annAcc w.ann = 1 then 6 else 7
  let t := cueTask s none w.slot (.apply w (k + ls.length) n) (16 * ls.length) []
  (ls.zipIdx).foldl (fun s l => (List.range 16).foldl (fun s j =>
    submit s { op := 3, fn := fn, job := slotJob s w.slot, addr := annTgt w.ann + 64 * (k + l.2) + 4 * j,
               operand := lb l.1 (32 * j) 32, compare := 0, msg := 0, pkt := 0, total := 0, data := [] } (t.2 0)) s) t.1

/-- A watched message has completed (R218, R236, R253, R254). Under the step protocol an ACC 0 message outside a collective may be one of
parameters, and which shard's it is nothing in it says: an open value decides both. Log entry 9 (DESIGN CHOICE). -/
def messageComplete (s : State) (src job msg : Nat) : State :=
  match s.fab.msgDone.find? (fun d => d.1 == src && d.2.1 == job && d.2.2.1 == msg),
        s.cue.watch.find? (fun w => w.src == src && w.job == job && w.msg == msg) with
  | some d, some w =>
    let s := { s with fab := { s.fab with msgDone := s.fab.msgDone.erase d }, cue := { s.cue with watch := s.cue.watch.erase w } }
    let n := d.2.2.2
    let k := w.slot
    if w.discard then s
    else if annAcc w.ann = 0 then
      if (stmGet s k).force.enable && lb w.ann 95 1 == 0 then
        let f := fresh s
        let sh := f.1 / 2 % 16384
        let x := stmGet f.2 k
        if f.1 % 2 = 0 then recvInc f.2 k (lb w.ann 80 12) 1
        else if x.shards.contains sh then f.2 else recvInc (stmSet f.2 k { x with shards := x.shards ++ [sh] }) k (lb w.ann 80 12) 1
      else recvInc s k (lb w.ann 80 12) 1
    else if annAcc w.ann = 3 then
      if lb w.ann 424 40 < fget s F.STM_STEP_STEP k then sendAccept s w else readStaged s w (.grad w 0 n) 0 n []
    else readStaged s w (.staged w 0 n) 0 n []
  | _, _ => s

end Sys2Proof.Machine
end

