-- ==== Sys2Proof/Machine/Ecdsa.lean ====
section
/-!
DEFINITION. ECDSA verification on P-256 with SHA-256, as R499, R506 and R508 name it. The spec names the algorithm of FIPS
186-5 and gives none of its constants: PRESUMED (assumption log).
-/

namespace Sys2Proof.Machine

/-- The field prime, the group order, and the coefficient b of P-256. Log entry 126 (PRESUMED). -/
def p256p : Nat := 0xffffffff00000001000000000000000000000000ffffffffffffffffffffffff
def p256n : Nat := 0xffffffff00000000ffffffffffffffffbce6faada7179e84f3b9cac2fc632551
def p256b : Nat := 0x5ac635d8aa3a93e7b3ebbd55769886bc651d06b0cc53b0f63bce3c3e27d2604b

/-- The base point. Log entry 126 (PRESUMED). -/
def p256G : Nat × Nat :=
  (0x6b17d1f2e12c4247f8bce6e563a440f277037d812deb33a0f4a13945d898c296,
   0x4fe342e2fe1a7f9b8ee7eb4a7c0f9e162bce33576b315ececbb6406837bf51f5)

/-- `b ^ e mod m`, over the lowest `k` bits of the exponent. -/
def powMod (m : Nat) : Nat → Nat → Nat → Nat
  | 0, _, _ => 1 % m
  | k + 1, b, e => let r := powMod m k (b * b % m) (e / 2); if e % 2 = 1 then b * r % m else r

/-- The inverse modulo a prime. -/
def invMod (m v : Nat) : Nat := powMod m 256 (v % m) (m - 2)

/-- A point of the curve; none is the point at infinity. -/
abbrev P256 := Option (Nat × Nat)

/-- Point addition. -/
def p256Add (x y : P256) : P256 :=
  match x, y with
  | none, q => q
  | q, none => q
  | some (x1, y1), some (x2, y2) =>
    if x1 = x2 ∧ (y1 + y2) % p256p = 0 then none
    else
      let l := if x1 = x2 then (3 * x1 * x1 + 3 * (p256p - 1)) * invMod p256p (2 * y1) % p256p
        else (y2 + p256p - y1) * invMod p256p (x2 + p256p - x1) % p256p
      let x3 := (l * l + 2 * p256p - x1 - x2) % p256p
      some (x3, (l * (x1 + p256p - x3) + p256p - y1) % p256p)

/-- Multiple of a point, over the lowest `k` bits of the factor. -/
def p256Mul : Nat → Nat → P256 → P256
  | 0, _, _ => none
  | k + 1, e, q => let r := p256Mul k (e / 2) (p256Add q q); if e % 2 = 1 then p256Add q r else r

/-- A number from big-endian bytes. -/
def ofBe (b : List Nat) : Nat := b.foldl (fun a x => a * 256 + x) 0

/-- Whether 64 bytes are a point of the curve. -/
def p256On (x y : Nat) : Bool :=
  decide (x < p256p) && decide (y < p256p) && y * y % p256p == (x * x * x + 3 * (p256p - 1) * x + p256b) % p256p

/-- Whether the 64-byte signature holds over the message under the 64-byte public key. Log entry 126 (PRESUMED). -/
def ecdsaOk (key msg sig : List Nat) : Bool :=
  let qx := ofBe (key.take 32); let qy := ofBe (key.drop 32)
  let r := ofBe (sig.take 32); let s := ofBe (sig.drop 32)
  let z := ofBe (sha256 msg)
  let w := invMod p256n s
  p256On qx qy && decide (1 ≤ r) && decide (r < p256n) && decide (1 ≤ s) && decide (s < p256n) &&
    (match p256Add (p256Mul 256 (z * w % p256n) (some p256G)) (p256Mul 256 (r * w % p256n) (some (qx, qy))) with
     | none => false
     | some (x, _) => x % p256n == r)

end Sys2Proof.Machine
end

