-- ==== Sys2Proof/Machine/Logbook.lean ====
section
/-!
DEFINITION. Firmware banks as the security core verifies them (R499, R500), and the logbook: sealing records, the daily
budget, compaction (R519 to R524).
-/

namespace Sys2Proof.Machine

/-! ## Banks -/

/-- `n` bytes of a byte reader from `a` on. -/
def bytesFrom (rd : Nat → Nat) (a n : Nat) : List Nat := (List.range n).map (fun i => rd (a + i))

/-- `n` little-endian bytes of a byte list at `o`. -/
def leAt (b : List Nat) (o n : Nat) : Nat := ofLe ((b.drop o).take n)

/-- Whether `n` bytes at `o` are all 0. -/
def zerosAt (b : List Nat) (o n : Nat) : Bool := ((b.drop o).take n).all (· == 0)

/-- The image that a header describes (R499). -/
def imageOf (h : List Nat) : Image :=
  { typ := leAt h 4 1, svn := leAt h 6 2, build := leAt h 8 4, hand := leAt h 16 2, handMin := leAt h 18 2, digest := leAt h 64 32 }

/-- Whether the image or manifest of type `t` at offset `o` stands whole within `limit` bytes, with its reserved fields 0 and
its digest right. -/
def imageWhole (rd : Nat → Nat) (limit o t : Nat) : Bool :=
  let h := bytesFrom rd o 256
  let len := leAt h 12 4
  leAt h 0 4 == 0x48553249 && leAt h 4 1 == t && zerosAt h 20 44 && zerosAt h 160 96 && len % 64 == 0 &&
    decide (o + 256 + len ≤ limit) && sha256 (bytesFrom rd (o + 256) len) == (h.drop 64).take 32

/-- The key manifest's body, where the manifest verifies against the root key of the boot ROM. -/
def manifest (rd : Nat → Nat) (limit : Nat) : Option (List Nat) :=
  let h := bytesFrom rd 0 256
  let body := bytesFrom rd 256 (leAt h 12 4)
  guardOpt (imageWhole rd limit 0 0 && decide (321 ≤ leAt h 12 4) && ofBe (sha256 (body.take 64)) == Config.rootKeyHash &&
    ecdsaOk (body.take 64) (h.take 96) ((h.drop 96).take 64)) body

/-- Release key `k` of a manifest, unless it is revoked. -/
def releaseKey (body : List Nat) (k : Nat) : Option (List Nat) :=
  guardOpt (decide (k < 4) && !bitAt (leAt body 320 1) k) ((body.drop (64 + 64 * k)).take 64)

/-- The images of the given types from offset `o` on, each on the next 4 KiB boundary, where all of them verify. Log entry 125 (DEDUCED). -/
def bankImages (rd : Nat → Nat) (limit : Nat) (keys : List Nat) : List Nat → Nat → Option (List Image)
  | [], _ => some []
  | t :: ts, o =>
    let o := (o + 4095) / 4096 * 4096
    let h := bytesFrom rd o 256
    match releaseKey keys (leAt h 5 1) with
    | none => none
    | some k =>
      if imageWhole rd limit o t && ecdsaOk k (h.take 96) ((h.drop 96).take 64) then
        (bankImages rd limit keys ts (o + 256 + leAt h 12 4)).map (imageOf h :: ·)
      else none

/-- A bank's five images, or the result code with which it does not verify (R500): 1 signature or digest, 2 below the floor. Log entry 124 (DEDUCED). -/
def verifyBank (rd : Nat → Nat) (limit floor : Nat) : Except Nat (List Image) :=
  match manifest rd limit with
  | none => .error 1
  | some keys =>
    match bankImages rd limit keys [1, 2, 3, 4, 5] (256 + leAt (bytesFrom rd 0 256) 12 4) with
    | none => .error 1
    | some is => if is.any (fun i => decide (i.svn < floor)) then .error 2 else .ok is

/-- The size of a firmware bank. -/
def bankSize : Nat := 0xC00000

/-- The bytes of a flash region. -/
def memRd (m : Mem) : Nat → Nat := fun a => (mget m a 0).toNat

/-- The contents of bank 0 (A) or 1 (B). -/
def bankMem (s : State) (b : Nat) : Mem := if b = 0 then s.flash.bankA else s.flash.bankB

/-- Replace a bank's contents. -/
def setBank (s : State) (b : Nat) (m : Mem) : State :=
  { s with flash := (if b = 0 then { s.flash with bankA := m } else { s.flash with bankB := m }) }

/-- A bank of the flash, verified. -/
def flashBank (s : State) (b : Nat) : Except Nat (List Image) := verifyBank (memRd (bankMem s b)) bankSize s.flash.ctr0

/-- Raise a flash counter; it is never lowered (R501). -/
def raiseCtr (s : State) (n v : Nat) : State :=
  let old := if n = 0 then s.flash.ctr0 else if n = 1 then s.flash.ctr1 else s.flash.ctr2
  if v ≤ old then s
  else
    let f := s.flash
    let f := if n = 0 then { f with ctr0 := v } else if n = 1 then { f with ctr1 := v } else { f with ctr2 := v }
    let s := { s with flash := f }
    let s := if n = 0 then fset s F.SEC_CTR0_VALUE 0 v else if n = 1 then fset s F.SEC_CTR1_VALUE 0 v else fset s F.SEC_CTR2_VALUE 0 v
    emit s .up unitSec 0x0B07 [(n, 2), (v, 32)]

/-- Write the directory: the other copy, with the next sequence number (R498). -/
def writeDir (s : State) (f : Flash → Flash) : State :=
  { s with flash := f { s.flash with dirSeq := seqNext s.flash.dirSeq } }

/-! ## The logbook -/

/-- Powered time in whole seconds (R519). Log entry 117 (DEDUCED). -/
def poweredSec (s : State) : Nat := s.timeUp / 1000000000

/-- The bytes of a record (R520): header, payload on byte boundaries, seal, in units of 64, at most 16. -/
def recBytes (args : List (Nat × Nat)) : Nat := 64 * min 16 (((args.map (fun a => (a.2 + 7) / 8)).sum + 32 + 63) / 64)

/-- What was written to the logbook within the last 24 powered hours. -/
def dayBytes (s : State) : Nat := (s.flash.day.map (·.2)).sum

/-- Account for bytes written: the day's window, the budget (R523), the erased sectors. -/
def bookAccount (s : State) (n : Nat) : State :=
  let t := poweredSec s
  let day := (s.flash.day ++ [(t, n)]).filter (fun e => decide (t < e.1 + 86400))
  let bytes := s.flash.bytes + n
  let s := { s with flash := { s.flash with day := day, bytes := bytes } }
  let used := dayBytes s
  let s := fset s F.LOG_BOOK_BUDGET_USED 0 (min (used / 1024) 0xFFFF)
  let s := fset s F.LOG_BOOK_FREE 0 (512 - (bytes + 0xFFFF) / 0x10000)
  let past := decide (0xC00000 ≤ used)
  let s := if past && !fbit s F.LOG_BOOK_BUDGET_DEFER then emit s .up unitSec 0x0C03 [] else s
  fsetb s F.LOG_BOOK_BUDGET_DEFER 0 past

/-- Seal a record into the journal. -/
def bookSeal (s : State) (typ item : Nat) (args : List (Nat × Nat)) : State :=
  let seq := seqNext (fget s F.LOG_BOOK_SEQ)
  let e : BookEntry := { typ := typ, item := item, seq := seq, ptime := poweredSec s, args := args }
  bookAccount (fset { s with flash := { s.flash with book := s.flash.book ++ [e] } } F.LOG_BOOK_SEQ 0 seq) (recBytes args)

/-- The latest record of each item. -/
def bookLatest : List BookEntry → List BookEntry
  | [] => []
  | e :: es => if es.any (fun x => x.typ == e.typ && x.item == e.item) then bookLatest es else e :: bookLatest es

/-- The latest record of an item. -/
def bookItem (s : State) (typ item : Nat) : Option BookEntry :=
  s.flash.book.reverse.find? (fun e => e.typ == typ && e.item == item)

/-- Argument `n` of a record. -/
def BookEntry.arg (e : BookEntry) (n : Nat) : Nat := (e.args.getD n (0, 0)).1

/-- Compaction (R522): a snapshot of the latest records between types 0x01 and 0x02 under the next generation. Log entry 117 (DEDUCED). -/
def bookCompact (s : State) : State :=
  let live := bookLatest (s.flash.book.filter (fun e => e.typ != 1 && e.typ != 2))
  let s := { s with flash := { s.flash with book := [], bytes := 0 } }
  let s := { s with regs := (fset s F.LOG_BOOK_SEQ 0 (2 ^ 32 - 1)).regs }
  let s := bookSeal s 1 0 []
  let s := live.foldl (fun s e => bookSeal s e.typ e.item e.args) s
  let s := bookSeal s 2 0 []
  let s := raiseCtr s 2 (s.flash.ctr2 + 1)
  emit s .up unitSec 0x0C02 [(s.flash.ctr2, 32)]

/-- Seal a record, and compact when less than 8 MiB is erased. -/
def bookWrite (s : State) (r : BookRec) : State :=
  let s := bookSeal s r.typ r.item r.args
  if fget s F.LOG_BOOK_FREE < 128 then bookCompact s else s

/-- Whether a queued record may be written now: class B waits while coalesced, until the 6-hour timer, and at the full budget. Log entry 117 (DEDUCED). -/
def bookMay (s : State) (r : BookRec) : Bool :=
  !r.classB || ((!fbit s F.LOG_BOOK_BUDGET_DEFER || s.sec.bRelease) && decide (dayBytes s + recBytes r.args ≤ 0x1000000))

/-- Append the first queued record that may be written; `ok` says whether the flash took it (R521, 0x0C08). Log entry 117 (DEDUCED). -/
def bookAppend (s : State) (ok : Bool) : State :=
  if fget s F.LOG_BOOK_STATE = 0 then s
  else
    match s.logw.book.find? (bookMay s) with
    | none => s
    | some r =>
      if !ok then emit (fset s F.LOG_BOOK_STATE 0 3) .up unitSec 0x0C08 []
      else
        let q := s.logw.book.erase r
        let s := bookWrite { s with logw := { s.logw with book := q } } r
        let s := { s with sec := { s.sec with bRelease := s.sec.bRelease && q.any (·.classB) } }
        fset s F.LOG_BOOK_STATE 0 1

/-- Write every queued record. -/
def bookFlush (s : State) : State := s.logw.book.foldl (fun s _ => bookAppend s true) s

/-- A start has reached Service (R501, R502): a pending bank becomes active, and the floors rise to what runs. -/
def serviceReached (s : State) : State :=
  let s := if fbit s F.SEC_BOOT_PENDING_TRY then
      writeDir s (fun f => { f with active := f.pend.getD f.active, pend := none, tries := 0 })
    else s
  let s := match s.sec.cores with
    | [] => s
    | c :: cs => raiseCtr s 0 (cs.foldl (fun m e => min m e.2.svn) c.2.svn)
  raiseCtr s 1 s.sec.cfgVer

/-- LOGBOOK_APPEND (R521). -/
def execLogbookAppend (ok : Bool) (s : State) : Res := .next (bookAppend s ok)

/-- CLASS_B_WRITE_TIMER (R523): the coalesced class B records are written. -/
def execClassBWriteTimer (s : State) : Res := .next { s with sec := { s.sec with bRelease := true } }

end Sys2Proof.Machine
end

