-- ==== Sys2Proof/Machine/Light.lean ====
section
/-!
DEFINITION. Light (chapter 09): markers and width, rings, lasers and their understudies, training, rehearsal, points steering,
presence and the power-monitor converter.
-/

namespace Sys2Proof.Machine

/-! ## Ports, chiplets and masks -/

/-- Whether a register index is a signal port's, its lanes, and its chiplet. -/
def isSig (p : Nat) : Bool := decide (32 ≤ p)
def laneCount (p : Nat) : Nat := if isSig p then 2 else 8
def chipletOf (p : Nat) : Nat := if isSig p then 2 * (p - 32) else p / 8

/-- The heater rings of a chiplet: 8 receive and 8 transmit rings to a fabric port, 2 and 2 to a signal port. -/
def chipRings (c : Nat) : List Nat :=
  (List.range 128).map (128 * c + ·) ++ (if c % 2 = 0 then [0, 1, 8, 9].map (16 * (32 + c / 2) + ·) else [])

/-- The half of a chiplet. -/
def chipHalf (c : Nat) : Half := if c < 2 then .up else .down

/-- The four ports of a laser group, and the group of a port. -/
def groupPorts (c g : Nat) : List Nat := (List.range 4).map (fun i => 8 * c + 4 * g + i)
def groupOf (p : Nat) : Nat := p / 4 % 2

/-- The widths of R294 for a port, the widest first. -/
def widths (s : State) (p : Nat) : List Nat :=
  if isSig p then [2, 1] else if fbit s F.PORT_STATUS_UH1 p then [8, 4] else [8, 6, 4, 2]

/-- The w lowest lanes of a candidate mask, w the largest width it covers (R299). -/
def liveSet (s : State) (p cand : Nat) : Nat :=
  let ls := maskLanes cand
  let w := ((widths s p).find? (fun w => decide (w ≤ ls.length))).getD 0
  (ls.take w).foldl (fun m n => m + 2 ^ n) 0

/-- Register fields by lane and by laser. -/
def pwrFld (lo hi : Reg) (n : Nat) : Fld :=
  if n < 4 then ⟨lo, 16 * n, 16, .ro, .const 0x8000, 0, 65535⟩ else ⟨hi, 16 * (n - 4), 16, .ro, .const 0x8000, 0, 65535⟩
def rxPwr (n : Nat) : Fld := pwrFld .PORT_RXPWR_LO .PORT_RXPWR_HI n
def farPwr (n : Nat) : Fld := pwrFld .PORT_FARPWR_LO .PORT_FARPWR_HI n
def marginFld (n : Nat) : Fld := ⟨.PORT_MARGIN, 8 * n, 8, .ro, .const 0xFF, 0, 255⟩

/-! ## Lasers (R304 to R309) -/

/-- State of laser n of chiplet c. -/
def lasState (s : State) (i : Nat) : Nat := fget s F.LAS_LASER_STATE i
def setLas (s : State) (i st g : Nat) : State := fset (fset s F.LAS_LASER_STATE i st) F.LAS_LASER_GROUP i g

/-- The wavelength and group of a working laser index 24c + n. -/
def lasWl (i : Nat) : Nat := if i % 24 < 16 then i % 24 / 2 else i % 24 - 16
def undOf (i : Nat) : Nat := i / 24 * 24 + 16 + lasWl i

/-- Whether a port's serialisers have their clock: a signal port's own oscillator, else the crystal, and on the down half the shared
reference (R26, R312, R435). -/
def clocked (s : State) (p : Nat) : Bool := isSig p || (!s.brg.crystal && (decide (p < 16) || !s.brg.clkLost))

/-- Whether lane n of port p has light: of a working laser that feeds its group, or of its bonded laser (R304, R311). -/
def laneLight (s : State) (p n : Nat) : Bool :=
  if isSig p then fget s (if n = 0 then F.PORT_SLASER_STATE0 else F.PORT_SLASER_STATE1) (p - 32) == 2
  else
    (List.range 24).any (fun k =>
      let i := 24 * chipletOf p + k
      lasState s i == 2 && fget s F.LAS_LASER_GROUP i == groupOf p && lasWl i == n)

/-- Whether a lane is one to transmit on: it has light that no changeover is taking away, and that the peer has not still to miss
(R299, R307). -/
def laneLit (s : State) (p n : Nat) : Bool :=
  laneLight s p n && !bitAt (oget s p).hold n &&
    (isSig p || !s.opt.changes.any (fun x => x.phase == .narrowing && x.laser / 24 == chipletOf p && x.laser % 2 == groupOf p && lasWl x.laser == n))

/-- The live set the sender should use (R299): the peer's good lanes that have a laser. -/
def wantTx (s : State) (p : Nat) : Nat :=
  liveSet s p (((List.range (laneCount p)).filter (fun n => bitAt (fget s F.PORT_LANES_PEER_RXMASK p) n && laneLit s p n)).foldl (fun m n => m + 2 ^ n) 0)

/-- Announce the wanted set where it differs from the one in force. A set once announced stands until it takes effect (R299). -/
def announceTx (s : State) (p : Nat) : State :=
  let o := oget s p
  if !o.trained || steering s p || o.txNext.isSome then s
  else
    let w := wantTx s p
    oset s p { o with txNext := guardOpt (w != fget s F.PORT_LANES_TX_LIVE p) w }

/-! ## A port up and down (R300, R350, R366) -/

/-- The smallest width at which a direction carries flits (R326). -/
def minWidth (s : State) (p : Nat) : Nat :=
  let m := fget s F.PORT_CFG_MIN_WIDTH p
  if isSig p then 1 + m % 2 else 2 * (m + 1)

/-- Whether both widths reach the minimum. -/
def wideEnough (s : State) (p : Nat) : Bool :=
  decide (minWidth s p ≤ fget s F.PORT_STATUS_TX_WIDTH p) && decide (minWidth s p ≤ fget s F.PORT_STATUS_RX_WIDTH p)

/-- Whether nothing but the width, or a steer, keeps a port from carrying flits. -/
def portFit (s : State) (p : Nat) : Bool :=
  fbit s F.PORT_CFG_ENABLE p && (oget s p).trained && !fbit s F.PORT_STATUS_TRAINING p && !fbit s F.PORT_STATUS_REHEARSING p
    && !fbit s F.PORT_STATUS_DARK p && clocked s p && !(!isSig p && fbit s F.FAB_PORT_STATUS_IDBAD p)

/-- The port goes down. -/
def portDown (s : State) (p : Nat) : State :=
  linkDown (fset s F.PORT_STATUS_UP p 0) p

/-- A port that does not steer comes up or goes down as its state now says (R300); a steer is no link down (R350). -/
def portEval (s : State) (p : Nat) : State :=
  let up := fbit s F.PORT_STATUS_UP p
  if steering s p then s
  else if portFit s p && wideEnough s p then
    (if up then s else
      linkUp (fset s F.PORT_STATUS_UP p 1) p)
  else if !up then s
  else
    let s := portDown s p
    if portFit s p then emit s (portHalf p) unitOpt 0x050F [(p, 6)] else s

/-- Width and mask registers of a direction; event 0x0503 and the time of the change where it changed. -/
def setLive (s : State) (p : Nat) (tx : Bool) (m : Nat) : State :=
  let fm := if tx then F.PORT_LANES_TX_LIVE else F.PORT_LANES_RX_LIVE
  let fw := if tx then F.PORT_STATUS_TX_WIDTH else F.PORT_STATUS_RX_WIDTH
  let old := fget s fw p
  let w := popcount m 8
  let s := fset (fset s fm p m) fw p w
  if old = w then s
  else
    let s := oset s p { oget s p with changed := some (now s (portHalf p)) }
    emitLim s (portHalf p) unitOpt 0x0503 p ms [(p, 6), (if tx then 1 else 0, 1), (old, 4), (w, 4)]

/-- A port without a direction to carry flits. -/
def noLive (s : State) (p : Nat) : State := setLive (setLive s p true 0) p false 0

/-- The serialisers of a port stop with their clock (R312, R435): no lane carries anything, and the port is down until it trains
again. -/
def serialiserStop (s : State) (p : Nat) : State :=
  let up := fbit s F.PORT_STATUS_UP p
  let s := noLive (portDown s p) p
  let s := fset (oset s p { oget s p with trained := false, txNext := none, rxNext := none }) F.PORT_LANES_RX_GOOD p 0
  if up then emit s (portHalf p) unitOpt 0x050F [(p, 6)] else s

/-- The identity check of R366 on the recorded peer. -/
def identity (s : State) (p : Nat) : State :=
  if isSig p || !fbit s F.PORT_PEER_VALID p then s
  else
    let d := fget s F.PORT_PEER_DEVICE p; let q := fget s F.PORT_PEER_PORT p
    let i := 11 * (p / 8) + fget s F.PORT_STEER_CUR p
    let md := fget s F.FAB_FIBRE_EXP_MODE i
    let put : State → Nat → Nat → Nat → State := fun s a b c =>
      fset (fset (fset s F.FAB_PORT_STATUS_IDOK p a) F.FAB_PORT_STATUS_IDPEND p b) F.FAB_PORT_STATUS_IDBAD p c
    if d = 0xFFFF ∨ deviceId s = 0xFFFF then put s 0 1 0
    else
      let ok := if md = 0 then true
        else if md = 1 then decide (0x8000 ≤ d) && decide (d ≤ 0xFFFE) && q == fget s F.FAB_FIBRE_EXP_PORT i
        else d == fget s F.FAB_FIBRE_EXP_DEVICE i && q == fget s F.FAB_FIBRE_EXP_PORT i
      if ok then put s 1 0 0
      else
        let bad := fbit s F.FAB_PORT_STATUS_IDBAD p
        let s := put s 0 0 1
        if bad then s
        else emit s (portHalf p) unitRoute 0x0601 [(p, 6), (d, 16), (q, 5), (fget s F.FAB_FIBRE_EXP_DEVICE i, 16), (fget s F.FAB_FIBRE_EXP_PORT i, 5)]

/-- `PORT_PEER` takes the sender of a marker. -/
def recordPeer (s : State) (p : Nat) (m : BitVec 72) : State :=
  let s := fset (fset s F.PORT_PEER_DEVICE p (mkDevice m)) F.PORT_PEER_PORT p (mkPort m)
  fset (fset s F.PORT_PEER_S p (mkS m)) F.PORT_PEER_VALID p 1

/-- A valid marker's reports: the far-end power, the peer's good mask and next set, what it asks of rehearsal, and that the peer has
missed a lane whose light was taken from it. -/
def takeReports (s : State) (p : Nat) (m : BitVec 72) : State :=
  let v := mkRxPwr m
  let s := if mkPwrLane m < laneCount p then fset s (farPwr (mkPwrLane m)) p (if v = 0x200 then 0x8000 else wrap (5 * sext v 10) 16) else s
  let s := fset s F.PORT_LANES_PEER_RXMASK p (mkRxMask m)
  let o := oget s p
  oset s p { o with
    rxNext := guardOpt (mkNext m != fget s F.PORT_LANES_RX_LIVE p) (mkNext m), peerRqp := mkRqp m, prb := mkPrb m,
    hold := Nat.land o.hold (mkRxMask m) }

/-! ## Changeovers (R306 to R310) -/

/-- `LAS_STATUS.PENDING` of a chiplet, from the marks that wait for a quiet interval. -/
def showPending (s : State) (c : Nat) : State :=
  fset s F.LAS_STATUS_PENDING c ((List.range 8).foldl (fun m l =>
    if s.opt.marks.any (fun k => k.laser / 24 == c && lasWl k.laser == l && (!k.failed || k.soft)) then m + 2 ^ l else m) 0)

/-- Mark a working laser whose bias asks for it, with event 0x0507 (R306), or at software's request (R340). -/
def markLaser (s : State) (i : Nat) (soft : Bool) : State :=
  let o := s.opt
  let tell : State → State := fun s => if soft then s else emit s (chipHalf (i / 24)) unitOpt 0x0507 [(i / 24, 2), (i % 24, 5)]
  if o.changes.any (fun x => x.laser == i) then s
  else match o.marks.find? (fun k => k.laser == i) with
    | some k =>
      let s := { s with opt := { o with marks := o.marks.map (fun k =>
        if k.laser = i then { k with soft := k.soft || soft, hot := k.hot || !soft } else k) } }
      showPending (if k.hot then s else tell s) (i / 24)
    | none => tell (showPending { s with opt := { o with marks := o.marks ++ [{ laser := i, soft := soft, due := false, hot := !soft }] } } (i / 24))

/-- The laser states of one bank's laser go to the logbook (R519 type 0x13). -/
def bookLaser (s : State) (i : Nat) : State := bookA s 0x13 i [(i / 24, 2), (i % 24, 5), (lasState s i, 3), (mget s.opt.serves i 0, 2)]

/-- Whether the understudy of a laser is free. -/
def undFree (s : State) (i : Nat) : Bool := bitAt (fget s F.LAS_STATUS_UND_FREE (i / 24)) (lasWl i)

/-- The ports of a laser's group. -/
def lasPorts (i : Nat) : List Nat := groupPorts (i / 24) (i % 2)

/-- Whether a chiplet's bank is lit. -/
def bankLit (s : State) (c : Nat) : Bool := fbit s F.LAS_STATUS_LIT c

/-- The understudy is taken for a laser and lit. -/
def takeUnd (s : State) (i : Nat) (due : Bool) : State :=
  let c := i / 24; let u := undOf i
  let s := fset s F.LAS_STATUS_UND_FREE c (setBit (fget s F.LAS_STATUS_UND_FREE c) (lasWl i) false)
  let o := s.opt
  let x : Changeover := { laser := i, failed := decide (4 ≤ lasState s i), phase := .warming, due := due }
  let s := { s with opt := { o with
    marks := o.marks.filter (fun k => k.laser != i), changes := o.changes ++ [x], serves := mput o.serves u (i % 2 + 1) 0 } }
  bookLaser (setLas (showPending s c) u 1 2) u

/-- Whether a trained port is narrower than its full width in either direction. -/
def narrowed (s : State) (p : Nat) : Bool :=
  (oget s p).trained && (decide (fget s F.PORT_STATUS_TX_WIDTH p < laneCount p) || decide (fget s F.PORT_STATUS_RX_WIDTH p < laneCount p))

/-- Whether a port of the group neither steers, trains, rehearses nor is narrowed, and its width has not changed within the last 1 ms
(R306). -/
def portQuiet (s : State) (p : Nat) : Bool :=
  !steering s p && !fbit s F.PORT_STATUS_TRAINING p && !fbit s F.PORT_STATUS_REHEARSING p && !fbit s F.PORT_STATUS_NARROW_CO p
    && !narrowed s p
    && (match (oget s p).changed with | some t => decide (t + ms ≤ now s (portHalf p)) | none => true)

/-- Whether a marked changeover may start now: at a quiet interval of its group, or with DEFER past once no port of it steers or
rehearses (R306, R310); of a failed laser's, at the end of a rehearsal (R308). -/
def mayStart (s : State) (k : Mark) : Bool :=
  let ps := lasPorts k.laser
  let still := ps.all (fun p => !fbit s F.PORT_STATUS_REHEARSING p)
  ps.all (portQuiet s) || (k.due && still && ps.all (fun p => !steering s p)) || (k.failed && still)

/-- Start a marked changeover if it may run: the bank lit, the understudy free, and AUTO or software asking. -/
def startChangeover (s : State) (i : Nat) : State :=
  match s.opt.marks.find? (fun k => k.laser == i) with
  | none => s
  | some k =>
    if bankLit s (i / 24) && undFree s i && (k.soft || fbit s F.LAS_CFG_AUTO (i / 24)) && mayStart s k then takeUnd s i k.due else s

/-- Update a changeover. -/
def coMap (s : State) (i : Nat) (f : Changeover → Changeover) : State :=
  { s with opt := { s.opt with changes := s.opt.changes.map (fun x => if x.laser = i then f x else x) } }
def coSet (s : State) (i : Nat) (ph : CoPhase) : State := coMap s i (fun x => { x with phase := ph })

/-- A lane goes dark for its peer: the mask the peer last reported does not count for it until the peer has missed it (R307). -/
def holdLane (s : State) (p n : Nat) : State :=
  if bitAt (fget s F.PORT_LANES_PEER_RXMASK p) n then oset s p { oget s p with hold := setBit (oget s p).hold n true } else s

/-- The old laser goes dark and the understudy feeds the group (R307). -/
def coSwitch (s : State) (x : Changeover) : State :=
  let u := undOf x.laser
  let s := if x.failed then s else fset (fset (setLas s x.laser 0 2) F.LAS_LASER_MON x.laser 0x8000) F.LAS_LASER_BIAS x.laser 0
  let s := (lasPorts x.laser).foldl (fun s p => holdLane s p (lasWl x.laser)) s
  (lasPorts x.laser).foldl announceTx (coSet (setLas s u 2 (x.laser % 2)) x.laser .switched)

/-- The group's ports that carry the wavelength now. -/
def carrying (s : State) (i : Nat) : List Nat :=
  (lasPorts i).filter (fun p => bitAt (fget s F.PORT_LANES_TX_LIVE p) (lasWl i))

/-- Narrow the group for a laser: its lane leaves the candidates (R299, R307, R308). A port that steers sends no flits and narrows at
once. -/
def narrowGroup (s : State) (i : Nat) : State :=
  (carrying s i).foldl (fun s p =>
    let s := fset s F.PORT_STATUS_NARROW_CO p 1
    if steering s p then setLive s p true (wantTx s p) else announceTx s p) s

/-- The group narrows, and the light is switched once no port carries the wavelength. -/
def coNarrow (s : State) (x : Changeover) : State :=
  let s := narrowGroup (coSet s x.laser .narrowing) x.laser
  if (carrying s x.laser).isEmpty then coSwitch s x else s

/-- A changeover goes as far as it can: with the understudy on grid and no steer in progress the group narrows; once it has,
the light is switched; once the ports carry the lane again the changeover is complete (R307). One that a steer made wait goes on at
the next quiet interval, or with DEFER past (R310); a failed laser's waits for nothing (R308). -/
def coProceed (s : State) (i : Nat) : State :=
  match s.opt.changes.find? (fun x => x.laser == i) with
  | none => s
  | some x =>
    if !bankLit s (i / 24) then s
    else
      match x.phase with
      | .warming => s
      | .waiting =>
        if x.failed then coNarrow s x
        else if (lasPorts i).any (steering s) then coMap s i (fun x => { x with held := true })
        else if x.held && !x.due && !(lasPorts i).all (portQuiet s) then s
        else coNarrow s x
      | .narrowing => if (carrying s i).isEmpty then coSwitch s x else s
      | .switched =>
        if (lasPorts i).any (fun p => fbit s F.PORT_STATUS_NARROW_CO p) then s
        else
          let s := { s with opt := { s.opt with changes := s.opt.changes.filter (fun y => y.laser != i) } }
          let s := if x.failed then s else setLas s i 5 2
          emit (bookLaser s i) (chipHalf (i / 24)) unitOpt 0x0508 [(i / 24, 2), (i % 24, 5), (undOf i % 24, 5)]

/-- A changeover that waits with its understudy on grid is looked at again. -/
def coResume (s : State) (i : Nat) : State :=
  if s.opt.changes.any (fun x => x.laser == i && x.phase == .waiting) then coProceed s i else s

/-- Every changeover of a chiplet that a port's change may let go on, and the marks that wait for no quiet interval. -/
def coAll (s : State) (c : Nat) : State :=
  let s := (s.opt.changes.filter (fun x => x.laser / 24 == c)).foldl (fun s x => coProceed s x.laser) s
  (s.opt.marks.filter (fun k => k.laser / 24 == c && (k.due || k.failed))).foldl (fun s k => startChangeover s k.laser) s

/-- Whether a laser keeps a port from a lane: it has none, or its new light has not come back from the peer. -/
def laserShort (s : State) (p : Nat) : Bool :=
  (List.range (laneCount p)).any (fun n => !laneLit s p n) ||
    s.opt.changes.any (fun x => x.phase == .switched && (lasPorts x.laser).contains p && !bitAt (fget s F.PORT_LANES_PEER_RXMASK p) (lasWl x.laser))

/-- A port that a laser narrowed is so no longer once it sends on every lane it would (R327). -/
def widenCo (s : State) (p : Nat) : State :=
  if fbit s F.PORT_STATUS_NARROW_CO p && !laserShort s p && wantTx s p == fget s F.PORT_LANES_TX_LIVE p then
    let s := fset s F.PORT_STATUS_NARROW_CO p 0
    if isSig p then s else coAll s (p / 8)
  else s

/-- A laser fails (R308, R309). -/
def failLaser (s : State) (i : Nat) : State :=
  let c := i / 24; let st := lasState s i
  if st ≠ 1 ∧ st ≠ 2 then s
  else
    let g := fget s F.LAS_LASER_GROUP i
    let s := fset (fset (setLas s i 4 2) F.LAS_LASER_MON i 0x8000) F.LAS_LASER_BIAS i 0
    let s := emit (bookLaser s i) (chipHalf c) unitOpt 0x0509 [(c, 2), (i % 24, 5)]
    let none_ : State → State := fun s => emit s (chipHalf c) unitOpt 0x050A [(c, 2), (i % 24, 5)]
    if i % 24 < 16 then
      let s := showPending { s with opt := { s.opt with marks := s.opt.marks.filter (fun k => k.laser != i || k.soft) } } c
      let s := if s.opt.changes.any (fun x => x.laser == i) then coMap s i (fun x => { x with failed := true })
        else if undFree s i && fbit s F.LAS_CFG_AUTO c then
          (if (lasPorts i).any (fun p => fbit s F.PORT_STATUS_REHEARSING p) then
            { s with opt := { s.opt with marks := s.opt.marks.filter (fun k => k.laser != i) ++ [{ laser := i, soft := false, due := false, failed := true }] } }
          else takeUnd s i false)
        else none_ s
      coAll (narrowGroup s i) c
    else
      let gs := if g = 2 then mget s.opt.serves i 0 - 1 else g
      let w := 24 * c + 2 * (i % 24 - 16) + gs
      let gone := s.opt.changes.any (fun x => x.laser == w && x.phase == .switched && !x.failed)
      let s := { s with opt := { s.opt with changes := s.opt.changes.filter (fun x => undOf x.laser != i) } }
      if lasState s w = 2 then (lasPorts w).foldl (fun s p => widenCo (announceTx s p) p) s
      else narrowGroup (none_ (if gone then bookLaser (setLas s w 5 2) w else s)) w

/-- State and bias of a signal port's bonded laser n. -/
def sigState (n : Nat) : Fld := if n = 0 then F.PORT_SLASER_STATE0 else F.PORT_SLASER_STATE1
def sigBias (n : Nat) : Fld := if n = 0 then F.PORT_SLASER_BIAS0 else F.PORT_SLASER_BIAS1

/-- A bonded laser of a signal port fails (R311, R336). -/
def failSigLaser (s : State) (c n : Nat) : State :=
  if c % 2 = 1 ∨ fget s (sigState n) (c / 2) ≠ 2 then s
  else
    let s := fset (fset s (sigState n) (c / 2) 4) (sigBias n) (c / 2) 0
    let s := emit s (chipHalf c) unitOpt 0x0509 [(c, 2), (24 + n, 5)]
    let p := 32 + c / 2
    announceTx (if bitAt (fget s F.PORT_LANES_TX_LIVE p) n then fset s F.PORT_STATUS_NARROW_CO p 1 else s) p

/-- The bias loop's report of a laser (R305, R306, R308): a warming laser on grid begins to work. -/
def biasLoop (s : State) (c n bias mon : Nat) (onGrid : Bool) : State :=
  if n < 24 then
    let i := 24 * c + n
    if lasState s i ≠ 1 ∧ lasState s i ≠ 2 then s
    else
      let s := fset (fset s F.LAS_LASER_BIAS i (min bias 1000)) F.LAS_LASER_MON i mon
      if 1000 ≤ bias then failLaser s i
      else
        let s := if lasState s i = 1 ∧ onGrid ∧ !s.opt.changes.any (fun x => undOf x.laser == i && x.phase != .switched) then
            let s := fset s F.LAS_LASER_STATE i 2
            (if n < 16 then (lasPorts i) else groupPorts c (mget s.opt.serves i 1 - 1)).foldl announceTx s
          else s
        if 850 ≤ bias ∧ n < 16 ∧ !s.opt.marks.any (fun k => k.laser == i && k.hot) then markLaser s i false else s
  else
    if c % 2 = 1 ∨ fget s (sigState (n - 24)) (c / 2) ≠ 2 then s
    else
      let s := fset s (sigBias (n - 24)) (c / 2) (min bias 1000)
      if 1000 ≤ bias then failSigLaser s c (n - 24) else s

/-! ## Points steering (R317 to R321) -/

/-- The fibre a port holds: its target once its steer is admitted. -/
def holdsFibre (s : State) (p f : Nat) : Bool :=
  match (oget s p).steerTo with
  | some (t, _) => t == f
  | none => fget s F.PORT_STEER_CUR p == f

/-- The other ports of a port's chiplet that hold a fibre. -/
def holders (s : State) (p f : Nat) : List Nat := ((List.range 8).map (8 * (p / 8) + ·)).filter (fun q => q != p && holdsFibre s q f)

/-- Why a steer is refused (R319), if it is, while the ports `leaving` leave their fibres in the same command of the matrix: 1 the
fibre, 2 the port's state, 3 the fibre is held. -/
def refusalAmong (s : State) (leaving : List Nat) (p f : Nat) : Option Nat :=
  if 11 ≤ f then some 1
  else if !fbit s F.PORT_CFG_ENABLE p || fbit s F.PORT_STATUS_UH1 p || fbit s F.PORT_STATUS_TRAINING p || fbit s F.PORT_STATUS_REHEARSING p
      || steering s p || inPreset s (portHalf p) then some 2
  else if (holders s p f).any (fun q => !leaving.contains q) then some 3
  else none

/-- Why a steer that is asked for alone is refused. -/
def steerRefusal (s : State) (p f : Nat) : Option Nat := refusalAmong s [] p f

/-- A steer is refused or fails: `PORT_STATUS.STEER_FAIL`, event 0x050B, and its POINTS cue in error. -/
def steerFailed (s : State) (p f cause : Nat) (run : Option Nat) : State :=
  let s := emit (fset s F.PORT_STATUS_STEER_FAIL p 1) (portHalf p) unitOpt 0x050B [(p, 6), (f, 4), (cause, 4)]
  match run with
  | some r => runFail s r 5 stUnreachable
  | none => s

/-- The steer's POINTS cue completes. -/
def pointsDone (s : State) (run : Option Nat) : State :=
  match run with
  | some r => runStep s r (fun r => { r with port := none, open_ := 0 })
  | none => s

/-- An admitted steer begins; one to the current fibre completes at once (R319). -/
def steerBegin (s : State) (p f : Nat) (run : Option Nat) : State :=
  if fget s F.PORT_STEER_CUR p = f then pointsDone s run
  else oset (fset s F.PORT_STATUS_STEERING p 1) p { oget s p with steerTo := some (f, run) }

/-- A steer is asked for (R319). -/
def steer (s : State) (p f : Nat) (run : Option Nat) : State :=
  match steerRefusal s p f with
  | some c => steerFailed s p f c run
  | none => steerBegin s p f run

/-- A steer asked for: port, fibre, cue. -/
abbrev Ask := Nat × Nat × Option Nat

/-- Steers asked for together (R319): those are admitted whose fibres are free, or left by others of them that are admitted too, the
first to ask having a fibre that two want. -/
def steersAdmitted (s : State) : Nat → List Ask → List Ask
  | 0, as => as
  | n + 1, as =>
    let ok := fun (a : Ask) => (refusalAmong s ((as.filter (fun b => b.2.1 != fget s F.PORT_STEER_CUR b.1)).map (·.1)) a.1 a.2.1).isNone &&
      ((as.find? (fun b => b.1 == a.1 || (b.1 / 8 == a.1 / 8 && b.2.1 == a.2.1))) == some a)
    steersAdmitted s n (as.filter ok)

/-- Steers asked for together: the matrix moves the admitted ones in one command, and the others are judged then (R319). Log entry 159
(DESIGN CHOICE). -/
def steerAll (s : State) (as : List Ask) : State :=
  let yes := steersAdmitted s as.length as
  let s := yes.foldl (fun s a => steerBegin s a.1 a.2.1 a.2.2) s
  (as.filter (fun a => !yes.contains a)).foldl (fun s a => steer s a.1 a.2.1 a.2.2) s

/-- The switch command (R320): flits not acknowledged leave the retry buffer, what the old peer said is forgotten, and the port
transmits at full width on the new fibre, taking the peer's mask as all lanes until its first valid marker. Log entry 64 (DEDUCED). -/
def steerMove (s : State) (p f : Nat) : State :=
  let l := lget s p
  let s := lset s p { l with unacked := [] }
  let s := fset (fset (fset s F.PORT_STEER_CUR p f) F.PORT_PEER_VALID p 0) F.PORT_STATUS_UP p 0
  let s := fset (fset (fset s F.FAB_PORT_STATUS_IDOK p 0) F.FAB_PORT_STATUS_IDPEND p 0) F.FAB_PORT_STATUS_IDBAD p 0
  let s := fset (fset s F.PORT_RING_LOCKED p 0) F.PORT_LANES_PEER_RXMASK p 0xFF
  let s := oset s p { oget s p with trained := false, txNext := none, rxNext := none, peerRqp := false, hold := 0 }
  setLive s p true (wantTx s p)

/-- A steer whose flits are all acknowledged goes on to the switch command (R320). -/
def steerStep (s : State) : Option State :=
  (List.range 32).findSome? (fun p =>
    if !steering s p then none
    else match (oget s p).steerTo with
      | some (f, _) => guardOpt (fget s F.PORT_STEER_CUR p != f && (lget s p).unacked.isEmpty) (steerMove s p f)
      | none => none)

/-- A port that has locked on its new fibre ends its steer once it can carry flits, with fresh link state (R320); a refused peer takes
the link down, and the steer with it (R366). -/
def steerEval (s : State) (p : Nat) : State :=
  match (oget s p).steerTo with
  | none => s
  | some (_, run) =>
    if !isSig p && fbit s F.FAB_PORT_STATUS_IDBAD p then linkDown s p
    else if portFit s p && wideEnough s p then
      let s := fset (oset s p { oget s p with steerTo := none }) F.PORT_STATUS_STEERING p 0
      coAll (pointsDone (linkUp (fset s F.PORT_STATUS_UP p 1) p) run) (p / 8)
    else s

/-- A port is looked at again after a change of what it may carry. -/
def portGo (s : State) (p : Nat) : State := if steering s p then steerEval s p else widenCo (portEval s p) p

/-- A steered port has locked on the new fibre, `m` being the first valid marker there (R320): its lanes' IDs are checked, its widths set
and its peer recorded. Log entry 64 (DEDUCED). -/
def steerDone (s : State) (p : Nat) (m : BitVec 72) : State :=
  match (oget s p).steerTo with
  | none => s
  | some (f, _) =>
    if !mkValid m || !clocked s p then s
    else
      let s := if fget s F.PORT_STEER_CUR p = f then s else steerMove s p f
      let s := identity (takeReports (recordPeer s p m) p m) p
      let s := fset s F.PORT_RING_LOCKED p (fget s F.PORT_LANES_RX_GOOD p)
      let s := oset s p { oget s p with trained := true }
      let nx := (oget s p).rxNext
      let s := setLive s p true (wantTx s p)
      let s := match nx with | some k => oset (setLive s p false k) p { oget (setLive s p false k) p with rxNext := none } | none => s
      steerEval s p

/-! ## Markers (R297 to R300, R303, R366, R368) -/

/-- A missing marker; the second in a row excludes the lane. -/
def missMarker (s : State) (p n : Nat) : State :=
  let l := laneOf s p n
  if bitAt l.why 5 then s
  else
    let s := setLaneRx s p n { l with miss := l.miss + 1, valid := 0 }
    if 1 ≤ l.miss then excludeLane s p n 0 else s

/-- A ring found on a wrong wavelength: excluded, and relocked from the cold side. -/
def wrongLane (s : State) (p n seen : Nat) : State :=
  let s := excludeLane s p n 1
  if bitAt (fget s F.PORT_RING_RELOCKING p) n then s
  else
    let s := laneBit (laneBit (laneBit s F.PORT_RING_MISMATCH p n true) F.PORT_RING_LOCKED p n false) F.PORT_RING_RELOCKING p n true
    emit s (portHalf p) unitOpt 0x0504 [(p, 6), (n, 3), (seen, 3)]

/-- A valid marker with the lane's own ID: the ring is confirmed, and the lane is good unless it is excluded; one excluded for missing
markers only comes back after 16 of them. -/
def rightLane (s : State) (p n : Nat) : State :=
  let s := laneBit s F.PORT_RING_LOCKED p n true
  let l := laneOf s p n
  let l := { l with miss := 0, valid := l.valid + 1, why := l.why % 32 }
  let s := setLaneRx s p n l
  if l.why = 0 then laneBit s F.PORT_LANES_RX_GOOD p n true
  else if l.why = 1 ∧ 16 ≤ l.valid then restoreLane s p n else s

/-- A slot-0 marker is taken. -/
def takeMarker (s : State) (p n : Nat) (m : BitVec 72) (whole : Bool) : State :=
  if !fbit s F.PORT_CFG_ENABLE p || decide (laneCount p ≤ n) || !clocked s p then s
  else
    let s := if isSig p || !fbit s F.FAB_PORT_STATUS_LINK p || inPreset s (portHalf p) then s
      else if whole then fset s F.FAB_PORT_STATUS_HELD p 1
      else if fbit s F.FAB_PORT_STATUS_HELD p then releaseHold s p else s
    if !mkValid m then missMarker s p n
    else
      let s := if mkLane m = n then rightLane s p n else wrongLane (setLaneRx s p n { laneOf s p n with miss := 0 }) p n (mkLane m)
      let asked := patternOut s p
      let s := takeReports s p m
      let s := if asked && !patternOut s p then pump s p else s
      let moving := steering s p && !(oget s p).trained
      let open_ := !fbit s F.PORT_PEER_VALID p || fbit s F.FAB_PORT_STATUS_IDPEND p || fbit s F.FAB_PORT_STATUS_IDBAD p
      let s := if moving || !open_ then s else recordPeer s p m
      let s := if moving || !open_ || fbit s F.PORT_STATUS_TRAINING p then s else identity s p
      portGo (announceTx s p) p

/-! ## Light-up, training and presence (R322 to R324) -/

/-- The band of a chiplet (R445). -/
def chipBand (s : State) (c : Nat) : Nat := fget s (if c % 2 = 0 then F.THM_CHIP_BAND0 else F.THM_CHIP_BAND1) (c / 2)

/-- The number under which the logbook keeps a ring's heater setting for a band (R302, R519). -/
def heaterItem (k band : Nat) : Nat := 8 * k + band

/-- Each ring starts from its heater setting for the current band, as the logbook holds it (R302). -/
def loadHeaters (s : State) (p : Nat) : State :=
  (List.range 16).foldl (fun s j => match bookItem s 0x21 (heaterItem (16 * p + j) (chipBand s (chipletOf p))) with
    | some e => { s with opt := { s.opt with heater := mput s.opt.heater (16 * p + j) (e.arg 3) 0 } }
    | none => s) s

/-- What a training starts from: lanes not yet confirmed, widths 0, rings at their logbook settings, the peer unknown, and whether it
rehearses and in which mode (R302, R326). -/
def startTraining (s : State) (p : Nat) : State :=
  let s := noLive (portDown s p) p
  let s := oset s p {
    lanes := (List.range 8).foldl (fun m n => mput m n { noMatch := (laneOf s p n).noMatch } {}) [], changed := (oget s p).changed,
    reh := guardOpt (!isSig p && (fbit s F.PORT_CFG_MODE p || fbit s F.PORT_CFG_REHEARSE p)) (0, 0) }
  let s := loadHeaters (fset (fset (fset s F.PORT_LANES_RX_GOOD p 0) F.PORT_LANES_PEER_RXMASK p 0) F.PORT_RING_LOCKED p 0) p
  let s := fset (fset (fset s F.PORT_PEER_VALID p 0) F.PORT_STATUS_REHEARSING p 0) F.PORT_STATUS_NARROW_CO p 0
  let s := { s with opt := { s.opt with rehQ := s.opt.rehQ.filter (· != p) } }
  let s := fset s F.PORT_RING_RELOCKING p (((List.range 8).filter (fun n => (laneOf s p n).noMatch)).foldl (fun m n => m + 2 ^ n) 0)
  let s := if isSig p then s
    else
      let s := fset (fset (fset s F.FAB_PORT_STATUS_IDOK p 0) F.FAB_PORT_STATUS_IDPEND p 0) F.FAB_PORT_STATUS_IDBAD p 0
      fset s F.PORT_STATUS_UH1 p (fget s F.PORT_CFG_MODE p)
  fset (fset s F.PORT_STATUS_TRAINING p 1) F.PORT_STATUS_DARK p 0

/-- A steer that cannot end, because its port went dark, is reported as failed (R321). Log entry 159 (DESIGN CHOICE). -/
def steerAbort (s : State) (p : Nat) : State :=
  match (oget s p).steerTo with
  | none => s
  | some (f, run) => steerFailed (fset (oset s p { oget s p with steerTo := none }) F.PORT_STATUS_STEERING p 0) p f 4 run

/-- A port without light: down, dark, nothing in progress, its rings not locked. -/
def darken (s : State) (p : Nat) : State :=
  let s := noLive (portDown (steerAbort s p) p) p
  let s := oset s p { oget s p with trained := false, txNext := none, rxNext := none, reh := none, peerRqp := false, hold := 0 }
  let s := { s with opt := { s.opt with rehQ := s.opt.rehQ.filter (· != p) } }
  let s := fset (fset (fset s F.PORT_STATUS_TRAINING p 0) F.PORT_STATUS_REHEARSING p 0) F.PORT_STATUS_DARK p 1
  let s := fset (fset (fset s F.PORT_LANES_RX_GOOD p 0) F.PORT_RING_LOCKED p 0) F.PORT_RING_RELOCKING p 0
  fset s F.PORT_STATUS_NARROW_CO p 0

/-- The ports of a chiplet: its eight fabric ports, and the signal port where it has one. -/
def chipPorts (c : Nat) : List Nat := (List.range 8).map (8 * c + ·) ++ (if c % 2 = 0 then [32 + c / 2] else [])

/-- Whether a port's chiplet is lit. -/
def lit (s : State) (p : Nat) : Bool := fbit s F.LAS_STATUS_LIT (chipletOf p)

/-- ENABLE has changed (R326): the port trains, or goes idle. -/
def portEnable (s : State) (p : Nat) : State :=
  if fbit s F.PORT_CFG_ENABLE p then (if lit s p && fbit s F.PORT_STATUS_DARK p then startTraining s p else s) else darken s p

/-- A bank lights (R304, R324, R341): working lasers warm, free understudies stand by, the chiplet's enabled ports train. -/
def bankUp (s : State) (c : Nat) : State :=
  if !fbit s F.LAS_STATUS_PRESENCE c || fbit s F.LAS_STATUS_LIT c then s
  else
    let s := fset s F.LAS_STATUS_LIT c 1
    let s := (List.range 24).foldl (fun s n =>
      let i := 24 * c + n
      if 4 ≤ lasState s i then s
      else if n < 16 then setLas s i 1 (n % 2)
      else match mget s.opt.serves i 0 with
        | 0 => setLas s i 3 2
        | g + 1 => setLas s i 1 (if s.opt.changes.any (fun x => undOf x.laser == i && x.phase != .switched) then 2 else g)) s
    let s := (s.opt.changes.filter (fun x => x.laser / 24 == c && x.phase == .switched && !x.failed)).foldl (fun s x => setLas s x.laser 0 2) s
    let s := if c % 2 = 1 then s
      else [F.PORT_SLASER_STATE0, F.PORT_SLASER_STATE1].foldl (fun s f => if fget s f (c / 2) = 0 then fset s f (c / 2) 2 else s) s
    let s := emit s (chipHalf c) unitOpt 0x050E [(c, 2)]
    (chipPorts c).foldl portEnable s

/-- Every laser of a chiplet goes dark; a changeover that has not switched its understudy in begins again with the light (R322). -/
def bankDark (s : State) (c : Nat) : State :=
  let s := fset (fset s F.LAS_STATUS_PRESENCE c 0) F.LAS_STATUS_LIT c 0
  let s := (List.range 24).foldl (fun s n =>
    let i := 24 * c + n
    if 4 ≤ lasState s i then s else fset (fset (setLas s i 0 2) F.LAS_LASER_MON i 0x8000) F.LAS_LASER_BIAS i 0) s
  let s := { s with opt := { s.opt with changes := s.opt.changes.map (fun x =>
    if x.laser / 24 = c ∧ x.phase ≠ .switched then { x with phase := .warming } else x) } }
  let s := if c % 2 = 1 then s
    else [0, 1].foldl (fun s n =>
      let s := fset s (sigBias n) (c / 2) 0
      if fget s (sigState n) (c / 2) = 2 then fset s (sigState n) (c / 2) 0 else s) s
  (chipPorts c).foldl darken s

/-- The chiplets of a ferrule: A is the up half's, B the down half's. -/
def ferrule (h : Half) : List Nat := [2 * h.num, 2 * h.num + 1]

/-- A port is trained: its peer checked, its widths set, and up. -/
def trainedNow (s : State) (p : Nat) : State :=
  let nx := (oget s p).rxNext
  let s := oset s p { oget s p with trained := true, txNext := none, rxNext := none }
  let s := identity s p
  let s := setLive s p true (wantTx s p)
  let s := setLive s p false (nx.getD (fget s F.PORT_LANES_RX_LIVE p))
  let s := fsetb s F.PORT_STATUS_NARROW_CO p (laserShort s p && decide (fget s F.PORT_STATUS_TX_WIDTH p < laneCount p))
  let s := portEval s p
  if isSig p then s else coAll s (p / 8)

/-- PORT_TRAINING_COMPLETE (R315, R324): rehearsal first where it applies. -/
def trainingDone (s : State) (p : Nat) : State :=
  if !fbit s F.PORT_STATUS_TRAINING p || !fbit s F.PORT_PEER_VALID p || !clocked s p then s
  else
    let s := fset s F.PORT_STATUS_TRAINING p 0
    if (oget s p).reh.isSome then
      let s := setLive s p true (wantTx s p)
      let s := setLive s p false ((oget s p).rxNext.getD (fget s F.PORT_LANES_RX_LIVE p))
      let s := oset (fset s F.PORT_STATUS_REHEARSING p 1) p { oget s p with reh := some (0, 0), prb := false, rxNext := none }
      { s with opt := { s.opt with rehQ := s.opt.rehQ ++ [p] } }
    else trainedNow s p

/-- A port not up in time stays on the new fibre and keeps training (R321). Log entry 64 (DEDUCED). -/
def steerLate (s : State) (p : Nat) : State :=
  match (oget s p).steerTo with
  | none => s
  | some (f, run) =>
    let s := if fget s F.PORT_STEER_CUR p = f then s else steerMove s p f
    let s := fset (oset s p { oget s p with steerTo := none }) F.PORT_STATUS_STEERING p 0
    let s := if fbit s F.PORT_CFG_ENABLE p && lit s p then startTraining s p else portDown s p
    coAll (steerFailed s p f 4 run) (p / 8)

/-! ## Rehearsal (R315, R316) -/

/-- The port that rehearses on a chiplet. -/
def rehActive (s : State) (c : Nat) : Option Nat := s.opt.rehQ.find? (fun p => p / 8 == c)

/-- The rehearsal ends: event 0x050C with every lane's margin, and the port comes up. -/
def rehearsalEnd (s : State) (p : Nat) : State :=
  let s := fset (oset s p { oget s p with reh := none }) F.PORT_STATUS_REHEARSING p 0
  let s := { s with opt := { s.opt with rehQ := s.opt.rehQ.filter (· != p) } }
  let s := emit s (portHalf p) unitOpt 0x050C ((p, 6) :: (List.range 8).map (fun n => (fget s (marginFld n) p, 8)))
  trainedNow s p

/-- A lane's margin is known. -/
def laneMargin (s : State) (p n steps : Nat) : State :=
  let s := fset s (marginFld n) p (5 * steps)
  let s := if steps < 4 then excludeLane (fset s F.PORT_STATUS_REH_FAIL p 1) p n 4 else s
  if n < 7 then oset s p { oget s p with reh := some (n + 1, 0) } else rehearsalEnd s p

/-- A dwell ends with its counts of symbol errors and bytes. -/
def dwell (s : State) (p errs bytes : Nat) : State :=
  if rehActive s (p / 8) ≠ some p ∨ (oget s p).prb = false then s
  else match (oget s p).reh with
    | none => s
    | some (n, k) =>
      if bytes < errs * 10000 then laneMargin s p n k
      else if k + 1 = 10 then laneMargin s p n 10
      else oset s p { oget s p with reh := some (n, k + 1) }

/-- No pattern came, from the RQP of the port whose turn it is (R316). -/
def noPattern (s : State) (p : Nat) : State :=
  if !fbit s F.PORT_STATUS_REHEARSING p || (oget s p).prb || rehActive s (p / 8) != some p then s
  else rehearsalEnd ((List.range 8).foldl (fun s n => fset s (marginFld n) p 0xFE) s) p

/-! ## The converter (R313, R314, R542, R543) -/

/-- Place k of a chiplet's round: port and lane. -/
def roundLane (c k : Nat) : Nat × Nat := if k < 64 then (8 * c + k / 8, k % 8) else (32 + c / 2, k - 64)
def roundLen (c : Nat) : Nat := if c % 2 = 0 then 66 else 64

/-- The level below which a lane is warned of, in 0.01 dB. -/
def warnLevel (p : Nat) : Int := if isSig p then -700 else -450

/-- Store a sample. -/
def storeSample (s : State) (x : Nat × Nat) (v : Nat) : State :=
  let s := fset s (rxPwr x.2) x.1 v
  if v ≠ 0x8000 ∧ sext v 16 < warnLevel x.1 then
    emitLim s (portHalf x.1) unitOpt 0x0506 (x.1 * 8 + x.2) (1000 * ms) [(x.1, 6), (x.2, 3), (v, 16)]
  else s

/-- The converter of a chiplet takes a sample. -/
def sample (s : State) (c v : Nat) : State :=
  let p := mget s.opt.conv c (0, 0)
  let next : Nat × Nat := ((p.1 + 1) % roundLen c, (p.2 + 1) % 8)
  let reh := (rehActive s c).bind (fun q => ((oget s q).reh).map (fun r => (q, r.1)))
  match reh with
  | some x =>
    if p.2 < 7 then storeSample { s with opt := { s.opt with conv := mput s.opt.conv c (p.1, p.2 + 1) (0, 0) } } x v
    else storeSample { s with opt := { s.opt with conv := mput s.opt.conv c next (0, 0) } } (roundLane c p.1) v
  | none => storeSample { s with opt := { s.opt with conv := mput s.opt.conv c next (0, 0) } } (roundLane c p.1) v

/-- `LAS_CTL` with CHANGE (R309, R340): ignored only where the understudy is not free. -/
def lasChange (s : State) (c n : Nat) : State :=
  let s := fset s F.LAS_CTL_LASER c n
  let i := 24 * c + n
  if undFree s i then markLaser s i true else s

/-- RETRAIN (R329): ignored while the port steers; a port that is disabled or without light does not train. -/
def portRetrain (s : State) (p : Nat) : State :=
  if steering s p || !fbit s F.PORT_CFG_ENABLE p || !lit s p then s else startTraining s p

/-- RELOCK (R303, R329). -/
def portRelock (s : State) (p m : Nat) : State :=
  (List.range (laneCount p)).foldl (fun s n =>
    if bitAt m n then laneBit (laneBit s F.PORT_RING_LOCKED p n false) F.PORT_RING_RELOCKING p n true else s) s

/-- CNT_CLR (R329). -/
def portCntClr (s : State) (p : Nat) : State := (List.range 8).foldl (fun s n => fset s (laneCorr n) p 0) s

/-! ## What a port sends (R295 to R297, R299, R312, R316) -/

/-- Whether a port puts light with symbols on its lanes. -/
def sendsLight (s : State) (p : Nat) : Bool := !fbit s F.PORT_STATUS_DARK p && clocked s p

/-- The lanes that are lit, and those of them that carry flit slots: none while every slot is a marker, in a partial reset (R312) or
before a steered port is up (R320). -/
def litMask (s : State) (p : Nat) : Nat := ((List.range (laneCount p)).filter (laneLight s p)).foldl (fun m n => m + 2 ^ n) 0
def outLive (s : State) (p : Nat) : Nat :=
  if (!isSig p && inPreset s (portHalf p)) || (steering s p && !(oget s p).trained) then 0 else Nat.land (fget s F.PORT_LANES_TX_LIVE p) (litMask s p)

/-- The NEXT a port announces (R299), and whether it asks for the pattern (R315). -/
def outNext (s : State) (p : Nat) : Nat :=
  if fbit s F.PORT_STATUS_TRAINING p then wantTx s p else (oget s p).txNext.getD (fget s F.PORT_LANES_TX_LIVE p)
def outRqp (s : State) (p : Nat) : Bool := fbit s F.PORT_STATUS_REHEARSING p && rehActive s (p / 8) == some p

/-- A power sample as RXPWR carries it, in units of 0.05 dB, within the field's range. Log entry 158 (DESIGN CHOICE). -/
def outPwr (v : Nat) : Nat := if v = 0x8000 then 0x200 else wrap (max (-511) (min 511 (sext v 16 / 5))) 10

/-- The marker of lane n in a frame that reports the power of lane `pl` (R297). -/
def outMarker (s : State) (p pl n : Nat) : BitVec 72 :=
  mkMarker n pl (isSig p) (outRqp s p) (deviceId s) (if isSig p then p - 32 else p) (fget s F.PORT_LANES_RX_GOOD p) (outNext s p)
    (outPwr (fget s (rxPwr pl) p)) (patternOut s p)

/-- What the markers of a port announce now; a change begins a new frame. -/
def outShown (s : State) (p : Nat) : List Nat :=
  [litMask s p, outLive s p, outNext s p, fget s F.PORT_LANES_RX_GOOD p, deviceId s, if outRqp s p then 1 else 0, if patternOut s p then 1 else 0]

/-- Slot k of a frame on each lit lane (R295): markers in slot 0 and, on lanes outside the live set, in every slot; else the block's
bytes, striped and scrambled. -/
def outSlot (s : State) (p pl k : Nat) (b : ErrPat) : Out :=
  let live := if k = 0 then [] else maskLanes (outLive s p)
  let w := popcount (outLive s p) 8
  .slot p k ((maskLanes (litMask s p)).map (fun n => (n, symbols (isSig p) (
    match live.findIdx? (· == n) with
    | none => markerShare (outMarker s p pl n) w
    | some j => ((blockShare b w j).zip (scrambleBytes k (shareLen w))).map (fun x => x.1.xor x.2)))))

/-- A frame begins: its markers, with the power of the next lane; all its slots where no flit can follow, the flit slots of a pattern
carrying zero data (R312, R315). -/
def outFrame (s : State) (p : Nat) (o : LaneOut) : List Out × LaneOut :=
  let whole := outLive s p == 0 || patternOut s p
  ((List.range (if whole then 49 else 1)).map (fun k => outSlot s p o.pwr k 0),
   { slot := if whole then 48 else 0, pwr := (o.pwr + 1) % laneCount p, shown := outShown s p })

/-- A flit takes the next slot, of a new frame where the frame in progress is full. -/
def outFlit (s : State) (p : Nat) (a : List Out × LaneOut) (f : Line) : List Out × LaneOut :=
  let r := if 48 ≤ a.2.slot then outFrame s p a.2 else ([], a.2)
  (a.1 ++ r.1 ++ [outSlot s p r.2.pwr (r.2.slot + 1) (codeBlock f)], { r.2 with slot := r.2.slot + 1 })

/-- What the ports put on their lanes for what has happened: a new frame where their markers announce something new, and the flits that
the link layer has sent since. Frames that repeat the last one are not shown. Log entry 158 (DESIGN CHOICE). -/
def outLanes (s : State) : List Out × NMap LaneOut :=
  let a := (List.range 34).foldl (fun (a : List Out × NMap LaneOut) p =>
    let o := mget a.2 p {}
    if sendsLight s p && o.shown != outShown s p then
      let r := outFrame s p o
      (a.1 ++ r.1, mput a.2 p r.2 {})
    else a) ([], s.opt.out)
  (s.outbox.drop s.opt.laned).foldl (fun (a : List Out × NMap LaneOut) o => match o with
    | .flits p fs =>
      if sendsLight s p then
        let r := fs.foldl (outFlit s p) ([], mget a.2 p {})
        (a.1 ++ r.1, mput a.2 p r.2 {})
      else a
    | _ => a) a

/-- Put on the lanes what is not yet there. -/
def lanesOut (s : State) : State :=
  { s with outbox := s.outbox ++ (outLanes s).1, opt := { s.opt with out := (outLanes s).2, laned := s.outbox.length + (outLanes s).1.length } }

end Sys2Proof.Machine
end

