-- ==== Sys2Proof/Machine/Operands.lean ====
section
/-!
DEFINITION. The fields of the tile instruction formats (R104 to R113, R115, R121). A row carries bits [63:8] of the word,
so bit b of the word is bit b − 8 here.
-/

namespace Sys2Proof.Machine

/-- Bits [lo+w-1:lo] of the instruction word, lo at least 8. -/
def wf (f : BitVec 56) (lo w : Nat) : Nat := bitsAt f.toNat (lo - 8) w

/-- Bit b of the instruction word. -/
def wb (f : BitVec 56) (b : Nat) : Bool := wf f b 1 == 1

/-- Formats S, B, M, D, X: the register in bits [12:8] and the one in bits [17:13]; format S and B: [22:18]. -/
def opD (f : BitVec 56) : Nat := wf f 8 5
def opA (f : BitVec 56) : Nat := wf f 13 5
def opB (f : BitVec 56) : Nat := wf f 18 5

/-- Format S: I, FN and IMM, sign-extended to 64 bits. -/
def opI (f : BitVec 56) : Bool := wb f 23
def opFn (f : BitVec 56) : Nat := wf f 24 8
def opImm (f : BitVec 56) : W64 := (BitVec.ofNat 32 (wf f 32 32)).signExtend 64

/-- The second operand of format S: SB or IMM as I selects (R106). -/
def op2 (t : Thread) (f : BitVec 56) : W64 := if opI f then opImm f else t.sreg (opB f)

/-- Format B: CC, and OFF × 8 as a signed displacement in bytes (R109). -/
def opCc (f : BitVec 56) : Nat := wf f 24 4
def opOff8 (f : BitVec 56) : Int := sext (wf f 32 32) 32 * 8

/-- Format V: the vector registers, TY, SEG, the scalar registers, FN and OFF. -/
def vD (f : BitVec 56) : Nat := wf f 8 4
def vA (f : BitVec 56) : Nat := wf f 12 4
def vB (f : BitVec 56) : Nat := wf f 16 4
def vC (f : BitVec 56) : Nat := wf f 20 4
def vTy (f : BitVec 56) : Nat := wf f 24 2
def vSeg (f : BitVec 56) : Nat := wf f 26 2
def vSA (f : BitVec 56) : Nat := wf f 28 5
def vSB (f : BitVec 56) : Nat := wf f 33 5
def vFn (f : BitVec 56) : Nat := wf f 38 4
def vOff (f : BitVec 56) : Int := sext (wf f 44 20) 20

/-- Format V: bits [43:42] are 0, and TY and SEG are 0 where the operation gives them no use (R105, R115). -/
def vResOk (f : BitVec 56) (useTy useSeg : Bool) : Bool :=
  wf f 42 2 == 0 && (useTy || vTy f == 0) && (if useSeg then vSeg f != 3 else vSeg f == 0)

end Sys2Proof.Machine
end

