-- ==== Sys2Proof/Machine/Issue.lean ====
section
/-!
DEFINITION. Issue of a tile instruction (R97 to R105): which thread may issue, the fetch's own errors, faults (R131), and
what issuing does to the thread beside the instruction's own effect.
-/

namespace Sys2Proof.Machine

/-- Fault causes of R131. -/
def cIllegal : Nat := 1
def cAddress : Nat := 2
def cLocalUncorr : Nat := 3
def cProgUncorr : Nat := 4
def cRefused : Nat := 5
def cRemoteUncorr : Nat := 6
def cReadOnly : Nat := 7
def cThreadBusy : Nat := 8
def cTimeout : Nat := 9

/-- A thread leaves the array: its open group is closed without read-out, and it is no longer held at an opener (R126). -/
def leaveArray (s : State) (t h : Nat) : State :=
  let a := (tget s t).array
  let a := { a with waiters := a.waiters.filter (fun o => o.thread != h) }
  match a.open? with
  | some g => setArray s t (if g.owner = h then a.closeOpen else a)
  | none => setArray s t a

/-- A thread faults (R131): it stops, its open group is closed, answers it still awaits are unwanted, the first fault is
recorded, and event 0x0107 is logged. -/
def faultThread (s : State) (t h cause blk pc : Nat) : State :=
  let s := leaveArray s t h
  let ti := tget s t
  let ti := (ti.setTh h { ti.th h with st := .faulted, wait := .none })
  let s := tset s t { ti with ops := ti.ops.map (fun o => if o.thread = h then { o with live := false } else o) }
  let s := if fbit s F.TILE_FAULT_VALID t then s else
    let s := fset (fset s F.TILE_FAULT_CAUSE t cause) F.TILE_FAULT_THREAD t h
    let s := fset (fset s F.TILE_FAULT_BLOCK t (if cause = cAddress ∨ cause = cLocalUncorr then blk else 0)) F.TILE_FAULT_VALID t 1
    fset s F.TILE_FAULT_PC_PC t pc
  emit s (tileHalf t) (tileBlock t) 0x0107 [(t, 12), (h, 3), (cause, 4), (pc, 15)]

/-- What an instruction does at issue: it goes on, jumps, stays held, faults, is switched out, or makes its thread idle. Log entry 25 (DEDUCED). -/
inductive IRes where
  | go (s : State)
  | jump (s : State) (pc : Nat)
  | hold (s : State)
  | fault (s : State) (cause blk : Nat)
  | out (s : State) (w : Wait)
  | idle (s : State)

/-- Whether a refused request of the thread waits for a place in its half's delay list (R364), which holds the thread. Log entry 25 (DEDUCED). -/
def listHeld (s : State) (t h : Nat) : Bool :=
  s.fab.tx.any (fun x => x.sent.any (fun e => e.answered == some 7 && !e.delayed && !e.due && (match e.who with
    | .tile t2 op _ => t2 == t && (tget s t).ops.any (fun o => o.id == op && o.thread == h)
    | _ => false)))

/-- Whether the thread can issue: the tile is in service, RUN is 1, its half is not in partial reset, and the thread is
ready or held (R99, R134). Log entry 24 (DESIGN CHOICE). -/
def canIssue (s : State) (t h : Nat) : Bool :=
  !tileRetired s t && fbit s F.TILE_CTL_RUN t && !inPreset s (tileHalf t) && !listHeld s t h &&
    (((tget s t).th h).st == .ready || ((tget s t).th h).st == .held)

/-- The end of an issue: the program counter, the thread's state and the issue counters. -/
def finish (t h : Nat) (r : IRes) : State :=
  let pcOf : State → Nat := fun s => ((tget s t).th h).pc
  let upd : State → ThState → Nat → Wait → State := fun s st pc w =>
    fcount (setThread s t h { (tget s t).th h with st := st, pc := pc, wait := w }) F.TILE_ISSUED_COUNT t 1
  match r with
  | .go s => upd s .ready (pcOf s + 8) .none
  | .jump s pc => upd s .ready pc .none
  | .hold s => setThread s t h { (tget s t).th h with st := .held }
  | .fault s c b => faultThread (fcount s F.TILE_ISSUED_COUNT t 1) t h c b (pcOf s)
  | .out s w => fcount (upd s .out (pcOf s + 8) w) F.TILE_SWITCHES_COUNT t 1
  | .idle s => upd s .idle (pcOf s + 8) .none

/-- The fetched line with the damage it has met (R98): corrected in passing, or a fault of cause 4. -/
def fetch (s : State) (t h : Nat) (d : Damage) : State × Bool :=
  let ti := tget s t
  let l := (ti.th h).pc / 64
  let e := mget ti.progErr l 0 ^^^ d
  if e = 0 then (s, true)
  else
    let s := tset s t { ti with progErr := mput ti.progErr l e 0 }
    match decodeBlock 4 [] e with
    | .uncorrectable => (noteUncorr s t (8192 + l), false)
    | .clean _ => (s, true)
    | .corrected _ => (noteCorr (tset s t { tget s t with progErr := mput (tget s t).progErr l 0 0 }) t, true)

/-- Issue an instruction: thread `x.thread` of tile `x.tile` issues `body` if it can; otherwise nothing happens. Log entries 2 (DESIGN CHOICE), 23 (DESIGN CHOICE), 24 (DESIGN CHOICE). -/
def issue (x : Issue) (s : State) (body : State → Nat → Nat → IRes) : Res :=
  let t := x.tile.toNat; let h := x.thread.toNat
  if !canIssue s t h then .next s
  else
    let s := applyUpsets s t x.upsets
    let ti := tget s t
    let s := tset s t { ti with lastTh := h }
    if 0x7FF8 < (ti.th h).pc ∨ (ti.th h).pc % 8 ≠ 0 then .next (finish t h (.fault s cAddress 0))
    else
      let p := fetch s t h x.progErr
      if p.2 then .next (finish t h (body p.1 t h)) else .next (finish t h (.fault p.1 cProgUncorr 0))

/-- Write a scalar register and go on. -/
def goS (s : State) (t h sd : Nat) (v : W64) : IRes := .go (setThread s t h (((tget s t).th h).setS sd v))

/-- The block index a faulting tile-store address names. -/
def faultBlk (a : Nat) : Nat := a / 64 % 8192

end Sys2Proof.Machine
end

