-- ==== Sys2Proof/Machine/Threads.lean ====
section
/-!
DEFINITION. Thread control, event counters, control registers (R125 to R128), the tile's control register and retirement
(R129, R130, R134, R146).
-/

namespace Sys2Proof.Machine

/-- An event counter of a tile. -/
def evGet (ti : Tile) (n : Nat) : W32 := mget ti.events n 0

/-- Whether a read-out of the thread is issued and not yet written. -/
def readOutPending (ti : Tile) (h : Nat) : Bool :=
  (readOutGroups ti.array).any (fun g => (g.readOut.map (·.thread)) == some h)

/-- TEV_INC, opcode 0xA0 (R125): adds IMM[7:0]; held until the thread's read-outs have been written. -/
def execTevInc (x : Issue) (f : BitVec 56) (s : State) : Res :=
  issue x s fun s t h =>
    let imm := wf f 32 32
    if opI f = false ∨ 16 ≤ opFn f ∨ imm = 0 ∨ 256 ≤ imm then .fault s cIllegal 0
    else if readOutPending (tget s t) h then .hold s
    else
      let ti := tget s t
      .go (tset s t { ti with events := mput ti.events (opFn f) (evGet ti (opFn f) + BitVec.ofNat 32 imm) 0 })

/-- TEV_WAIT, opcode 0xA1 (R125): holds the thread until the counter equals op2 or is newer (R29). -/
def execTevWait (x : Issue) (f : BitVec 56) (s : State) : Res :=
  issue x s fun s t h =>
    let ti := tget s t
    let want := (op2 (ti.th h) f).toNat % 2 ^ 32
    let cur := (evGet ti (opFn f)).toNat
    if 16 ≤ opFn f then .fault s cIllegal 0
    else if cur = want ∨ seqNewer cur want then .go s
    else .hold s

/-- HALT, opcode 0xA4 (R126): the thread becomes idle; an open group it owns is closed without read-out, which is a sequence
error. -/
def execHalt (x : Issue) (f : BitVec 56) (s : State) : Res :=
  issue x s fun s t h =>
    if opFn f ≠ 0 then .fault s cIllegal 0
    else
      let owns := ((tget s t).array.open?.map (·.owner)) == some h
      let s := leaveArray s t h
      .idle (if owns then seqError s t else s)

/-- A thread started at `pc` with every register 0. -/
def startedThread (pc : Nat) : Thread := { st := .ready, pc := pc }

/-- TSTART, opcode 0xA5 (R126): starts the idle thread sa[2:0] at the program counter sb; its s1 holds the issuer's SD. A program
counter out of range is the started thread's fault, when it issues (R131 cause 2). Log entry 27 (DESIGN CHOICE). -/
def execTstart (x : Issue) (f : BitVec 56) (s : State) : Res :=
  issue x s fun s t h =>
    let th := (tget s t).th h
    let k := (th.sreg (opA f)).toNat % 8
    let pc := (th.sreg (opB f)).toNat
    if opFn f ≠ 0 then .fault s cIllegal 0
    else if ((tget s t).th k).st ≠ .idle then .fault s cThreadBusy 0
    else .go (setThread s t k ((startedThread pc).setS 1 (th.sreg (opD f))))

/-- The value of a control register (R127); none for a reserved number. The number of completed waves is an open value: the
wave rate is not modelled. -/
def crdValue (s : State) (t h n : Nat) : Option (Nat × State) :=
  if 0x40 ≤ n ∧ n < 0x80 then some ((mget (tget s t).retired (n - 0x40) 0).toNat, s)
  else
    match n with
    | 0x00 => some (h, s)
    | 0x01 => some (t, s)
    | 0x02 => some (fget s F.TILE_LOGICAL_LTN t, s)
    | 0x03 => some (fget s F.TILE_JOB_JOB t, s)
    | 0x04 => some (fget s F.TILE_JOB_SEED_SEED t, s)
    | 0x05 => some (fget s F.TILE_STEP_STEP t, s)
    | 0x06 => some (((tget s t).th h).cond, s)
    | 0x07 => some (fget s F.MOD_DEVICE_ID_ID + 65536 * fget s F.MOD_DEVICE_ID_VALID, s)
    | 0x08 => some (fresh s)
    | 0x09 => some (now s (tileHalf t), s)
    | _ => none

/-- CRD, opcode 0xA2 (R127): sd = control register FN, zero-extended; a reserved number is illegal. Log entries 9 (DESIGN CHOICE), 26 (DESIGN CHOICE). -/
def execCrd (x : Issue) (f : BitVec 56) (s : State) : Res :=
  issue x s fun s t h =>
    match crdValue s t h (opFn f) with
    | none => .fault s cIllegal 0
    | some (v, s) => goS s t h (opD f) (BitVec.ofNat 64 v)

/-- CWR, opcode 0xA3 (R127): STEP or COND takes the low bits of sa; any other number faults. Log entry 147 (DEDUCED). -/
def execCwr (x : Issue) (f : BitVec 56) (s : State) : Res :=
  issue x s fun s t h =>
    let th := (tget s t).th h
    let v := (th.sreg (opA f)).toNat
    if opFn f = 5 then .go (fset s F.TILE_STEP_STEP t v)
    else if opFn f = 6 then .go (setThread s t h { th with cond := Nat.land v 0x37F })
    else .fault s cReadOnly 0

/-! ## The tile's control register (R134) -/

/-- A refused management write or START: event 0x010A, limited (R148). -/
def tileRefused (s : State) (t : Nat) : State := emitLim s (tileHalf t) (tileBlock t) 0x010A t ms [(t, 12)]

/-- RUN (R134): with 0 no thread issues. A retired tile's window ignores writes (R72). -/
def tileRun (s : State) (t : Nat) (v : Bool) : State := if tileRetired s t then s else fsetb s F.TILE_CTL_RUN t v

/-- The dispatcher loads a tile's program store over the block link (R98), which counts the bytes (R147). Log entry 2 (DESIGN CHOICE). -/
def tileLoad (s : State) (t : Nat) : State :=
  let ti := tget s t
  ti.image.foldl (fun s l => fcount (writeProg s t l.1.toNat l.2) F.BLK_LINK_RD_BYTES (tileBlock t) 64) (tset s t { ti with image := [] })

/-- START (R98, R134): the dispatcher has loaded the program, and thread 0 begins at `TILE_ENTRY` with every register 0 and the event
counters 0; refused unless every thread is idle, nothing is outstanding, and no retirement is pending (R130). A retired tile takes
neither (R72). Log entry 2 (DESIGN CHOICE). -/
def tileStart (s : State) (t : Nat) : State :=
  if tileRetired s t then s
  else
    let s := tileLoad s t
    let ti := tget s t
    if bitAt (fget s F.BLK_RETIRE_PEND_MAP (tileBlock t)) (t % 64) || !allIdle ti || outstanding s t != 0 then tileRefused s t
    else tset s t { ti.setTh 0 (startedThread (fget s F.TILE_ENTRY_ENTRY t * 8)) with events := [] }

/-- ABORT (R134): every thread idle, the open group closed, array and vector instructions not yet performed discarded, the
event counters 0; operations already issued still take effect, and their responses are discarded. -/
def tileAbort (s : State) (t : Nat) : State :=
  let ti := tget s t
  if tileRetired s t then s
  else
    tset s t { ti with
      threads := ti.threads.map (fun h => { h with st := .idle, wait := .none, streams := [] }), events := [],
      array := { nextId := ti.array.nextId }, ops := ti.ops.map (fun o => { o with live := false }) }

/-- CNT_CLR of `TILE_CTL` (R134, R142). -/
def tileCntClr (s : State) (t : Nat) : State :=
  if tileRetired s t then s else fset (fset s F.TILE_ISSUED_COUNT t 0) F.TILE_SWITCHES_COUNT t 0

/-- CNT_CLR of `TILE_ARRAY_CTL` (R71). -/
def tileArrayCntClr (s : State) (t : Nat) : State :=
  if tileRetired s t then s else fset (fset s F.TILE_ARRAY_BUSY_COUNT t 0) F.TILE_ARRAY_STALL_COUNT t 0

/-- TILE_CTL_RUN (R134). -/
def execTileCtlRun (tile : BitVec 12) (run : Bool) (s : State) : Res := .next (tileRun s tile.toNat run)

/-- TILE_CTL_START (R134). Log entries 2 (DESIGN CHOICE), 27 (DESIGN CHOICE). -/
def execTileCtlStart (tile : BitVec 12) (s : State) : Res := .next (tileStart s tile.toNat)

/-- TILE_CTL_CNT_CLR (R134). -/
def execTileCtlCntClr (tile : BitVec 12) (s : State) : Res := .next (tileCntClr s tile.toNat)

/-- TILE_ARRAY_CNT_CLR (R71). -/
def execTileArrayCntClr (tile : BitVec 12) (s : State) : Res := .next (tileArrayCntClr s tile.toNat)

/-- BLK_CTL_RETIRE (R130, R146): TILE is set and its retirement requested. -/
def execBlkCtlRetire (block : BitVec 6) (tile : BitVec 6) (s : State) : Res :=
  .next (requestRetire (fset s F.BLK_CTL_TILE block.toNat tile.toNat) (block.toNat * 64 + tile.toNat))

/-- RETIREMENT_TAKES_EFFECT (R130 step 2): a pending retirement whose tile is idle with nothing outstanding. -/
def execRetirementTakesEffect (tile : BitVec 12) (s : State) : Res :=
  let t := tile.toNat
  if bitAt (fget s F.BLK_RETIRE_PEND_MAP (tileBlock t)) (t % 64) && allIdle (tget s t) && outstanding s t == 0 then
    .next (retireNow s t)
  else .next s

/-- RETIRED_MAP_TAKEN (R129): the tile's RETIRED register of the block takes the map as `BLK_RETIRED` now shows it. -/
def execRetiredMapTaken (tile : BitVec 12) (block : BitVec 6) (s : State) : Res :=
  let ti := tget s tile.toNat
  .next (tset s tile.toNat { ti with
    retired := mput ti.retired block.toNat (BitVec.ofNat 64 (fget s F.BLK_RETIRED_MAP block.toNat)) 0 })

end Sys2Proof.Machine
end

