-- ==== Sys2Proof/Machine/Remote.lean ====
section
/-!
DEFINITION. A tile's remote accesses and transfers (R100, R102, R121 to R123, R216): what issuing one does, what an answer
does, and when a waiting thread goes on.
-/

namespace Sys2Proof.Machine

/-- Count payload bytes on a tile's block link (R147). Log entry 35 (DEDUCED). -/
def linkRd (s : State) (t n : Nat) : State := if n = 0 then s else fcount s F.BLK_LINK_RD_BYTES (tileBlock t) n
def linkWr (s : State) (t n : Nat) : State := if n = 0 then s else fcount s F.BLK_LINK_WR_BYTES (tileBlock t) n

/-- The payload bytes of a tile's request: operands and lines. -/
def Req.payload (r : Req) : Nat :=
  if r.op = 2 then r.width else if r.op = 3 then (if r.fn % 16 = 5 then 2 * r.width else r.width) else 64 * r.data.length

/-- Whether an operation still awaits an answer. -/
def TOp.open_ (o : TOp) : Bool := decide (o.done < o.pieces)

/-- Whether an operation is a transfer, and whether it is a posted store or atomic. -/
def TOp.isXfer (o : TOp) : Bool := match o.kind with | .get _ | .put | .getp _ => true | _ => false
def TOp.isPosted (o : TOp) : Bool := match o.kind with | .posted => true | _ => false

/-- Operations that are over and have nothing more to say are forgotten. -/
def Tile.pruneOps (t : Tile) : Tile := { t with ops := t.ops.filter (fun o => o.open_ || (o.live && o.fail.isSome)) }

/-- A tile's job (R137). -/
def tileJob (s : State) (t : Nat) : Nat := fget s F.TILE_JOB_JOB t

/-- Record a new operation of a thread, and its number. -/
def newOp (s : State) (t h pieces : Nat) (k : TOpKind) (fail : Option (Nat × Nat)) : State × Nat :=
  let ti := tget s t
  let o : TOp := { id := ti.nextOp, thread := h, pc := (ti.th h).pc, kind := k, pieces := pieces, done := 0, live := true, fail := fail, failAt := pieces }
  (tset s t { ti with ops := ti.ops ++ [o], nextOp := ti.nextOp + 1 }, ti.nextOp)

/-- Whether the sender can take `n` requests toward an address now (R102, R210, R363); one it answers itself needs no room. -/
def canSendNow (s : State) (job addr n : Nat) : Bool :=
  (senderStatus s job (addr / 2 ^ 48)).2.isSome || !mustWait s (addr / 2 ^ 48) job 5 n

/-- Whether the thread can record one more posted stream (R216): recorded already, a free record, or a settled oldest one. -/
def canRecord (s : State) (th : Thread) (dst job : Nat) : Bool :=
  th.streams.any (fun x => x.1 == dst && x.2.1 == job) || decide (th.streams.length < 16) ||
    (match th.streams with
     | [] => true
     | x :: _ => (txGet s x.1 x.2.1).settledTo x.2.2)

/-- Record the last SEQ sent on a stream for the thread's next fence. -/
def recordStream (s : State) (t h dst job : Nat) : State :=
  if !s.fab.tx.any (fun x => x.dst == dst && x.job == job) then s
  else
    let q := ((txGet s dst job).next + 2 ^ 32 - 1) % 2 ^ 32
    let th := (tget s t).th h
    let rest := th.streams.filter (fun x => !(x.1 == dst && x.2.1 == job))
    let rest := if 16 ≤ rest.length then rest.drop 1 else rest
    setThread s t h { th with streams := rest ++ [(dst, job, q)] }

/-- A blank request. -/
def req0 (op job addr : Nat) : Req :=
  { op := op, fn := 0, job := job, addr := addr, operand := 0, compare := 0, msg := 0, pkt := 0, total := 0, data := [] }

/-- The global address of a remote scalar instruction: sa + IMM. -/
def remoteAddr (s : State) (t h : Nat) (f : BitVec 56) : Nat := (((tget s t).th h).sreg (opA f) + opImm f).toNat

/-- Issue a request that switches the thread out until its answer arrives (R100). -/
def issueWait (s : State) (t h sd : Nat) (wide : Bool) (r : Req) : IRes :=
  if !canSendNow s r.job r.addr 1 then .hold s
  else
    let n := newOp s t h 1 (.load sd wide) none
    .out (submit (linkWr n.1 t r.payload) r (.tile t n.2 0)) (.op n.2)

/-- Issue a posted store or atomic (R100, R102, R216). -/
def issuePosted (s : State) (t h : Nat) (r : Req) : IRes :=
  let ti := tget s t
  let busy := (ti.ops.filter (fun o => o.open_ && o.isPosted && o.thread == h)).length
  if 32 ≤ busy || !canSendNow s r.job r.addr 1 || !canRecord s (ti.th h) (r.addr / 2 ^ 48) r.job then .hold s
  else
    let n := newOp s t h 1 .posted none
    .go (recordStream (submit (linkWr n.1 t r.payload) r (.tile t n.2 0)) t h (r.addr / 2 ^ 48) r.job)

/-- LDG (R123). -/
def bodyLdg (f : BitVec 56) (s : State) (t h : Nat) : IRes :=
  if opI f = false ∨ 2 ≤ opFn f then .fault s cIllegal 0
  else issueWait s t h (opD f) (bitAt (opFn f) 0) { req0 1 (tileJob s t) (remoteAddr s t h f) with fn := opFn f }

/-- STG (R123). -/
def bodyStg (f : BitVec 56) (s : State) (t h : Nat) : IRes :=
  if opI f = false ∨ 2 ≤ opFn f then .fault s cIllegal 0
  else
    let v := (((tget s t).th h).sreg (opB f)).toNat
    issuePosted s t h { req0 2 (tileJob s t) (remoteAddr s t h f) with
      fn := opFn f, operand := if bitAt (opFn f) 0 then v else v % 2 ^ 32 }

/-- AMO (R123): codes 8 to 15 are reserved, and codes 6 and 7 require 32 bits. -/
def bodyAmo (f : BitVec 56) (s : State) (t h : Nat) : IRes :=
  let fn := opFn f
  if opI f = false ∨ 64 ≤ fn ∨ 8 ≤ fn % 16 ∨ (bitAt fn 4 ∧ 6 ≤ fn % 16) then .fault s cIllegal 0
  else
    let th := (tget s t).th h
    let m := if bitAt fn 4 then 2 ^ 64 else 2 ^ 32
    let r := { req0 3 (tileJob s t) (remoteAddr s t h f) with
      fn := fn, operand := (th.sreg (opB f)).toNat % m, compare := if fn % 16 = 5 then (th.sreg (opD f)).toNat % m else 0 }
    if bitAt fn 5 then issuePosted s t h r else issueWait s t h (opD f) (bitAt fn 4) r

/-- Transfers of a tile not yet complete (R102). -/
def xfersOpen (ti : Tile) : Nat := (ti.ops.filter (fun o => o.open_ && o.isXfer)).length

/-- XGET and XGETP (R121): the transfer's range at `b` must end inside the tile store, for XGETP inside the program store, whose
addresses name no tile-store block (R140). -/
def bodyGet (prog : Bool) (f : BitVec 56) (s : State) (t h : Nat) : IRes :=
  let th := (tget s t).th h
  let a := (th.sreg (wf f 8 5)).toNat; let b := (th.sreg (wf f 13 5)).toNat
  let n := wf f 18 12 + 1
  if wf f 30 34 ≠ 0 then .fault s cIllegal 0
  else if a % 64 ≠ 0 ∨ b % 64 ≠ 0 ∨ (if prog then 0x8000 else 0x80000) < b + 64 * n then .fault s cAddress (if prog then 0 else faultBlk b)
  else if 32 ≤ xfersOpen (tget s t) ∨ canSendNow s (tileJob s t) a 1 = false ∨ canRecord s th (a / 2 ^ 48) (tileJob s t) = false then .hold s
  else
    let o := newOp s t h 1 (if prog then .getp (b / 64) else .get (b / 64)) none
    let m := newMsg o.1
    .go (recordStream (submit m.1 { req0 4 (tileJob s t) a with operand := n - 1, msg := m.2, total := 1 } (.tile t o.2 0)) t h (a / 2 ^ 48) (tileJob s t))

/-- Read the blocks of an XPUT in order, up to the first uncorrectable one, whose index is answered too. Log entry 34 (DEDUCED). -/
def putBlocks (t : Nat) : List Nat → State → List Line → State × List Line × Option Nat
  | [], s, ls => (s, ls, none)
  | b :: bs, s, ls =>
    match readBlock s t b with
    | (s, some v) => putBlocks t bs s (ls ++ [v])
    | (s, none) => (s, ls, some b)

/-- The WRITE packets of a transfer. -/
def writeReqs (job a msg : Nat) (ls : List Line) : List Req :=
  let n := (ls.length + 63) / 64
  (List.range n).map (fun i => { req0 5 job (a + 4096 * i) with msg := msg, pkt := i, total := n, data := (ls.drop (64 * i)).take 64 })

/-- XPUT (R121, R131): the blocks before an uncorrectable one are sent; cause 3 is taken at the next fence or wait. Log entry 34 (DEDUCED). -/
def bodyPut (f : BitVec 56) (s : State) (t h : Nat) : IRes :=
  let th := (tget s t).th h
  let a := (th.sreg (wf f 8 5)).toNat; let b := (th.sreg (wf f 13 5)).toNat
  let n := wf f 18 12 + 1
  let blks := (List.range n).map (fun i => b / 64 + i)
  if wf f 30 34 ≠ 0 then .fault s cIllegal 0
  else if a % 64 ≠ 0 ∨ b % 64 ≠ 0 ∨ 0x80000 < b + 64 * n then .fault s cAddress (faultBlk b)
  else if 32 ≤ xfersOpen (tget s t) ∨ canSendNow s (tileJob s t) a ((n + 63) / 64) = false
    ∨ canRecord s th (a / 2 ^ 48) (tileJob s t) = false ∨ blks.any (blockPending (tget s t)) = true then .hold s
  else
    let r := putBlocks t blks s []
    let m := newMsg r.1
    let rs := writeReqs (tileJob s t) a m.2 r.2.1
    let o := newOp m.1 t h rs.length .put (r.2.2.map (fun k => (cLocalUncorr, k)))
    let s2 := (rs.zipIdx).foldl (fun s q => submit (linkWr s t q.1.payload) q.1 (.tile t o.2 q.2)) o.1
    .go (recordStream s2 t h (a / 2 ^ 48) (tileJob s t))

/-- The fault a wait or fence takes from the operations it covers (R131). -/
def coveredFail (ti : Tile) (h : Nat) (sel : TOp → Bool) : Option (Nat × Nat) :=
  (ti.ops.find? (fun o => o.thread == h && sel o && !o.open_ && o.live && o.fail.isSome)).bind (·.fail)

/-- Incomplete transfers of a thread. -/
def threadXfers (ti : Tile) (h : Nat) : Nat := (ti.ops.filter (fun o => o.open_ && o.isXfer && o.thread == h)).length

/-- Whether a thread's fence holds now (R122, R216). -/
def fenceDone (s : State) (t h : Nat) : Bool :=
  let ti := tget s t
  ti.ops.all (fun o => !(o.open_ && o.thread == h)) && (ti.th h).streams.all (fun x => (txGet s x.1 x.2.1).settledTo x.2.2)

/-- XWAIT (R122). -/
def bodyXwait (f : BitVec 56) (s : State) (t h : Nat) : IRes :=
  let n := wf f 32 32
  if opI f = false ∨ opFn f ≠ 0 ∨ 32 ≤ n then .fault s cIllegal 0
  else if n < threadXfers (tget s t) h then .out s (.xfers n ((tget s t).th h).pc)
  else
    match coveredFail (tget s t) h TOp.isXfer with
    | some c => .fault s c.1 c.2
    | none => .go s

/-- FENCE (R122, R216). -/
def bodyFence (f : BitVec 56) (s : State) (t h : Nat) : IRes :=
  if opFn f ≠ 0 then .fault s cIllegal 0
  else if !fenceDone s t h then .out s (.fence ((tget s t).th h).pc)
  else
    match coveredFail (tget s t) h (fun _ => true) with
    | some c => .fault s c.1 c.2
    | none => .go (setThread s t h { (tget s t).th h with streams := [] })

/-- Ready a switched-out thread. -/
def readyThread (s : State) (t h : Nat) (streams : Bool) : State :=
  let th := (tget s t).th h
  setThread s t h { th with st := .ready, wait := .none, streams := if streams then [] else th.streams }

/-- A waiting thread whose wait or fence now holds goes on, or takes the fault it covers. -/
def wakeThread (s : State) (t h : Nat) : State :=
  let th := (tget s t).th h
  if th.st != .out then s
  else
    match th.wait with
    | .xfers n pc =>
      if n < threadXfers (tget s t) h then s
      else match coveredFail (tget s t) h TOp.isXfer with
        | some c => faultThread s t h c.1 c.2 pc
        | none => readyThread s t h false
    | .fence pc =>
      if !fenceDone s t h then s
      else match coveredFail (tget s t) h (fun _ => true) with
        | some c => faultThread s t h c.1 c.2 pc
        | none => readyThread s t h true
    | _ => s

/-- Every waiting thread of every tile. -/
def wakeAll (s : State) : State :=
  (s.tiles.map (·.1)).foldl (fun s t =>
    let s := (List.range 8).foldl (fun s h => wakeThread s t h) s
    tset s t (tget s t).pruneOps) s

/-- Write the lines of a transfer at its destination. -/
def writeLines (s : State) (t b : Nat) (prog : Bool) (ls : List Line) : State :=
  (ls.zipIdx).foldl (fun s q => if prog then writeProg s t (b + q.2) q.1 else writeBlock s t (b + q.2) q.1) s

/-- The next answer on its way to a tile arrives (R100, R131): a waiting thread gets its value or faults, a transfer its
lines; answers of aborted and faulted threads are discarded. -/
def takeArrival (s : State) (t : Nat) : State :=
  let ti := tget s t
  match ti.arrivals with
  | [] => s
  | a :: as =>
    let ti := { ti with arrivals := as }
    match ti.ops.find? (fun o => o.id == a.op) with
    | none => tset s t ti
    | some o =>
      let o2 := { o with done := o.done + 1 }
      let o2 := if a.status ≠ 0 ∧ (o.fail = none ∨ a.piece < o.failAt) then { o2 with fail := some (causeOf a.status, 0), failAt := a.piece } else o2
      let s := tset s t { ti with ops := ti.ops.map (fun x => if x.id = o.id then o2 else x) }
      let s := linkRd s t (match o.kind with
        | .load _ wide => if a.status ≠ 0 then 0 else if wide then 8 else 4
        | _ => 64 * a.data.length)
      if !o.live then tset s t (tget s t).pruneOps
      else
        match o.kind with
        | .load sd wide =>
          let ti := tget s t
          let s := tset s t { ti with ops := ti.ops.filter (fun x => x.id != o.id) }
          if a.status ≠ 0 then faultThread s t o.thread (causeOf a.status) 0 o.pc
          else
            let th := (tget s t).th o.thread
            let v := if wide then a.value else a.value % 2 ^ 32
            setThread s t o.thread { th.setS sd (BitVec.ofNat 64 v) with st := .ready, wait := .none }
        | .get b => writeLines s t b false a.data
        | .getp b => writeLines s t b true a.data
        | .posted => s
        | .put => s

end Sys2Proof.Machine
end

