-- ==== Sys2Proof/Machine/Shunter.lean ====
section
/-!
DEFINITION. The shunter (R280 to R290): commands, their index lists and rows, and what each answer to one of its requests
leads to.
-/

namespace Sys2Proof.Machine

/-! ## Fields of a command -/

def shOp (l : Line) : Nat := lb l 0 4
def shDk (l : Line) : Bool := lb l 6 1 == 1
def shTile (l : Line) : Nat := lb l 16 12
def shCount (l : Line) : Nat := lb l 32 16 + 1
def shRowL (l : Line) : Nat := lb l 64 7 + 1
def shTaddr (l : Line) : Nat := lb l 96 19

/-- The kind for which a command is refused when it is taken (R283), if any. Log entries 58 (DEDUCED), 59 (DEDUCED). -/
def shnBad (s : State) (h : Half) (job : Nat) (l : Line) : Option Nat :=
  let t := shTile l
  let sc := shOp l = 2
  if 3 ≤ shOp l ∨ (sc ∧ (lb l 4 2 = 3 ∨ shDk l)) ∨ (¬sc ∧ lb l 4 2 ≠ 0) ∨ lb l 12 4 ≠ 0 ∨ lb l 28 4 ≠ 0 ∨ lb l 48 16 ≠ 0 ∨ lb l 71 1 ≠ 0
      ∨ 23 < lb l 80 5 ∨ lb l 85 11 ≠ 0 ∨ lb l 115 13 ≠ 0 ∨ lb l 224 32 ≠ 0 ∨ lb l 448 64 ≠ 0 then some 1
  else if shTaddr l % 64 ≠ 0 ∨ lb l 128 6 ≠ 0 ∨ lb l 192 6 ≠ 0 ∨ lb l 256 6 ≠ 0 ∨ (shDk l ∧ lb l 320 6 ≠ 0) ∨ lb l 384 3 ≠ 0 then some 2
  else if tileHalf t ≠ h then some 3
  else if tileRetired s t ∨ fget s F.TILE_JOB_JOB t ≠ job then some 4
  else none

/-- The output of `n` rows runs past the tile store, or the rows are too many (R281, R283). -/
def shnRange (l : Line) (n : Nat) : Bool :=
  decide (65536 < n) || (!shDk l && decide (0x80000 < shTaddr l + 64 * shRowL l * n))

/-! ## Completion (R284, R287) -/

/-- The pseudo row number of a completion record. -/
def shnRecRow : Nat := 2 ^ 21

/-- The completion record of command `id` goes to DONE from the shunter of half `h`, if DONE is not 0. -/
def shnRecord (s : State) (h : Half) (id job : Nat) (l : Line) (st nfail first : Nat) : State :=
  if lb l 384 64 = 0 then s
  else submit s { op := 2, fn := 1, job := job, addr := lb l 384 64, operand := st + min nfail 0xFFFF * 2 ^ 16 + first % 2 ^ 32 * 2 ^ 32,
                  compare := 0, msg := 0, pkt := 0, total := 0, data := [] } (.shn h.num id shnRecRow)

/-- Event counter EV of TILE is incremented (R284). -/
def shnEv (s : State) (l : Line) : State :=
  let t := shTile l; let ti := tget s t
  tset s t { ti with events := mput ti.events (lb l 8 4) (mget ti.events (lb l 8 4) 0 + 1) 0 }

/-- A command completes at once as BAD_CMD or BUSY (R283): event, EV and record, under a number of its own. -/
def shnRefuse (s : State) (h : Half) (slot job : Nat) (l : Line) (kind : Nat) : State :=
  let s := shnEv (shnRefused s h slot kind job (shTile l)) l
  shnRecord { s with shn := { s.shn with nextId := s.shn.nextId + 1 } } h s.shn.nextId job l (if kind = 6 then 4 else 2) 0 0

/-! ## Rows -/

/-- The command with a number, its update and its end. -/
def shnGet (s : State) (id : Nat) : Option ShnCmd := s.shn.cmds.find? (fun c => c.id == id)
def shnSet (s : State) (c : ShnCmd) : State :=
  { s with shn := { s.shn with cmds := s.shn.cmds.map (fun x => if x.id = c.id then c else x) } }
def shnDrop (s : State) (id : Nat) : State := { s with shn := { s.shn with cmds := s.shn.cmds.filter (fun c => c.id != id) } }

/-- The global address of a table row (R282); none where the member map is not valid. -/
def shnAddr (s : State) (l : Line) (n : Nat) : Option Nat :=
  let tab := lb l 128 64; let st := lb l 192 32; let rs := lb l 80 5
  if lb l 7 1 = 0 then some ((tab + n * st) % 2 ^ 64)
  else match mapIds s (lb l 72 8) with
    | none => none
    | some ids =>
      let t := n / 2 ^ rs; let m := ids.length
      some (withDev ((tab % 2 ^ 48 + (t / m * 2 ^ rs + n % 2 ^ rs) * st) % 2 ^ 48) (ids.getD (t % m) 0))

/-- The rows that an index list names (R281), or none where a reserved bit is set. -/
def indexRows (l : Line) (ls : List Line) : Option (List (Option Nat)) :=
  if shOp l = 1 then
    let es := (List.range (shCount l)).map (fun i => lb (ls.getD (i / 8) 0) (64 * (i % 8)) 64)
    guardOpt (es.all (fun e => bitsAt e 23 9 == 0 && bitsAt e 55 9 == 0))
      (es.flatMap (fun e => (List.range (bitsAt e 32 23 + 1)).map (fun i => some (bitsAt e 0 23 + i))))
  else
    let es := (List.range (shCount l)).map (fun i => lb (ls.getD (i / 16) 0) (32 * (i % 16)) 32)
    guardOpt (es.all (fun e => bitsAt e 23 8 == 0)) (es.map (fun e => guardOpt (!bitAt e 31) (bitsAt e 0 23)))

/-- Row r of a command, and its update. -/
def ShnCmd.row (c : ShnCmd) (r : Nat) : ShnRow := c.rows.getD r ⟨none, false, 0, false, none, true, true, false⟩
def ShnCmd.setRow (c : ShnCmd) (r : Nat) (x : ShnRow) : ShnCmd := { c with rows := c.rows.set r x }

/-- The tile-store block at which output row r begins. -/
def shnBlock (l : Line) (r : Nat) : Nat := shTaddr l / 64 + r * shRowL l

/-- The number of WRITE packets of a row. -/
def shnPkts (l : Line) : Nat := (shRowL l + 63) / 64

/-- Send lines as one WRITE message, of a failed row's poisoned lines where `poison` says so. -/
def shnWrite (s : State) (c : ShnCmd) (r a : Nat) (ls : List Line) (poison : Bool) : State :=
  let m := newMsg s
  let n := (ls.length + 63) / 64
  (List.range n).foldl (fun s i =>
    submit s { op := 5, fn := 0, job := c.job, addr := (a + 4096 * i) % 2 ^ 64, operand := 0, compare := 0, msg := m.2, pkt := i, total := n,
               data := (ls.drop (64 * i)).take 64, poison := poison } (.shn c.half.num c.id r)) m.1

/-- A row finishes without failing. Log entry 61 (DESIGN CHOICE). -/
def shnRowOk (s : State) (c : ShnCmd) (r : Nat) (counted : Bool) : State :=
  let s := shnSet s (c.setRow r { c.row r with ended := true, open_ := 0 })
  if counted then fcount s F.DEP_SHN_ROWS_COUNT 0 1 else s

/-- The tile-store blocks of a failed gather row are written poisoned (R286). -/
def shnPoison (s : State) (l : Line) (r : Nat) : State :=
  (List.range (shRowL l)).foldl (fun s i =>
    let s := writeBlock s (shTile l) (shnBlock l r + i) 0
    let ti := tget s (shTile l)
    tset s (shTile l) { ti with storeErr := mput ti.storeErr (shnBlock l r + i) poisonPat 0 }) s

/-- Free values for `n` lines. -/
def freeLines : Nat → State → State × List Line
  | 0, s => (s, [])
  | n + 1, s =>
    let f := fresh s
    let q := freeLines n f.2
    (q.1, BitVec.ofNat 512 f.1 :: q.2)

/-- The global address of output row r in the DESTG region. -/
def shnDest (l : Line) (r : Nat) : Nat := (lb l 320 64 + 64 * shRowL l * r) % 2 ^ 64

/-- A row fails (R286, R290): it is counted and logged. A gather row is then written poisoned: in the tile store at once, or by WRITE
lines to DESTG, of which the row waits for the answers. How a packet to another device says that its lines are poisoned is not
stated: their data are open values. Log entries 9 (DESIGN CHOICE), 143 (DEDUCED). -/
def shnRowFail (s : State) (c : ShnCmd) (r st : Nat) : State :=
  let w := c.row r
  let l := c.line
  let ended := { w with ended := true, open_ := 0 }
  if w.poison then shnSet s (c.setRow r ended)
  else
    let away := shOp l != 2 && shDk l
    let c := { c with nfail := c.nfail + 1, first := if c.nfail = 0 then r else min c.first r }
    let c := c.setRow r (if away then { w with write := true, poison := true, open_ := shnPkts l, fail := some st } else ended)
    let s := fcount (shnSet s c) F.DEP_SHN_FAILED_COUNT 0 1
    let s := shnErr s 7 (if st < 0x100 then st else 0) c.job (shTile l)
    let s := emitLim s c.half unitDep 0x020E c.half.num ms [(c.half.num, 1), (c.job, 12), (st, 8), (r, 32)]
    if away then
      let q := freeLines (shRowL l) s
      shnWrite q.1 c r (shnDest l r) q.2 true
    else if shOp l = 2 then s
    else shnPoison s l r

/-- Whether every row of a command has finished. -/
def ShnCmd.done (c : ShnCmd) : Bool := c.named && c.rows.all (·.ended)

/-- Write a gathered row: to the tile store at once, or as a message to DESTG. -/
def shnDeliver (s : State) (c : ShnCmd) (r : Nat) (ls : List Line) : State :=
  let l := c.line
  if !shDk l then
    let s := (ls.zipIdx).foldl (fun s q => writeBlock s (shTile l) (shnBlock l r + q.2) q.1) s
    shnRowOk (fcount s F.BLK_LINK_RD_BYTES (tileBlock (shTile l)) (64 * ls.length)) c r true
  else
    let s := shnSet s (c.setRow r { c.row r with write := true, open_ := shnPkts l })
    shnWrite s c r (shnDest l r) ls false

/-- The blocks of a scatter row, as far as they can be read. -/
def shnSource (t : Nat) : List Nat → State → State × Option (List Line)
  | [], s => (s, some [])
  | b :: bs, s =>
    match readBlock s t b with
    | (s, none) => (s, none)
    | (s, some v) => match shnSource t bs s with
      | (s, some ls) => (s, some (v :: ls))
      | (s, none) => (s, none)

/-- Row r of a command starts. Log entry 61 (DESIGN CHOICE). -/
def shnStartRow (s : State) (id r : Nat) : State :=
  match shnGet s id with
  | none => s
  | some c =>
    let l := c.line
    let w := { c.row r with begun := true }
    let c := c.setRow r w
    if w.lost then shnRowFail s c r (c.idxSt.getD 0)
    else
      match w.src with
      | none => if shOp l = 2 then shnRowOk s c r false else shnDeliver s c r (List.replicate (shRowL l) 0)
      | some n =>
        match shnAddr s l n with
        | none => shnRowFail s c r stUnreachable
        | some a =>
          if shOp l ≠ 2 then
            let s := shnSet s (c.setRow r { w with open_ := 1 })
            let m := newMsg s
            submit m.1 { op := 4, fn := 0, job := c.job, addr := a, operand := shRowL l - 1, compare := 0, msg := m.2, pkt := 0, total := 1,
                         data := [] } (.shn c.half.num id r)
          else
            match shnSource (shTile l) ((List.range (shRowL l)).map (shnBlock l r + ·)) s with
            | (s, none) => shnRowFail s c r stUncorr
            | (s, some ls) =>
              let acc := lb l 4 2
              let s := fcount s F.BLK_LINK_WR_BYTES (tileBlock (shTile l)) (64 * ls.length)
              let s := shnSet s (c.setRow r { w with write := true, open_ := if acc = 0 then shnPkts l else 16 * ls.length })
              if acc = 0 then shnWrite s c r a ls false
              else
                (ls.zipIdx).foldl (fun s q => (List.range 16).foldl (fun s j =>
                  submit s { op := 3, fn := if acc = 1 then 6 else 7, job := c.job, addr := (a + 64 * q.2 + 4 * j) % 2 ^ 64,
                             operand := lb q.1 (32 * j) 32, compare := 0, msg := 0, pkt := 0, total := 0, data := [] }
                    (.shn c.half.num id r)) s) s

/-- The index list is at hand: the member map is read where rows are striped over it, and the command's rows are named, or the command
is refused. -/
def shnNamed (s : State) (c : ShnCmd) : State :=
  let rows : Option (List ShnRow) := match c.idxSt with
    | some _ => some ((List.range (shCount c.line)).map (fun _ => ⟨none, true, 0, false, none, false, false, false⟩))
    | none => (indexRows c.line (c.idx.flatMap (·.2))).map (fun rs => rs.map (fun n => ⟨n, false, 0, false, none, false, false, false⟩))
  match rows with
  | none => shnRefuse (shnDrop s c.id) c.half c.slot c.job c.line 1
  | some rs =>
    if shnRange c.line rs.length then shnRefuse (shnDrop s c.id) c.half c.slot c.job c.line 5
    else
      let s := if lb c.line 7 1 = 1 then readMap s (lb c.line 72 8) else s
      shnSet s { c with named := true, rows := rs, idx := [] }

/-- Pseudo row numbers of the index reads. -/
def shnIdxRow : Nat := 2 ^ 20

/-- The lines of a command's index list, and the reads that fetch them. -/
def shnIdxLines (l : Line) : Nat := (shCount l * (if shOp l = 1 then 8 else 4) + 63) / 64
def shnIdxReads (l : Line) : Nat := (shnIdxLines l + chunkLines - 1) / chunkLines

/-- A command that waits starts while fewer than 16 of its half run (R284). -/
def shnStart (s : State) (h : Half) : State :=
  if 16 ≤ (s.shn.cmds.filter (fun c => c.half == h && c.runs)).length then s
  else
    match s.shn.cmds.find? (fun c => c.half == h && !c.runs) with
    | none => s
    | some c => shnSet s { c with runs := true, idxN := shnIdxReads c.line }

/-- The lines that a command has outstanding: of its index reads and of its rows begun and not finished. -/
def ShnCmd.outstanding (c : ShnCmd) : Nat :=
  (c.idxTo - (shnIdxReads c.line - c.idxN)) * chunkLines + (c.rows.filter (fun w => w.begun && !w.ended)).length * shRowL c.line

/-- The lines that a half's shunter has outstanding, and the most it holds (R288). -/
def shnLines (s : State) (h : Half) : Nat := ((s.shn.cmds.filter (fun c => c.half == h && c.runs)).map ShnCmd.outstanding).sum
def shnLimit : Nat := 16384

/-- The next index read of a command. -/
def shnReadIdx (s : State) (c : ShnCmd) : State :=
  let i := c.idxTo
  let s := shnSet s { c with idxTo := i + 1 }
  let m := newMsg s
  submit m.1 { op := 4, fn := 0, job := c.job, addr := (lb c.line 256 64 + 64 * chunkLines * i) % 2 ^ 64,
               operand := min chunkLines (shnIdxLines c.line - chunkLines * i) - 1, compare := 0, msg := m.2, pkt := 0, total := 1, data := [] }
    (.shn c.half.num c.id (shnIdxRow + i))

/-- The next row of a command that has not begun. -/
def ShnCmd.nextRow (c : ShnCmd) : Option Nat := c.rows.findIdx? (fun w => !w.begun)

/-- What a half's shunter does next within its bound of lines outstanding (R284, R288): a waiting command starts, an index list is read
on, or a row begins. -/
def shnStep (s : State) (h : Half) : Option State :=
  let t := shnStart s h
  if t.shn != s.shn then some t
  else if decide (shnLines s h + chunkLines ≤ shnLimit) && s.shn.cmds.any (fun c => c.half == h && c.runs && decide (c.idxTo < shnIdxReads c.line)) then
    (s.shn.cmds.find? (fun c => c.half == h && c.runs && decide (c.idxTo < shnIdxReads c.line))).map (shnReadIdx s)
  else
    match s.shn.cmds.find? (fun c => c.half == h && c.named && c.nextRow.isSome && decide (shnLines s h + shRowL c.line ≤ shnLimit)) with
    | some c => c.nextRow.map (fun r => shnStartRow s c.id r)
    | none => none

/-- Commands pending on a half: taken and not yet running. -/
def shnPending (s : State) (h : Half) : Nat := (s.shn.cmds.filter (fun c => c.half == h && !c.runs)).length

/-- The shunter takes one command (R283, R284). -/
def shnTakeOne (s : State) (h : Half) (slot job : Nat) (l : Line) : State :=
  match shnBad s h job l with
  | some k => shnRefuse s h slot job l k
  | none =>
    if shOp l ≠ 1 ∧ shnRange l (shCount l) = true then shnRefuse s h slot job l 5
    else if 256 ≤ shnPending s h then shnRefuse s h slot job l 6
    else
      let c : ShnCmd := {
        id := s.shn.nextId, half := h, slot := slot, job := job, line := l, runs := false, idx := [], idxN := 0, idxSt := none,
        named := false, rows := [], nfail := 0, first := 0 }
      shnStart { s with shn := { s.shn with nextId := s.shn.nextId + 1, cmds := s.shn.cmds ++ [c] } } h

/-- A command that was written is taken, and no longer waits. -/
def shnTakeIn (s : State) (x : ShnIn) : State :=
  shnTakeOne { s with shn := { s.shn with arrived := s.shn.arrived.erase x } } x.half x.slot x.job x.line

/-- Take what was written before a command, in order, and then the command: one of those written, or one written now. -/
def shnTakeTo (x : ShnIn) : List ShnIn → State → State
  | [], s => shnTakeOne s x.half x.slot x.job x.line
  | y :: ys, s => if y = x then shnTakeIn s y else shnTakeTo x ys (shnTakeIn s y)

/-- The commands written to a half's parts and not yet taken. -/
def shnWaiting (s : State) (h : Half) : List ShnIn := s.shn.arrived.filter (fun x => x.half == h)

/-- The shunter takes a command, after those that the home slices performed before it (R25, R280). -/
def shnTake (s : State) (h : Half) (slot job : Nat) (l : Line) : State := shnTakeTo ⟨h, slot, job, l⟩ (shnWaiting s h) s

/-- A command at the front that has a reserved OP, which no command row names, is taken at once, and so refused (R283). Log entry 157
(DESIGN CHOICE). -/
def shnReserved (s : State) (h : Half) : Option State :=
  match shnWaiting s h with
  | [] => none
  | x :: _ => guardOpt (decide (3 ≤ shOp x.line)) (shnTakeIn s x)

/-- The row's requests are all answered. -/
def shnRowAnswered (s : State) (c : ShnCmd) (r : Nat) (ls : List Line) : State :=
  let w := c.row r
  match w.fail with
  | some st => shnRowFail s c r st
  | none => if shOp c.line ≠ 2 ∧ w.write = false then shnDeliver s c r ls else shnRowOk s c r true

/-- An answer reaches the shunter: of an index read or of a row's request; of a command that is over it is discarded. -/
def shnResult (s : State) (id r status : Nat) (data : List Line) : State :=
  match shnGet s id with
  | none => s
  | some c =>
    if shnIdxRow ≤ r then
      let c := { c with idxN := c.idxN - 1, idx := if status = 0 then mins (r - shnIdxRow) data c.idx else c.idx,
                        idxSt := if c.idxSt.isSome || status = 0 then c.idxSt else some status }
      let s := shnSet s c
      if c.idxN = 0 then shnNamed s c else s
    else
      let w := c.row r
      if w.ended then s
      else
        let w := { w with open_ := w.open_ - 1, fail := if w.fail.isSome || status = 0 then w.fail else some status }
        let c := c.setRow r w
        let s := shnSet s c
        if w.open_ = 0 then shnRowAnswered s c r data else s

/-- A command all of whose rows have finished completes (R284): EV, then the record; the next waiting command starts. -/
def shnComplete (s : State) (h : Half) : State :=
  match s.shn.cmds.find? (fun c => c.half == h && c.done) with
  | none => s
  | some c =>
    let s := shnEv (shnDrop s c.id) c.line
    shnStart (shnRecord s c.half c.id c.job c.line (if c.nfail = 0 then 0 else 1) c.nfail c.first) h

/-- The rows of the commands `ids` not yet written are not written (R287): their WRITE and ATOMIC requests that wait at their source,
or that were refused RETRY_AFTER and would be presented again, go. Reads are answered and their data discarded. Log entry 157
(DESIGN CHOICE). -/
def shnUnsend (s : State) (ids : List Nat) : State :=
  let hit : Req → Who → Bool := fun r w => r.op != 4 && (match w with
    | .shn _ id row => row != shnRecRow && ids.contains id
    | _ => false)
  { s with fab := { s.fab with tx := s.fab.tx.map (fun t => { t with
      backlog := t.backlog.filter (fun b => !hit b.1 b.2)
      sent := t.sent.filter (fun e => !(e.answered == some stRetry && hit e.req e.who)) }) } }

/-- Cancel the commands that a condition selects (R287): DONE is written as CANCELLED and EV is not incremented; event
0x020F. -/
def shnCancel (s : State) (sel : ShnCmd → Bool) : State :=
  let cs := s.shn.cmds.filter sel
  let s := cs.foldl (fun s c =>
    emit (shnRecord (shnDrop s c.id) c.half c.id c.job c.line 3 c.nfail c.first) c.half unitDep 0x020F [(c.half.num, 1), (c.job, 12), (shTile c.line, 12)]) s
  (List.range 16).foldl (fun s _ => shnStart (shnStart s .up) .down) (shnUnsend s (cs.map (·.id)))

/-- Clear the shunter's counters (R289). -/
def shnCntClr (s : State) : State := fset (fset s F.DEP_SHN_ROWS_COUNT 0 0) F.DEP_SHN_FAILED_COUNT 0 0

/-- ABORT of a tile (R134, R287). Log entry 28 (DEDUCED). -/
def tileAbortAll (s : State) (t : Nat) : State :=
  if tileRetired s t then s else tileAbort (shnCancel s (fun c => shTile c.line == t)) t

end Sys2Proof.Machine
end

