-- ==== Sys2Proof/Machine/Stm.lean ====
section
/-!
DEFINITION. The stationmaster (R255 to R265): step open, close, the consist record, takeover and Replay; the taking of
mailbox records; and the answers to the cue engine's requests.
-/

namespace Sys2Proof.Machine

/-! ## The consist record (R255) -/

/-- Lines of a consist record for a map of `n` positions. -/
def consistLines (n : Nat) : Nat := 1 + (n + 511) / 512

/-- The bitmap lines of an included set. -/
def bitmapLines (inc : List Nat) (n : Nat) : List Line :=
  (List.range ((n + 511) / 512)).map (fun i =>
    BitVec.ofNat 512 (((inc.filter (fun p => p / 512 == i)).map (fun p => 2 ^ (p % 512))).sum))

/-- The digest over bitmap lines. -/
def bitmapDigest (ls : List Line) : Nat := hash8 (ls.flatMap lineBytes)

/-- Whether position p is included. -/
def included (rec_ : List Line) (p : Nat) : Bool := bitAt ((rec_.getD (1 + p / 512) 0).toNat) (p % 512)

/-- The reserved bits of line 0. -/
def consistOk (l : Line) : Bool :=
  lb l 0 8 == 0x14 && lb l 15 1 == 0 && lb l 30 2 == 0 && lb l 104 24 == 0 && lb l 190 2 == 0 && lb l 256 256 == 0

/-- Positions of a slot's job map whose devices are members (R258). -/
def memberPositions (s : State) (k : Nat) : List Nat :=
  let ids := (jobMap s k).getD []
  (List.range ids.length).filter (fun p => member s (ids.getD p 0xFFFF))

/-- Members marked, as `STM_STATUS.MARKED` shows them. -/
def stmShow (s : State) (k : Nat) : State :=
  let x := stmGet s k
  fset s F.STM_STATUS_MARKED k (x.ready.length + x.poisoned.length)

/-! ## Step open (R257, R258, R267) -/

/-- What the registers of the slot put into force at step open. -/
def stmForce (s : State) (k : Nat) : StmForce :=
  { enable := fbit s F.STM_CFG_ENABLE k, allWait := fbit s F.STM_CFG_POLICY k, replay := fbit s F.STM_CFG_REPLAY k, backstop := fget s F.STM_CFG_BACKSTOP k,
    deadline := fget s F.STM_DEADLINE_US k, primary := fget s F.STM_PEERS_PRIMARY k, standby := fget s F.STM_PEERS_STANDBY k,
    journal := fget s F.STM_JOURNAL_ADDR k, replayA := fget s F.STM_REPLAY_ADDR k, records := fget s F.STM_JLEN_RECORDS k }

/-- Whether the standby is there to mirror: named, another device, and a member. -/
def hasStandby (s : State) (k : Nat) : Bool :=
  let d := (stmGet s k).force.standby
  validDevice d && d != deviceId s && member s d

/-- In Replay the stationmaster reads the step's entry of the recorded journal (R262). -/
def readJournal (s : State) (k step : Nat) (f : StmForce) : State :=
  if f.replay then
    let n := consistLines ((jobMap s k).getD []).length
    let t := cueTask s none k (.journal k) 1 []
    cueRead t.1 k (f.replayA + step % f.records * n * 64) n (t.2 0)
  else s

/-- Step `step` opens at this stationmaster. -/
def openStep (s : State) (k step : Nat) : State :=
  let f := stmForce s k
  let h := slotHalf k
  let s := readMap s (fget s F.CUE_JOB_MMAP k)
  let x := stmGet s k
  let s := stmSet s k { x with
    step := step, opened := true, closing := false, stopped := false, force := f, expected := memberPositions s k, ready := [],
    poisoned := [], recSet := none, record := none, stbyDone := false, deadline := now s h + f.deadline * 1000, takeover := false,
    replied := [] }
  let s := stmShow (fset (fset (fset s F.STM_STATUS_OPEN k 1) F.STM_STATUS_ACTIVE k 1) F.STM_STATUS_MIRRORED k 0) k
  let s := if hasStandby s k then
      mboxSend s k f.standby [mkLine (recHdr s k 0x13 0 ++ [(64, 40, step), (128, 32, f.deadline)])] (nobody k)
    else s
  readJournal s k step f

/-- Job start (R257, R267): the registers of the slot come into force, and the device that is the stationmaster opens the step. Log entry
156 (DESIGN CHOICE). -/
def stmStart (s : State) (k : Nat) : State :=
  if (stmGet s k).opened then s
  else if fbit s F.STM_CFG_ENABLE k && isOwn s (fget s F.STM_PEERS_PRIMARY k) then openStep s k (fget s F.STM_STEP_STEP k)
  else stmSet s k { stmGet s k with force := stmForce s k }

/-- A write of `STM_STEP` starts a run of steps: what was taken in an earlier one says nothing about it (R260, R267). -/
def stmJobStep (s : State) (k : Nat) : State :=
  stmSet s k { stmGet s k with lastStep := none, lastDig := 0, lastDiv := 0, taken := [], gradFail := [] }

/-- Event 0x040C, at most once per step: a record issued without a standby (R259, R264, R268). -/
def noStandby (s : State) (k st : Nat) : State :=
  if (stmGet s k).noStby = some st then s
  else emit (stmSet s k { stmGet s k with noStby := some st }) (slotHalf k) unitCue 0x040C [(slotJob s k, 12), (st, 40)]

/-! ## Close and issue (R257, R259, R261) -/

/-- Replay or All-wait stops the job's steps: the step stays open and no record is issued. -/
def stmStop (s : State) (k : Nat) : State :=
  let x := stmGet s k
  emit (stmSet s k { x with stopped := true }) (slotHalf k) unitCue 0x040A [(slotJob s k, 12), (x.step, 40)]

/-- Write the record to every member, itself included, in member order, append it to the journal, and open the next step where the
registers still have it (R267). Log entry 66 (DEDUCED). -/
def issueRecord (s : State) (k : Nat) (rec_ : List Line) : State :=
  let x := stmGet s k
  let l := rec_.getD 0 0
  let st := lb l 64 40
  let s := stmSet s k { x with opened := false, closing := false, record := none }
  let s := fset s F.STM_STATUS_OPEN k 0
  let s := emit s (slotHalf k) unitCue 0x0405 [(slotJob s k, 12), (st, 40), (lb l 160 15, 15), (lb l 128 32, 32), (lb l 8 8, 8)]
  let ids := (jobMap s k).getD []
  let s := (memberPositions s k).foldl (fun s p => mboxSend s k (ids.getD p 0) rec_ (nobody k)) s
  let m := newMsg s
  let s := submit m.1 { op := 5, fn := 0, job := slotJob s k, addr := x.force.journal + st % x.force.records * consistLines ids.length * 64,
                        operand := 0, compare := 0, msg := m.2, pkt := 0, total := 1, data := rec_ } (nobody k)
  if fbit s F.STM_CFG_ENABLE k && isOwn s (fget s F.STM_PEERS_PRIMARY k) then openStep s k (st + 1) else fset s F.STM_STATUS_ACTIVE k 0

/-- The step closes (R259): the record is built and goes to the standby first. `fl` are FLAGS bits that the caller sets. Log entry 4 (DESIGN CHOICE). -/
def closeStep (s : State) (k fl : Nat) : State :=
  let x := stmGet s k
  let n := ((jobMap s k).getD []).length
  let rec_ := x.force.replay
  let inc := match rec_, x.recSet with
    | true, some r => r.1
    | _, _ => x.ready.map (·.1)
  let div := match rec_, x.recSet with
    | true, some r => r.2
    | _, _ => (x.ready.map (·.2)).sum
  let bm := bitmapLines inc n
  let fl := fl + (if x.force.allWait && !rec_ then 2 else 0) + (if rec_ then 4 else 0) + (if inc.isEmpty then 8 else 0)
    + (if x.takeover then 16 else 0) + (if x.poisoned.isEmpty then 0 else 64)
  let l := mkLine (recHdr s k 0x14 fl ++ [(64, 40, x.step), (128, 32, div), (160, 15, inc.length), (175, 15, n), (192, 64, bitmapDigest bm)])
  let r := l :: bm
  let s := stmSet s k { x with closing := true, record := some r, takeover := false }
  if hasStandby s k then
    let t := cueTask s none k (.standby k) 1 []
    mboxSend t.1 k x.force.standby r (t.2 0)
  else
    issueRecord (noStandby s k x.step) k r

/-- A standby lost while its copy is awaited (R264): the stationmaster proceeds without it. -/
def standbyGone (s : State) (k : Nat) : State :=
  let x := stmGet s k
  match x.record with
  | some r => if x.closing && !x.stbyDone && !hasStandby s k then issueRecord (noStandby s k x.step) k r else s
  | none => s

/-- Whether a standby that takes over still awaits replies (R265 step 3). -/
def Stm.awaiting (x : Stm) : Bool := x.takeover && !x.expected.all (fun p => x.replied.contains p)

/-- Close if every awaited position is marked (R257, R261). -/
def checkClose (s : State) (k : Nat) : State :=
  let x := stmGet s k
  if !x.opened || x.closing || x.stopped || x.awaiting then s
  else if x.force.replay then
    match x.recSet with
    | none => s
    | some r =>
      if r.1.any (fun p => x.poisoned.contains p || !x.expected.contains p) then stmStop s k
      else if r.1.all (fun p => x.ready.any (fun m => m.1 == p)) then closeStep s k 0
      else s
  else if x.expected.all (fun p => x.poisoned.contains p || x.ready.any (fun m => m.1 == p)) then closeStep s k 0
  else s

/-- The deadline event (R257). -/
def deadlineEvent (s : State) (k : Nat) : State :=
  let x := stmGet s k
  if x.opened && !x.closing && !x.stopped && !x.awaiting && !x.force.allWait && !x.force.replay then closeStep s k 1 else s

/-- The backstop (R261): an All-wait step closes, Replay stops. -/
def backstopEvent (s : State) (k : Nat) : State :=
  let x := stmGet s k
  if !x.opened || x.closing || x.stopped then s
  else if x.force.replay then stmStop s k
  else if x.force.allWait then
    closeStep (emit s (slotHalf k) unitCue 0x040A [(slotJob s k, 12), (x.step, 40)]) k 32
  else s

/-- REPLAY = 0 (R262): at once for a stopped step, which then closes under POLICY with its times counted from the write. -/
def replayOff (s : State) (k : Nat) : State :=
  let s := fset s F.STM_CFG_REPLAY k 0
  let x := stmGet s k
  if x.opened && x.stopped then
    let f := { x.force with replay := false, allWait := fbit s F.STM_CFG_POLICY k }
    checkClose (stmSet s k { x with stopped := false, force := f, deadline := now s (slotHalf k) + f.deadline * 1000 }) k
  else s

/-- A journal entry read in Replay (R262): the recorded set, or the test it fails (1 to 4 in the rule's order; 0 where it could
not be read). -/
def journalTest (s : State) (k : Nat) (ls : List Line) : Option Nat :=
  let l := ls.getD 0 0
  let x := stmGet s k
  if ls.length = 0 then some 0
  else if !consistOk l then some 1
  else if lb l 64 40 ≠ x.step then some 2
  else if lb l 175 15 ≠ ((jobMap s k).getD []).length then some 3
  else if lb l 192 64 ≠ bitmapDigest (ls.drop 1) then some 4
  else none
def journalTaken (s : State) (k : Nat) (ls : List Line) : State :=
  let x := stmGet s k
  match journalTest s k ls with
  | some t => emit (stmSet s k { x with stopped := true }) (slotHalf k) unitCue 0x040E [(slotJob s k, 12), (x.step, 40), (t, 3)]
  | none =>
    let n := ((jobMap s k).getD []).length
    checkClose (stmSet s k { x with recSet := some ((List.range n).filter (included ls), lb (ls.getD 0 0) 128 32) }) k

/-! ## Records (R240, R257, R260, R265) -/

/-- The device that sent a record: the position its header names. -/
def sender (s : State) (k : Nat) (l : Line) : Nat := ((jobMap s k).getD []).getD (lb l 16 14) 0xFFFF

/-- The fields that each record type gives a use (R240). -/
def recFields (t : Nat) : Option (List (Nat × Nat)) :=
  let h := [(0, 8), (16, 14), (32, 32)]
  match t with
  | 0x01 => some (h ++ [(64, 16), (80, 12), (92, 3), (95, 1), (96, 10), (106, 1), (128, 64), (192, 64), (256, 64), (320, 64), (384, 40), (424, 40)])
  | 0x02 => some (h ++ [(64, 12), (80, 8)])
  | 0x03 => some (h ++ [(64, 14)])
  | 0x04 => some (h ++ [(64, 10), (78, 14)])
  | 0x05 => some (h ++ [(64, 10), (128, 64)])
  | 0x06 => some (h ++ [(64, 10)])
  | 0x07 => some (h ++ [(64, 10), (76, 4), (128, 64), (192, 64)])
  | 0x08 => some (h ++ [(64, 16)])
  | 0x10 => some (h ++ [(8, 1), (64, 40), (104, 8)])
  | 0x11 => some (h ++ [(64, 40)])
  | 0x12 => some (h ++ [(64, 40), (104, 14), (118, 4), (128, 64)])
  | 0x13 => some (h ++ [(64, 40), (128, 32)])
  | 0x15 => some (h ++ [(64, 40)])
  | _ => none

/-- Whether a record is well formed: a known type, no reserved bit, amounts in range. -/
def recOk (ls : List Line) : Bool :=
  let l := ls.getD 0 0
  let t := lb l 0 8
  if t = 0x14 then consistOk l
  else
    match recFields t with
    | none => false
    | some fs => ls.length == 1 && onlyFields l fs && !(t == 0x02 && lb l 80 8 == 0) && !(t == 0x10 && lb l 104 8 == 0)
        && !(t == 0x01 && decide (4 ≤ lb l 92 3))

/-- An index not armed here is aborted (R243, R246): what was held for it goes, and the collective that ARMC later names is aborted as
it is armed, `mine` saying that this device found the error and tells the map's members then. Log entry 155 (DESIGN CHOICE). -/
def doom (s : State) (k c err : Nat) (mine : Bool) : State :=
  let q := s.cue
  let gone := q.held.filter (fun h => h.1 == k && lb h.2 96 10 == c)
  let ws := gone.map (fun h => (
    { src := sender s k h.2, job := slotJob s k, msg := lb h.2 64 16, slot := k, ann := h.2, discard := true } : Watch))
  let s := { s with cue := { q with
    held := q.held.filter (fun h => !gone.contains h), early := q.early.filter (fun e => e.1 != c), watch := q.watch ++ ws,
    doomed := mput q.doomed c (some (err, mine)) none } }
  let s := fset (fset s F.CUE_COLL_STATE c 4) F.CUE_COLL_ERROR c err
  emit s (slotHalf k) unitCue 0x0402 [(slotJob s k, 12), (c, 10), (err, 4)]

/-- Whether an ANNOUNCE for an index that is not armed belongs to a collective that is over here (R246): one aborted before it was armed,
or the aborted one whose hash a FIRST carries and that its sender had not begun. Log entry 155 (DESIGN CHOICE). -/
def lateAnnounce (s : State) (k c : Nat) (l : Line) : Bool :=
  let first := lb l 106 1 == 1
  let heldFrom := s.cue.held.any (fun h => h.1 == k && lb h.2 96 10 == c && lb h.2 16 14 == lb l 16 14)
  fget s F.CUE_COLL_STATE c == 4 &&
    ((mget s.cue.doomed c none).isSome ||
     (if first then (match mget s.cue.past c none with
        | some o => o.hash == lb l 320 64 && !o.heard.contains (sender s k l)
        | none => false)
      else !heldFrom))

/-- Note the FIRST of a sender. -/
def heardFirst (s : State) (k c : Nat) (l : Line) : State :=
  if lb l 106 1 = 0 then s
  else
    match collGet s c, mget s.cue.past c none with
    | some x, _ => collSet s { x with heard := x.heard ++ [sender s k l] }
    | none, some o => { s with cue := { s.cue with past := mput s.cue.past c (some { o with heard := o.heard ++ [sender s k l] }) none } }
    | none, none => s

/-- ANNOUNCE (R236, R243). -/
def takeAnnounce (s : State) (k : Nat) (l : Line) : State :=
  let w : Watch := { src := sender s k l, job := slotJob s k, msg := lb l 64 16, slot := k, ann := l, discard := false }
  let put : State → Watch → State := fun s w => { s with cue := { s.cue with watch := s.cue.watch ++ [w] } }
  if lb l 95 1 = 0 then put s w
  else
    let c := lb l 96 10
    let first := lb l 106 1 == 1
    match collGet s c with
    | some x =>
      let s := heardFirst s k c l
      if first && lb l 320 64 != x.hash then mismatch (put s { w with discard := true }) c x.hash (lb l 320 64) else put s w
    | none =>
      if lateAnnounce s k c l then put (heardFirst s k c l) { w with discard := true }
      else if 1024 ≤ s.cue.held.length then
        let s := emitLim s (slotHalf k) unitCue 0x0404 0 ms [(slotJob s k, 12)]
        doom (put s { w with discard := true }) k c 6 true
      else { s with cue := { s.cue with held := s.cue.held ++ [(k, l)] } }

/-- The element types and kinds of a descriptor (R241). -/
def descOk (s : State) (l : Line) : Bool :=
  let kd := lb l 0 8; let el := lb l 8 8
  ((decide (1 ≤ kd) && decide (kd ≤ 6)) || kd == 0x7F) && (decide (el ≤ 9) || el == 0x10 || el == 0x11) && lb l 22 10 == 0
    && lb l 32 40 != 0 && lb l 80 16 == 0 && (kd == 0x7F || lb l 96 32 == 0) && lb l 268 244 == 0
    && ctrOk s (lb l 16 6) (lb l 256 12)

/-- The descriptor hash (R242). -/
def descHash (l : Line) (epoch : Nat) (ids : List Nat) : Nat :=
  hash8 (leBytes (lb l 0 8) 1 ++ leBytes (lb l 8 8) 1 ++ leBytes (lb l 32 40) 5 ++ [0] ++ leBytes (lb l 96 32) 4 ++ leBytes epoch 4
    ++ leBytes ids.length 2 ++ ids.flatMap (fun d => leBytes d 2))

/-- The leader commits once it holds DONE from every position (R245): COMMIT to every member in map order, itself last; one
that is refused aborts the collective (R246, REFUSED). Log entry 143 (DEDUCED). -/
def leaderCheck (s : State) (c : Nat) : State :=
  match collGet s c with
  | none => s
  | some x =>
    if x.begun && (List.range x.ids.length).all (fun p => x.dones.contains p) then
      let l := mkLine (recHdr s x.slot 0x06 0 ++ [(64, 10, c)])
      sendRecs s none x.slot (.coll c) ((x.ids.filter (· != deviceId s) ++ [deviceId s]).map (fun d => (d, l)))
    else s

/-- Whether a DONE for an index that is not armed belongs to a collective that is over here (R246), from device `d`. Log entry 155 (DESIGN
CHOICE). -/
def lateDone (s : State) (c d hash : Nat) : Bool :=
  fget s F.CUE_COLL_STATE c == 4 &&
    ((mget s.cue.doomed c none).isSome || (match mget s.cue.past c none with
      | some o => o.hash == hash && !o.dones.contains d
      | none => false))

/-- The device at a position of a slot's job map, by which a record names its sender (R240). -/
def devAt (s : State) (k pos : Nat) : Nat := ((jobMap s k).getD []).getD pos 0xFFFF

/-- DONE at the leader, position 0 of the map (R245), from position `pos` of the job map, which is another position in the collective's
own map; one that comes before the leader has armed the collective is kept. Log entry 143 (DEDUCED). -/
def takeDone (s : State) (k c pos hash : Nat) : State :=
  match collGet s c with
  | none =>
    let d := devAt s k pos
    if lateDone s c d hash then
      (match mget s.cue.past c none with
       | some o => { s with cue := { s.cue with past := mput s.cue.past c (some { o with dones := o.dones ++ [d] }) none } }
       | none => s)
    else { s with cue := { s.cue with early := s.cue.early ++ [(c, pos, hash)] } }
  | some x =>
    let d := devAt s x.slot pos
    if x.ids.getD 0 0xFFFF ≠ deviceId s then s
    else if hash ≠ x.hash then mismatch s c x.hash hash
    else if !x.ids.contains d then s
    else
      let p := posOf x.ids d
      leaderCheck (collSet s { x with dones := if x.dones.contains p then x.dones else x.dones ++ [p] }) c

/-- ARMC (R241, R242, R243): arm the index from its descriptor; what was held for it is now compared. Log entry 9 (DESIGN CHOICE). -/
def takeArmc (s : State) (k c d : Nat) : State :=
  if collLive s c then
    let f := fresh s
    cueErr f.2 (f.1 % 16) d k 0
  else
    match unitRead s (storeSlot s d) with
    | (s, none) => cueErr s 5 d k stUncorr
    | (s, some l) =>
      let s := readMap s (lb l 72 8)
      if !descOk s l then cueErr s (if ctrOk s (lb l 16 6) (lb l 256 12) then 1 else 2) d k 0
      else
        match mapIds s (lb l 72 8) with
        | none => cueErr s 4 d k 0
        | some ids =>
          let x : Coll := { idx := c, slot := lb l 16 6, desc := l, ids := ids, hash := descHash l (fget s F.ILK_EPOCH_EPOCH) ids,
                            firsts := [], dones := [], begun := false }
          let mine := s.cue.held.filter (fun h => h.1 == x.slot && lb h.2 96 10 == c)
          let early := s.cue.early.filter (fun e => e.1 == c)
          let s := { s with cue := { s.cue with
            colls := s.cue.colls ++ [x], held := s.cue.held.filter (fun h => !mine.contains h),
            early := s.cue.early.filter (fun e => e.1 != c) } }
          let s := fset (fset (fset s F.CUE_COLL_STATE c 1) F.CUE_COLL_ERROR c 0) F.CUE_COLL_DESC c d
          match mget s.cue.doomed c none with
          | some e => abortColl { s with cue := { s.cue with doomed := mput s.cue.doomed c none none } } c e.1 0 0 e.2
          | none =>
            let s := mine.foldl (fun s h => takeAnnounce s h.1 h.2) s
            early.foldl (fun s e => takeDone s x.slot c e.2.1 e.2.2) s

/-- COMMIT (R245): GEN goes to the commit word, CTR is incremented, the collective is committed. -/
def takeCommit (s : State) (c : Nat) : State :=
  match collGet s c with
  | none => s
  | some x =>
    let s := { s with cue := { s.cue with colls := s.cue.colls.filter (fun y => y.idx != c) } }
    let s := submit s { op := 2, fn := 1, job := slotJob s x.slot, addr := lb x.desc 128 64, operand := lb x.desc 192 64, compare := 0,
                        msg := 0, pkt := 0, total := 0, data := [] } (nobody x.slot)
    closeRuns (fset (ctrInc s (lb x.desc 256 12) 1) F.CUE_COLL_STATE c 3) c

/-- ABORT (R246): the collective is aborted without telling the members again; a mismatch is logged with both hashes and the member
that detected it. An index not yet used here is aborted before it is armed. Log entry 155 (DESIGN CHOICE). -/
def takeAbort (s : State) (k : Nat) (l : Line) : State :=
  let c := lb l 64 10
  if fget s F.CUE_COLL_STATE c = 0 then doom s k c (lb l 76 4) false
  else
  let s := if lb l 76 4 = 1 ∧ (collGet s c).isSome = true then
      emit s (slotHalf k) unitCue 0x0403 [(slotJob s k, 12), (c, 10), (lb l 128 64, 64), (lb l 192 64, 64), (sender s k l, 16)]
    else s
  abortColl s c (lb l 76 4) 0 0 false

/-- ACCEPT (R254). -/
def takeAccept (s : State) (dst msg : Nat) : State :=
  match s.cue.tasks.find? (fun t => match t.kind with | .accept m => m.dst == dst && m.msg == msg | _ => false) with
  | some t => runDone { s with cue := { s.cue with tasks := s.cue.tasks.filter (fun x => x.id != t.id) } } t.run
  | none =>
    { s with cue := { s.cue with tasks := s.cue.tasks.map (fun t => match t.kind with
        | .send m => if m.dst = dst ∧ m.msg = msg ∧ m.acc = 3 then { t with kind := .send { m with acc := 4 } } else t
        | _ => t) } }

/-- The standby proceeds after its takeover (R265 steps 3 and 4); in Replay the recorded set decides the close (R540). -/
def takeoverProceed (s : State) (k : Nat) : State :=
  let x := stmGet s k
  if !x.takeover || !x.opened || x.closing then s
  else
    let x2 := { x with replied := x.expected ++ x.replied }
    let s := stmSet s k x2
    if x.force.replay then checkClose s k
    else if x.heardOpen ≠ some x.step ∨ x.hearDead ≤ now s (slotHalf k) then closeStep s k 1
    else checkClose s k

/-- READY at the stationmaster (R257, R265). -/
def takeReady (s : State) (k : Nat) (l : Line) : State :=
  let x := stmGet s k
  let p := lb l 16 14; let st := lb l 64 40
  if fget s F.STM_STATUS_ACTIVE k = 0 then s
  else if st ≠ x.step || !x.opened || x.closing then
    let s := fcount s F.STM_LATE_LATE k 1
    if st < x.step ∨ (st = x.step ∧ x.closing) then emit s (slotHalf k) unitCue 0x0406 [(slotJob s k, 12), (st, 40), (p, 14)] else s
  else
    let x := { x with replied := if x.replied.contains p then x.replied else x.replied ++ [p] }
    let x := if x.poisoned.contains p then x else { x with ready := mdel p x.ready |> mins p (lb l 104 8) }
    let s := stmShow (stmSet s k x) k
    if x.takeover && !x.awaiting then takeoverProceed s k else checkClose s k

/-- POISON at the stationmaster (R257). -/
def takePoison (s : State) (k : Nat) (l : Line) : State :=
  let x := stmGet s k
  let p := lb l 104 14
  if fget s F.STM_STATUS_ACTIVE k = 0 then s
  else if lb l 64 40 ≠ x.step || !x.opened || x.closing then fcount s F.STM_LATE_LATE k 1
  else if x.poisoned.contains p then s
  else
    let s := fcount s F.STM_LATE_POISONED k 1
    checkClose (stmShow (stmSet s k { x with poisoned := x.poisoned ++ [p], ready := mdel p x.ready }) k) k

/-- NOT_YET at a standby that takes over. -/
def takeNotYet (s : State) (k : Nat) (l : Line) : State :=
  let x := stmGet s k
  if !x.takeover || lb l 64 40 != x.step then s
  else
    let p := lb l 16 14
    let x := { x with replied := if x.replied.contains p then x.replied else x.replied ++ [p] }
    let s := stmSet s k x
    if x.expected.all (fun q => x.replied.contains q) then takeoverProceed s k else s

/-- STEP_OPEN at the standby: the open step and its deadline (R257). -/
def takeStepOpen (s : State) (k : Nat) (l : Line) : State :=
  let x := stmGet s k
  fset (stmSet s k { x with
    heardOpen := some (lb l 64 40), hearDead := now s (slotHalf k) + lb l 128 32 * 1000, mirror := none }) F.STM_STATUS_MIRRORED k 0

/-- A member takes the first consist record of a step (R254, R260): what excluded contributors accumulated is retracted, and
the step advances, which brings the slot's registers into force (R267). -/
def takeConsist (s : State) (k : Nat) (rec_ : List Line) : State :=
  let l := rec_.getD 0 0
  let x := stmGet s k
  let st := lb l 64 40; let div := lb l 128 32; let dig := lb l 192 64
  let differs := emit s (slotHalf k) unitCue 0x040B [(slotJob s k, 12), (st, 40)]
  if x.lastStep = some st then
    if x.lastDiv = div ∧ x.lastDig = dig then s else differs
  else if x.taken.any (fun t => t.1 == st && t.2 != (div, dig)) then differs
  else if st < fget s F.STM_STEP_STEP k then s
  else
    let stby := isOwn s x.force.standby
    let s := stmSet s k { x with
      lastStep := some st, lastDiv := div, lastDig := dig, taken := x.taken ++ [(st, div, dig)], shards := [],
      force := if x.opened then x.force else stmForce s k, mirror := if stby then some rec_ else x.mirror }
    let s := if stby then fset s F.STM_STATUS_MIRRORED k 1 else s
    let s := fset (fset (fset s F.STM_LAST_STEP k st) F.STM_LAST_NINC k (lb l 160 15)) F.STM_LAST_FLAGS k (lb l 8 8)
    let s := fset (fset s F.STM_LAST_DIV_DIVISOR k div) F.STM_STEP_STEP k (st + 1)
    let empty := lb l 11 1 == 1
    let mine := s.cue.glog.filter (fun g => g.slot == k && g.step == st)
    let s := { s with cue := { s.cue with glog := s.cue.glog.filter (fun g => !(g.slot == k && g.step == st)) } }
    let back := (mine.filter (fun g => empty || !included rec_ g.pos)).flatMap (fun g => g.adds)
    if back.isEmpty then s
    else
      let t := cueTask s none k .recs back.length []
      back.foldl (fun s a =>
        submit s { op := 3, fn := 6, job := slotJob s k, addr := a.1, operand := wrap (-(sext a.2 32)) 32, compare := 0, msg := 0, pkt := 0,
                   total := 0, data := [] } (t.2 0)) t.1

/-- TAKEOVER at a member (R265): READY with RE where it had sent READY for the step, else NOT_YET. -/
def takeTakeover (s : State) (k : Nat) (l : Line) : State :=
  let st := lb l 64 40
  let to_ := sender s k l
  match (stmGet s k).sentReady with
  | some (t, mb) =>
    if t = st then mboxSend s k to_ [mkLine (recHdr s k 0x10 1 ++ [(64, 40, st), (104, 8, mb)])] (nobody k)
    else mboxSend s k to_ [mkLine (recHdr s k 0x11 0 ++ [(64, 40, st)])] (nobody k)
  | none => mboxSend s k to_ [mkLine (recHdr s k 0x11 0 ++ [(64, 40, st)])] (nobody k)

/-- Take a record of slot k (R240). Log entry 54 (DESIGN CHOICE). -/
def takeRecord (s : State) (k : Nat) (ls : List Line) : State :=
  let l := ls.getD 0 0
  if !fbit s F.CUE_STATUS_READY || !fbit s F.CUE_JOB_VALID k then s
  else if !recOk ls then cueErr s 7 0 k 0
  else
    match lb l 0 8 with
    | 0x01 => takeAnnounce s k l
    | 0x02 => recvInc s k (lb l 64 12) (lb l 80 8)
    | 0x03 => (let i := cueId s; armCue i.1 (lb l 64 14) i.2)
    | 0x04 => takeArmc s k (lb l 64 10) (lb l 78 14)
    | 0x05 => takeDone s k (lb l 64 10) (lb l 16 14) (lb l 128 64)
    | 0x06 => takeCommit s (lb l 64 10)
    | 0x07 => takeAbort s k l
    | 0x08 => takeAccept s (sender s k l) (lb l 64 16)
    | 0x10 => takeReady s k l
    | 0x11 => takeNotYet s k l
    | 0x12 => takePoison s k l
    | 0x13 => takeStepOpen s k l
    | 0x14 => takeConsist s k ls
    | _ => takeTakeover s k l

/-- A record is taken from the mailbox: where it stands among the writes performed, it leaves them. -/
def mboxRecord (s : State) (k : Nat) (ls : List Line) : State :=
  let s := match s.fab.mbox.find? (fun m => m.slot == k && m.lines == ls) with
    | some m => { s with fab := { s.fab with mbox := s.fab.mbox.erase m } }
    | none => s
  takeRecord s k ls

/-! ## Epoch changes (R247, R254, R258, R265) -/

/-- What is in force after a takeover: this device is stationmaster, without a standby. -/
def StmForce.takenOver (f : StmForce) (s : State) : StmForce := { f with primary := deviceId s, standby := 0xFFFF }

/-- The standby takes over a slot's step (R265). -/
def takeover (s : State) (k : Nat) : State :=
  let s := fset (fset s F.STM_PEERS_PRIMARY k (deviceId s)) F.STM_PEERS_STANDBY k 0xFFFF
  let s := emit s (slotHalf k) unitCue 0x0408 [(slotJob s k, 12)]
  let s := fset s F.STM_STATUS_ACTIVE k 1
  match (stmGet s k).mirror with
  | some r =>
    let l := r.getD 0 0
    let l := mkLine [(0, 512, setBit l.toNat 12 true)]
    let x := stmGet s k
    issueRecord (noStandby (stmSet s k { x with force := x.force.takenOver s, mirror := none }) k (lb l 64 40)) k (l :: r.drop 1)
  | none =>
    let st := fget s F.STM_STEP_STEP k
    let me := selfPos s k
    let x := stmGet s k
    let s := stmSet s k { x with
      step := st, opened := true, closing := false, stopped := false, force := x.force.takenOver s, expected := memberPositions s k,
      poisoned := [],
      ready := match x.sentReady with | some (t, mb) => if t = st then [(me, mb)] else [] | none => [],
      recSet := none, record := none, deadline := x.hearDead, takeover := true, replied := [me] }
    let s := stmShow (fset s F.STM_STATUS_OPEN k 1) k
    let ids := (jobMap s k).getD []
    let t := mkLine (recHdr s k 0x15 0 ++ [(64, 40, st)])
    let s := ((memberPositions s k).filter (· != me)).foldl (fun s p => mboxSend s k (ids.getD p 0) [t] (nobody k)) s
    readJournal s k st (stmGet s k).force

/-- An install or a HALL record has changed the membership: expected sets shrink (R258), a lost stationmaster is replaced
(R265), and gradient sends to expelled devices complete (R254). -/
def stmMembership (s : State) : State :=
  let s := (List.range 64).foldl (fun s k =>
    let x := stmGet s k
    let ids := (jobMap s k).getD []
    let s := if x.opened then
        let y := { x with expected := x.expected.filter (fun p => member s (ids.getD p 0xFFFF)) }
        let s := stmSet s k y
        standbyGone (if x.takeover && x.awaiting && !y.awaiting then takeoverProceed s k else checkClose s k) k
      else s
    let f := (stmGet s k).force
    if f.enable && !member s f.primary then
      if isOwn s f.standby then takeover s k
      else if validDevice f.standby && member s f.standby then
        let s := fset (fset s F.STM_PEERS_PRIMARY k f.standby) F.STM_PEERS_STANDBY k 0xFFFF
        stmSet s k { stmGet s k with force := { f with primary := f.standby, standby := 0xFFFF } }
      else s
    else s) s
  let ts := s.cue.tasks.filter (fun t => match t.kind with
    | .accept m => !member s m.dst
    | .send m | .read m => decide (3 ≤ m.acc) && !member s m.dst
    | _ => false)
  ts.foldl (fun s t =>
    let s := emit s (slotHalf t.slot) unitCue 0x0409 [(slotJob s t.slot, 12)]
    runDone { s with cue := { s.cue with tasks := s.cue.tasks.filter (fun x => x.id != t.id) } } t.run) s

/-- Every armed and uncommitted collective aborts with EPOCH at an install (R247). -/
def collEpoch (s : State) : State := (s.cue.colls.map (·.idx)).foldl (fun s c => abortColl s c 2 0 0 true) s

/-- `CUE_CTL.ABORT` of a slot: its cues are disarmed and its armed collectives abort with CANCELLED. -/
def cueAbort (s : State) (k : Nat) : State :=
  let s := { s with cue := { s.cue with armed := s.cue.armed.filter (fun a => lb a.line 8 6 != k) } }
  ((s.cue.colls.filter (fun x => x.slot == k)).map (·.idx)).foldl (fun s c => abortColl s c 7 0 0 true) s

/-- The close round of a collective this device leads runs out (R245). -/
def closeTimeout (s : State) (c : Nat) : State :=
  match collGet s c with
  | none => s
  | some x => if x.begun && x.ids.getD 0 0xFFFF == deviceId s then abortColl s c 5 0 0 true else s

/-! ## Answers to the engine's requests -/

/-- The standby's answer (R259): OK lets the record go out. The copy of a standby that is no longer a member is not waited for (R264); a
member's refusal is an error, and leaves the record waiting until the standby is no member. Log entry 143 (DEDUCED). -/
def standbyAnswer (s : State) (k status : Nat) : State :=
  if status = 0 then stmSet s k { stmGet s k with stbyDone := true }
  else if hasStandby s k then cueErr s 5 0 k status
  else standbyGone s k

/-- A group of requests is answered: what it was for goes on, or is in error where one was refused; a contribution whose accumulates or
POISON are refused is not accepted (R253). Log entry 143 (DEDUCED). -/
def taskDone (s : State) (t : CueTask) : State :=
  let ls := t.data.flatMap (·.2)
  let run := t.run.getD 0
  if t.status ≠ 0 then
    match t.kind with
    | .standby k => standbyAnswer s k t.status
    | .journal k => journalTaken s k []
    | .coll c => abortColl (cueErr s 5 0 t.slot t.status) c 3 0 0 true
    | _ => match t.run with
      | some id => runFail s id 5 t.status
      | none => cueErr s 5 0 t.slot t.status
  else
    match t.kind with
    | .list n => startList s run n ls
    | .read m => sendChunk s run t.slot m ls
    | .send m =>
      if m.sent < m.total then readChunk s run t.slot m
      else if m.acc = 3 then
        if member s m.dst || isOwn s m.dst then (cueTask s t.run t.slot (.accept m) 1 []).1
        else runDone (emit s (slotHalf t.slot) unitCue 0x0409 [(slotJob s t.slot, 12)]) t.run
      else runDone s t.run
    | .accept _ => runDone s t.run
    | .recs => runDone s t.run
    | .coll _ => s
    | .staged w k n => applyStaged s w k n ls
    | .apply w k n => if k < n then readStaged s w (.staged w k n) k n [] else recvInc s w.slot (lb w.ann 80 12) 1
    | .grad w k n =>
      if k + chunkLines < n then readStaged s w (.grad w (k + chunkLines) n) (k + chunkLines) n t.data
      else readScales s w (ls.flatMap lineBytes)
    | .scales w bytes => applyGrad s w bytes (ls.flatMap lineBytes)
    | .gradApply w p => gradDone s w p
    | .poison w => sendAccept s w
    | .standby k => standbyAnswer s k 0
    | .journal k => journalTaken s k ls

/-- An answer reaches the cue engine. -/
def cueResult (s : State) (id piece status : Nat) (data : List Line) : State :=
  match s.cue.tasks.find? (fun t => t.id == id) with
  | none => s
  | some t =>
    let t := { t with open_ := t.open_ - 1, status := if t.status = 0 then status else t.status,
                      data := if data.isEmpty then t.data else mput t.data piece data [] }
    if t.open_ = 0 then taskDone { s with cue := { s.cue with tasks := s.cue.tasks.filter (fun x => x.id != id) } } t
    else { s with cue := { s.cue with tasks := s.cue.tasks.map (fun x => if x.id = id then t else x) } }

/-- The standby has answered: the record goes to every member (R259). -/
def standbyAck (s : State) (k : Nat) : State :=
  let x := stmGet s k
  match x.record with
  | some r => if x.closing && x.stbyDone then issueRecord s k r else s
  | none => s

end Sys2Proof.Machine
end

