-- ==== Sys2Proof/Machine/Mode.lean ====
section
/-!
DEFINITION. Device states and modes (chapter 15), window and job commits (R203, R204, R225), the drain's last steps (R467)
and what turning the core rails off does.
-/

namespace Sys2Proof.Machine

/-! ## Device states -/

/-- The device state (R533). -/
def devState (s : State) : Nat := fget s F.MODE_STATE_STATE
def dsCold : Nat := 0
def dsStart : Nat := 1
def dsSingle : Nat := 2
def dsService : Nat := 3
def dsDrain : Nat := 4
def dsFenced : Nat := 5

/-- The indicators (R470). Log entry 120 (DESIGN CHOICE). -/
def showInd (s : State) : State :=
  fset s F.MOD_MSTATUS_IND 0
    (if fbit s F.MOD_CTL_LOCATE then 5 else if fbit s F.MOD_MSTATUS_DRAINED then 4 else if devState s = dsDrain then 3
     else if devState s = dsService then 2 else 1)

/-- A transition of the device state (R534). Log entry 122 (DEDUCED). -/
def modeTo (s : State) (st cause : Nat) : State :=
  let old := devState s
  let s := fset (fset (fset s F.MODE_STATE_PREV 0 old) F.MODE_STATE_STATE 0 st) F.MODE_STATE_CAUSE 0 cause
  emit (showInd s) .up unitMode 0x0D01 [(old, 3), (st, 3), (cause, 4)]

/-- A MODE_CTL request refused (R535): target and reason (1 state, 2 drain, 3 partner table). Log entry 118 (DESIGN CHOICE). -/
def modeRefused (s : State) (reason : Nat) : State :=
  emit (fset s F.MODE_STATE_REQ_PEND 0 0) .up unitMode 0x0D02 [(fget s F.MODE_CTL_TARGET, 3), (reason, 2)]

/-- A mode register write out of range (R548). Log entry 119 (DESIGN CHOICE). -/
def modeRange (s : State) : State := emitLim s .up unitMode 0x0D07 0 ms []

/-- MODE_CTL.GO (R535). Log entries 16 (DEDUCED), 118 (DESIGN CHOICE). -/
def modeGo (s : State) (target : Nat) : State :=
  if !(target == dsSingle || target == dsService) then modeRange s
  else
    let s := fset s F.MODE_CTL_TARGET 0 target
    if devState s = target then s else fsetb s F.MODE_STATE_REQ_PEND 0 true

/-- A pending request completes (R535). -/
def modeRequestComplete (s : State) : State :=
  if !fbit s F.MODE_STATE_REQ_PEND then s
  else
    let target := fget s F.MODE_CTL_TARGET
    if !(devState s == dsSingle || devState s == dsService) then modeRefused s 1
    else if target = dsService ∧ (List.range 64).any (fun k => fbit s F.STM_CFG_ENABLE k && !fbit s F.ILK_PTAB_VALID k) then modeRefused s 3
    else
      let s := fset s F.MODE_STATE_REQ_PEND 0 0
      if devState s = target then s else modeTo s target 3

/-- The trace ring's place breaks R545: outside the depot, or over the log ring. -/
def traceBad (s : State) : Bool :=
  let u := 0x400000
  let t := fget s F.LOG_TRACE_BASE_ADDR * u; let n := fget s F.LOG_TRACE_BASE_SIZE * u; let l := fget s F.LOG_RING_BASE_ADDR * u
  decide (depotSize < t + n) || (decide (t < l + u) && decide (l < t + n))

/-- MODE_CFG (R541, R545, R549). Log entry 118 (DESIGN CHOICE). -/
def modeCfg (s : State) (power : Nat) (trace : Bool) : State :=
  if 2 < power ∨ (trace ∧ traceBad s) then modeRange s
  else
    let s := fset s F.MODE_CFG_POWER 0 power
    if fbit s F.MODE_CFG_TRACE == trace then s
    else emit (fsetb (fsetb s F.MODE_CFG_TRACE 0 trace) F.MODE_STATE_TRACE 0 trace) .up unitMode 0x0D04 []

/-- A slot's run ends because an install expels device `d` in Single-layer (R536). -/
def singleLayerEnd (s : State) (k d : Nat) : State :=
  let s := cueAbort s k
  let s := stmSet s k { stmGet s k with stopped := true }
  emit s .up unitMode 0x0D06 [(slotJob s k, 12), (d, 16)]

/-! ## Window and job commits -/

/-- Discard a slot's job: windows invalid, its unanswered requests answered NO_JOB, its streams gone (R204). -/
def unbindSlot (s : State) (k : Nat) : State :=
  let job := fget s F.WIN_JOB_JOB k
  if !fbit s F.WIN_JOB_BOUND k then s
  else
    let s := (List.range 64).foldl (fun s w => fset s F.WIN_PERM_VALID (64 * k + w) 0) s
    let s := fset s F.WIN_JOB_BOUND k 0
    let s := { s with fab := { s.fab with commit := (match s.fab.commit with | some c => if c.slot = k then none else some c | none => none) } }
    let s := (s.fab.tx.filter (fun t => t.job == job)).foldl (fun s t => failStream s t stNoJob) s
    discardStreams { s with fab := { s.fab with unbound := s.fab.unbound.filter (· != job) ++ [job] } } (fun _ j => j == job)

/-- Unbind every slot. -/
def unbindAll (s : State) : State := (List.range 64).foldl unbindSlot s

/-- A commit refused or ignored, with the job that it names: that of `WIN_COMMIT` for a bind, else the slot's (R232). -/
def winRefused (s : State) (job : Nat) : State := emit s .up unitFab 0x0303 [(job, 12)]

/-- The staged entry breaks R200. Log entry 16 (DEDUCED). -/
def stageBad (s : State) : Bool :=
  let b := fget s F.WIN_STAGE_BASE_BASE; let n := fget s F.WIN_STAGE_SIZE_SIZE
  fbit s F.WIN_STAGE_PERM_VALID && (n == 0 || decide (0xC00000 < b + n))

/-- OP 0: write a window from the stage registers. -/
def winWrite (s : State) (k w : Nat) : State :=
  if fbit s F.WIN_STATUS_BUSY || !fbit s F.WIN_JOB_BOUND k || stageBad s then winRefused s (fget s F.WIN_JOB_JOB k)
  else
    let i := 64 * k + w
    let c : WinPend := {
      slot := k, win := w, base := fget s F.WIN_BASE_BASE i * 4096, size := fget s F.WIN_SIZE_SIZE i * 4096,
      perm := fget s F.WIN_PERM_R i + 2 * fget s F.WIN_PERM_W i + 4 * fget s F.WIN_PERM_A i + 8 * fget s F.WIN_PERM_LOCAL i
        + 16 * fget s F.WIN_PERM_VALID i,
      up := false, dn := false }
    let s := fset (fset s F.WIN_BASE_BASE i (fget s F.WIN_STAGE_BASE_BASE)) F.WIN_SIZE_SIZE i (fget s F.WIN_STAGE_SIZE_SIZE)
    let s := fset (fset s F.WIN_PERM_R i (fget s F.WIN_STAGE_PERM_R)) F.WIN_PERM_W i (fget s F.WIN_STAGE_PERM_W)
    let s := fset (fset s F.WIN_PERM_A i (fget s F.WIN_STAGE_PERM_A)) F.WIN_PERM_LOCAL i (fget s F.WIN_STAGE_PERM_LOCAL)
    let s := fset s F.WIN_PERM_VALID i (fget s F.WIN_STAGE_PERM_VALID)
    { fsetb s F.WIN_STATUS_BUSY 0 true with fab := { s.fab with commit := some c } }

/-- OP 1: bind a job. In Start only the system job is bound (R539). -/
def winBind (s : State) (k job : Nat) : State :=
  if fbit s F.WIN_STATUS_BUSY || fbit s F.WIN_JOB_BOUND k || (jobSlot s job).isSome || (devState s == dsStart && job != 0) then winRefused s job
  else
    let s := discardStreams { s with fab := { s.fab with unbound := s.fab.unbound.filter (· != job) } } (fun _ j => j == job)
    fsetb (fsetb (fset s F.WIN_JOB_JOB k job) F.WIN_JOB_BOUND k true) F.WIN_STATUS_BUSY 0 true

/-- OP 2: unbind a slot. -/
def winUnbind (s : State) (k : Nat) : State :=
  if fbit s F.WIN_STATUS_BUSY then winRefused s (fget s F.WIN_JOB_JOB k) else fsetb (unbindSlot s k) F.WIN_STATUS_BUSY 0 true

/-- The commit is complete: from here on every request uses the new entry, and no application core holds a line from before
(R203, R515). -/
def winComplete (s : State) : State :=
  { fset s F.WIN_STATUS_BUSY 0 0 with
    fab := { s.fab with commit := none }, app := { s.app with lines := [], gen := s.app.gen + 1 } }

/-! ## The core rails -/

/-- Registers that the module management controller keeps (R491), and those of the platform chiplets and the interlocking
units, which report a fault that turned the rails off (R446, R463). -/
def mmcRegs (r : Nat) : Bool := decide (Reg.MOD_MSTATUS.ctorIdx ≤ r) && decide (r ≤ Reg.MOD_I3C.ctorIdx)
def alarmRegs (r : Nat) : Bool :=
  (decide (Reg.PORT_CFG.ctorIdx ≤ r) && decide (r ≤ Reg.LAS_LASER.ctorIdx)) ||
    (decide (Reg.ILK_CFG.ctorIdx ≤ r) && decide (r ≤ Reg.ILK_SPORT_TX.ctorIdx)) || r == Reg.MOD_DEVICE_ID.ctorIdx ||
    r == Reg.MOD_STATUS.ctorIdx || (decide (Reg.THM_COOLANT.ctorIdx ≤ r) && decide (r ≤ Reg.THM_BLK.ctorIdx))

/-- The core loses its power: everything resets but the module management controller, the flash, the time counters and what
waits outside; with `alarm`, the chiplets and the interlocking units keep running. Log entries 115 (DESIGN CHOICE), 121 (DESIGN CHOICE). -/
def coreOff (s : State) (alarm : Bool) : State :=
  let keep := fun (e : Nat × Nat) => mmcRegs (e.1 / 4194304) || (alarm && alarmRegs (e.1 / 4194304))
  let t : State := {
    regs := s.regs.filter keep, timeUp := s.timeUp, timeDn := s.timeDn, freeCtr := s.freeCtr, flash := s.flash,
    mmc := { s.mmc with cut := s.mmc.cut || alarm }, lys := { lrst := s.lys.lrst }, outbox := s.outbox, pending := s.pending }
  let t := if alarm then { t with opt := s.opt, ilk := s.ilk, links := s.links, pwr := s.pwr, brg := { lone := s.brg.lone } } else t
  let q := if s.logw.ringOpen then [] else s.logw.queue
  let t := { t with logw := { t.logw with queue := q, lastLog := s.logw.lastLog, lastBook := s.logw.lastBook } }
  let st := fget s F.MODE_STATE_STATE
  fset (fset t F.MOD_MSTATUS_PGOOD 0 0) F.MODE_STATE_STATE 0 st

/-- The core rails go off and the device is Cold (R534 cause 7). Log entry 115 (DESIGN CHOICE). -/
def railsOff (s : State) (alarm : Bool) : State :=
  if devState s = dsCold then fset s F.MOD_MSTATUS_PGOOD 0 0 else modeTo (coreOff s alarm) dsCold 7

/-! ## The end of a drain (R467 steps 5 to 7) -/

/-- Turn every port off: `PORT_CFG.ENABLE` = 0, signal ports included. -/
def portsDark (s : State) : State :=
  (List.range 34).foldl (fun s p => portEnable (fset s F.PORT_CFG_ENABLE p 0) p) s

/-- The epoch record (R519): district, epoch, fenced flag and expulsion time, of class B where `b` says so. -/
def bookEpoch (s : State) (b : Bool) : State :=
  let out := fbit s F.ILK_STATUS_FENCED
  let a := [(districtOf (deviceId s), 10), (fget s F.ILK_EPOCH_EPOCH, 32), (if out then 1 else 0, 1), (if out then s.ilk.expelAt.getLastD 0 else 0, 32)]
  if b then bookB s 0x17 0 a else bookA s 0x17 0 a

/-- The record of a clean stop (R519), with its cause: 0 drain, 1 POWER_OFF, 2 RESET. -/
def bookStop (s : State) (cause : Nat) : State := bookA s 0x16 0 [(cause, 2)]

/-- Unbind, log, go dark, power off. Log entry 100 (DEDUCED). -/
def drainFinish (s : State) : State :=
  let s := unbindAll s
  let s := bookFlush (bookStop (bookEpoch s false) 0)
  let s := portsDark s
  let s := railsOff { s with drain := none } false
  let s := fset s F.MOD_MSTATUS_HS_ON 0 0
  let s := fset s F.MOD_HISTORY_DRAINS 0 (satAdd (fget s F.MOD_HISTORY_DRAINS) 1 16)
  emit (showInd (fsetb s F.MOD_MSTATUS_DRAINED 0 true)) .up unitMod 0x0A07 []

/-- A drain request (R466): `src` 1 the Lysdex link, 2 I3C, 3 the button. Log entry 99 (DEDUCED). -/
def drainRequest (s : State) (src : Nat) : State :=
  if s.drain.isSome || fbit s F.MOD_MSTATUS_DRAINED || devState s == dsCold then s
  else
    let s := if fbit s F.MODE_STATE_REQ_PEND then modeRefused s 2 else s
    let late := devState s == dsStart || devState s == dsFenced
    let st := ((List.range 64).filter (fun k => fbit s F.WIN_JOB_BOUND k)).map (fun k => (k, fget s F.STM_STEP_STEP k))
    let s := modeTo { s with drain := some ⟨if late then .finish else .release, st⟩ } dsDrain 4
    emit s .up unitMod 0x0A06 [(src, 2)]

/-- Every slot is unbound, or DRAIN_WAIT has passed (R467 step 2). -/
def drainRelease (s : State) : State :=
  match s.drain with
  | some d =>
    if d.at_ = .release ∧ (List.range 64).all (fun k => !fbit s F.WIN_JOB_BOUND k) then { s with drain := some { d with at_ := .recall } } else s
  | none => s
def drainExpiry (s : State) : State :=
  match s.drain with
  | some d =>
    if d.at_ = .release then
      let s := if (List.range 64).any (fun k => fbit s F.WIN_JOB_BOUND k) then emit s .up unitMod 0x0A08 [] else s
      { s with drain := some { d with at_ := .recall } }
    else s
  | none => s

end Sys2Proof.Machine
end

