-- ==== Sys2Proof/Machine/Ilk.lean ====
section
/-!
DEFINITION. The interlocking (chapter 11): records, heartbeats and probes, boxes and votes, epochs, fencing, readmission,
partners, formation and the hall.
-/

namespace Sys2Proof.Machine

/-! ## Health and records (R377 to R380) -/

/-- Whether a fabric port counts as up in FPORTS (R378, R380). -/
def countsUp (s : State) (p : Nat) : Bool := fbit s F.PORT_STATUS_UP p && !(oget s p).pcLost

/-- The health word of a device whose units are joined (R378). -/
def liveHealth (s : State) : Nat :=
  let n := ((List.range 32).filter (countsUp s)).length
  fget s F.MOD_STATUS_DEV_FAULT + 2 * fget s F.ILK_STATUS_FENCED + (if s.drain.isSome then 4 else 0)
    + (if fbit s F.MOD_STATUS_UP_PRESET || fbit s F.MOD_STATUS_DOWN_PRESET then 8 else 0) + 16 * (if s.brg.clkLost then 1 else 0)
    + (if n = 0 then 32 else 0) + (if s.ilk.selfchk then 64 else 0) + 256 * s.ilk.alarms + 65536 * n

/-- This device's health word (R378); a unit that is alone keeps it as it last stood, with FAULT set (R376). -/
def healthWord (s : State) : Nat := if s.ilk.plane.isSome then s.ilk.stood else liveHealth s

/-- Conditions of a health word that confirm a member, and those that keep it from being a box. -/
def hFault (h : Nat) : Bool := bitAt h 0
def hFenced (h : Nat) : Bool := bitAt h 1
def hIsolated (h : Nat) : Bool := bitAt h 5
def hDown (h : Nat) : Bool := hFault h || hFenced h || bitAt h 2 || hIsolated h
def hMargin (h : Nat) : Bool := bitsAt h 8 3 != 0

/-- The installed epoch. -/
def epoch (s : State) : Nat := fget s F.ILK_EPOCH_EPOCH

/-- Bits of a record. -/
def rb (r : BitVec 448) (lo w : Nat) : Nat := bitsAt r.toNat lo w

/-- A record of this device; `body` holds its fields at their places. -/
def ilkRec (s : State) (kind flags body : Nat) : BitVec 448 :=
  BitVec.ofNat 448 (kind + 256 * flags + deviceId s * 2 ^ 16 + epoch s * 2 ^ 32 + healthWord s * 2 ^ 64 + body)

/-- The body of a record that names a change. -/
def chgBody (c : IlkChange) : Nat := c.op % 16 * 2 ^ 96 + c.subj % 65536 * 2 ^ 112 + c.reason % 256 * 2 ^ 160

/-- The change that a record names. -/
def chgOf (r : BitVec 448) : IlkChange :=
  { op := rb r 96 4, subj := rb r 112 16, reason := rb r 160 8, members := if rb r 96 4 = 4 then rb r 192 64 else 0 }

/-- The fields of a record by kind, as (first bit, width), beside the header and the health word's own. Log entry 67 (DEDUCED). -/
def ilkFields (r : BitVec 448) : Option (List (Nat × Nat)) :=
  let chg := [(96, 4), (112, 16), (160, 8)]
  match rb r 0 8 with
  | 1 => some [(8, 1), (96, 32), (128, 32), (160, 32)]
  | 2 | 3 => some [(96, 32)]
  | 4 => some (if rb r 160 8 = 4 then (168, 12) :: chg else chg)
  | 5 => some ((128, 32) :: (if rb r 96 4 = 4 then (192, 64) :: chg else chg))
  | 6 => some ((8, 2) :: (128, 32) :: chg)
  | 7 => some ((8, 1) :: (128, 32) :: (192, 64) :: (256, 30) :: (286, 3) :: chg)
  | 8 => some [(128, 32)]
  | 9 => some []
  | 10 => some ((8, 1) :: (128, 32) :: chg)
  | 11 => some [(192, 64), (289, 10)]
  | 12 => some [(96, 5)]
  | _ => none

/-- Whether a record has a defined kind and no reserved bit or code (R377). Log entry 67 (DEDUCED). -/
def ilkOk (r : BitVec 448) : Bool :=
  match ilkFields r with
  | none => false
  | some fs =>
    let all := [(0, 8), (16, 16), (32, 32), (64, 7), (72, 3), (80, 6)] ++ fs
    (all.foldl (fun v f => setBits v f.1 f.2 0) r.toNat) == 0 &&
      (if fs.contains (96, 4) then decide (1 ≤ rb r 96 4) && decide (rb r 96 4 ≤ 4) else true)

/-- The down half's unit mirrors the leading unit's: each record that the latter takes or sends goes to it in a bridge packet of
KIND 7 (R376, R422), while the two are joined. -/
def mirror (s : State) (r : BitVec 448) : State :=
  if s.ilk.plane.isSome || !(fbit s F.BRG_STATUS_UP || fbit s F.BRG_STATUS_TRAINING) then s
  else
    let x := mget s.brg.tx 0 {}
    let flit := BitVec.ofNat 512 (2 + 4 * 4 + 7 * 2 ^ 12 + r.toNat * 2 ^ 64)
    { s with brg := { s.brg with tx := mput s.brg.tx 0 { x with queue := x.queue ++ [(4, [flit])] } {} } }

/-- Send a record on some planes; a unit that is alone has its own plane only (R376). -/
def planeSend (s : State) (planes : List Nat) (dst : Nat) (r : BitVec 448) : State :=
  let s := mirror s r
  planes.foldl (fun s h =>
    if (s.ilk.plane.map (·.num)).getD h = h ∧ fbit s F.PORT_STATUS_UP (32 + h) then sendOn (fset s F.ILK_SPORT_TX_COUNT h (fget s F.ILK_SPORT_TX_COUNT h + 1)) (32 + h) dst r
    else s) s

/-- Send a record to a device of the district: on both planes, or to this device itself. Log entry 68 (DESIGN CHOICE). -/
def ilkSend (s : State) (dst : Nat) (r : BitVec 448) : State :=
  if dst = deviceId s then { s with ilk := { s.ilk with inbox := s.ilk.inbox ++ [r] } } else planeSend s [0, 1] dst r

/-- A device of this district by its member number. -/
def memberDev (s : State) (m : Nat) : Nat := districtOf (deviceId s) * 64 + m

/-- The members and the boxes of the installed epoch, as member numbers. -/
def memberList (s : State) : List Nat := bitList (fget s F.ILK_MEMBERS_MAP) 64
def boxFld (n : Nat) : Fld := ⟨.ILK_BOXES, 6 * n, 6, .ro, .const 0, 0, 63⟩
def boxList (s : State) : List Nat := (List.range (fget s F.ILK_STATUS_NBOX)).map (fun n => fget s (boxFld n))

/-! ## Two units (R376) -/

/-- What a unit holds of the registers. -/
def unitFlds : List Fld :=
  [F.ILK_EPOCH_EPOCH, F.ILK_MEMBERS_MAP, F.ILK_SUSPECT_MAP, F.ILK_STATUS_MEMBER, F.ILK_STATUS_BOX, F.ILK_STATUS_CHAIR,
    F.ILK_STATUS_CHANGE, F.ILK_STATUS_FORMED, F.ILK_STATUS_NMEM, F.ILK_STATUS_NBOX] ++ (List.range 5).map boxFld
def unitRegs (s : State) : List Nat := unitFlds.map (fun f => fget s f)

/-- One unit's state and registers in place of the other's; what belongs to the device stays. -/
def loadUnit (s : State) (u : IlkAlone) : State :=
  let d := s.ilk
  let s := { s with ilk := { u.unit with
    selfchk := d.selfchk, expelAt := d.expelAt, dirty := d.dirty, copies := d.copies, alarms := d.alarms } }
  (unitFlds.zip u.regs).foldl (fun s p => fset s p.1 0 p.2) s

/-- What the down half's unit does by itself, once it is alone. Log entry 160 (DESIGN CHOICE). -/
def asDown (s : State) (f : State → State) : State :=
  match s.brg.lone with
  | none => s
  | some u =>
    let t := f (loadUnit s u)
    loadUnit { t with brg := { t.brg with lone := some ⟨t.ilk, unitRegs t⟩ } } ⟨s.ilk, unitRegs s⟩

/-- What both units do, each by itself where they are alone. -/
def bothUnits (s : State) (f : State → State) : State := asDown (f s) f

/-- The state as the unit of a plane has it. -/
def unitView (s : State) (plane : Half) : State :=
  match plane, s.brg.lone with
  | .down, some u => loadUnit s u
  | _, _ => s

/-- The units lose the bridge or the shared clock: each goes on alone, with the health word as it stands and FAULT. Log entry 160 (DESIGN CHOICE). -/
def splitUnits (s : State) : State :=
  if s.brg.lone.isSome then s
  else
    let alone := fun p => { s.ilk with plane := some p, stood := setBit (liveHealth s) 0 true }
    { s with ilk := alone .up, brg := { s.brg with lone := some ⟨alone .down, unitRegs s⟩ } }

/-- Send a record to every one of some members. -/
def sendAll (s : State) (ms : List Nat) (r : BitVec 448) : State := ms.foldl (fun s m => ilkSend s (memberDev s m) r) s

/-- An interlocking event: the epoch, the subject where there is one, and what else the event names (R418). -/
def ilkEv (s : State) (code : Nat) (subj : Option Nat) (more : List (Nat × Nat)) : State :=
  emit s .up unitIlk code ([(epoch s, 32)] ++ (subj.map (fun d => (d, 16))).toList ++ more)

/-- The subject that a change's events name: a formation has none (R418). -/
def subjOf (c : IlkChange) : Option Nat := if c.op = 4 then none else some c.subj

/-- What is known of a member. -/
def seen (s : State) (m : Nat) : IlkSeen := mget s.ilk.seen m {}
def setSeen (s : State) (m : Nat) (x : IlkSeen) : State := { s with ilk := { s.ilk with seen := mput s.ilk.seen m x {} } }

/-- One heartbeat period in ns. Log entry 69 (DEDUCED). -/
def hbNs (s : State) : Nat := fget s F.ILK_CFG_HB_US * 1000

/-- The health of a member: its own for this device. -/
def healthOf (s : State) (m : Nat) : Nat := if memberDev s m = deviceId s then healthWord s else (seen s m).health

/-- The boxes of a membership (R384): the five lowest healthy members, then members with margin alarms only; every member of a
district of fewer than five. -/
def chooseBoxes (s : State) (map : Nat) : List Nat :=
  let ms := bitList map 64
  if ms.length < 5 then ms
  else
    let a := (ms.filter (fun m => !hDown (healthOf s m) && !hMargin (healthOf s m))).take 5
    let b := ms.filter (fun m => !hDown (healthOf s m) && hMargin (healthOf s m))
    (a ++ b).take 5

/-- The votes a change needs (R385). -/
def quorum (n : Nat) : Nat := n / 2 + 1

/-! ## Requests and proposals (R386 to R390) -/

/-- Send a REQUEST to every box. -/
def ilkRequest (s : State) (c : IlkChange) (job : Nat) : State :=
  sendAll s (boxList s) (ilkRec s 4 0 (chgBody c + (if c.reason = 4 then job % 4096 * 2 ^ 168 else 0)))

/-- The acting chair of a request: the boxes but the subject, in order, taken by turns. -/
def actingChair (s : State) (r : IlkReq) : Option Nat :=
  let bs := (boxList s).filter (fun m => memberDev s m != r.chg.subj)
  bs[if bs.length = 0 then 0 else r.turn % bs.length]?

/-- Propose a change. -/
def propose (s : State) (c : IlkChange) (tepoch src : Nat) (voters : List Nat) : State :=
  let p : IlkProp := { chg := c, tepoch := tepoch, src := src, voters := voters, yes := [], no := [] }
  let s := fset (fset { s with ilk := { s.ilk with prop := some p } } F.ILK_STATUS_CHAIR 0 1) F.ILK_STATUS_CHANGE 0 1
  sendAll s voters (ilkRec s 5 0 (chgBody c + tepoch % 2 ^ 32 * 2 ^ 128 + (if c.op = 4 then c.members * 2 ^ 192 else 0)))

/-- The acting chair takes up its next request, one at a time (R386). -/
def ilkNext (s : State) : State :=
  if s.ilk.prop.isSome || s.ilk.deliver.isSome || !fbit s F.ILK_STATUS_BOX then s
  else
    match s.ilk.reqs.find? (fun r => (actingChair s r).map (memberDev s) == some (deviceId s)) with
    | none => s
    | some r => propose s r.chg ((epoch s + 1) % 2 ^ 32) r.src (boxList s)

/-- Whether two changes are the same change of the district. -/
def sameChange (a b : IlkChange) : Bool := a.op == b.op && a.subj == b.subj

/-- Whether a held request is the one of a device for a change and its REASON. -/
def sameReq (r : IlkReq) (c : IlkChange) (src : Nat) : Bool := sameChange r.chg c && r.chg.reason == c.reason && r.src == src

/-- Forget one device's request, once its VERDICT is given (R386, R389). Log entry 144 (DEDUCED). -/
def dropOwnReq (s : State) (c : IlkChange) (src : Nat) : State :=
  { s with ilk := { s.ilk with reqs := s.ilk.reqs.filter (fun r => !sameReq r c src) } }

/-- Forget every request for a change that is installed. -/
def dropReq (s : State) (c : IlkChange) : State :=
  { s with ilk := { s.ilk with reqs := s.ilk.reqs.filter (fun r => !sameChange r.chg c) } }

/-- A REQUEST taken by a box, which holds every device's request once (R386). Log entry 144 (DEDUCED). -/
def takeRequestRec (s : State) (src : Nat) (c : IlkChange) : State :=
  if !fbit s F.ILK_STATUS_BOX then s
  else if s.ilk.reqs.any (fun r => sameReq r c src) then s
  else ilkNext { s with ilk := { s.ilk with reqs := s.ilk.reqs ++ [⟨c, src, 0⟩] } }

/-- A proposal fails (R389). -/
def propFailed (s : State) (p : IlkProp) : State :=
  let s := { s with ilk := { s.ilk with prop := none } }
  let s := fset (fset s F.ILK_STATUS_CHAIR 0 0) F.ILK_STATUS_CHANGE 0 0
  let s := if p.chg.op = 4 then s else ilkSend s p.src (ilkRec s 10 0 (chgBody p.chg + p.tepoch % 2 ^ 32 * 2 ^ 128))
  let s := fcount s F.ILK_COUNTS_FAILED 0 1
  ilkNext (dropOwnReq (ilkEv s 0x0703 (subjOf p.chg) [(p.yes.length, 3)]) p.chg p.src)

/-- An EPOCH record's contents beside its header and flags. -/
def epochBody (c : IlkChange) (tepoch members : Nat) (boxes : List Nat) : Nat :=
  chgBody c + tepoch % 2 ^ 32 * 2 ^ 128 + members * 2 ^ 192 + ((boxes.zipIdx).map (fun b => b.1 * 2 ^ (256 + 6 * b.2))).sum
    + boxes.length * 2 ^ 286

/-- Deliver the record being delivered, to some devices. -/
def deliverTo (s : State) (d : IlkDeliver) (flags : Nat) (ms : List Nat) : State :=
  sendAll s ms (ilkRec s 7 flags (epochBody d.chg d.tepoch d.members d.boxes))

/-- A proposal carries: the chair builds the record and sends it out, with the verdict to its requester and to every other device
whose request for the same change it holds (R389, R393). Log entry 144 (DEDUCED). -/
def carry (s : State) (c : IlkChange) (tepoch src : Nat) : State :=
  let old := fget s F.ILK_MEMBERS_MAP
  let m := c.subj % 64
  let new := if c.op = 4 then c.members else if c.op = 3 then setBit old m true else setBit old m false
  let d : IlkDeliver := {
    chg := c, tepoch := tepoch, members := new, boxes := chooseBoxes s new,
    targets := (List.range 64).filter (fun i => bitAt old i || bitAt new i || (c.op != 4 && i == m)), acked := [], done := false }
  let others := s.ilk.reqs.filter (fun r => sameChange r.chg c && !sameReq r c src)
  let s := dropReq { s with ilk := { s.ilk with prop := none, deliver := some d } } c
  let s := fset (fset s F.ILK_STATUS_CHANGE 0 1) F.ILK_STATUS_CHAIR 0 1
  let verdict := fun s (x : IlkChange) dev => ilkSend s dev (ilkRec s 10 1 (chgBody x + tepoch % 2 ^ 32 * 2 ^ 128))
  let s := if c.op = 4 then s else others.foldl (fun s r => verdict s r.chg r.src) (verdict s c src)
  let s := deliverTo s d 0 d.targets
  match (mget s.fab.hallGw (districtOf (deviceId s)) []) with
  | [] => s
  | gs => gs.foldl (fun s g => ilkSend s g (ilkRec { s with regs := (fset s F.ILK_EPOCH_EPOCH 0 tepoch).regs } 11 0
      (new * 2 ^ 192 + districtOf (deviceId s) * 2 ^ 289))) s

/-- Count the votes (R389). -/
def countVotes (s : State) : State :=
  match s.ilk.prop with
  | none => s
  | some p =>
    if quorum p.voters.length ≤ p.yes.length then carry s p.chg p.tepoch p.src
    else if p.voters.length < quorum p.voters.length + p.no.length then propFailed s p
    else s

/-- A VOTE taken by the chair (R387, R389). Log entry 71 (DEDUCED). -/
def takeVote (s : State) (src flags tepoch : Nat) (c : IlkChange) : State :=
  match s.ilk.prop with
  | none => s
  | some p =>
    let m := src % 64
    if tepoch ≠ p.tepoch ∨ p.voters.contains m = false ∨ p.yes.contains m ∨ p.no.contains m then s
    else if bitAt flags 1 && !(sameChange c p.chg && c.reason == p.chg.reason) then
      if c.op = 4 then countVotes { s with ilk := { s.ilk with prop := some { p with no := p.no ++ [m] } } }
      else
        let src := ((s.ilk.reqs.find? (fun r => sameChange r.chg c)).map (·.src)).getD (deviceId s)
        carry s c tepoch src
    else
      let p := if bitAt flags 0 || bitAt flags 1 then { p with yes := p.yes ++ [m] } else { p with no := p.no ++ [m] }
      countVotes { s with ilk := { s.ilk with prop := some p } }

/-! ## Probes and evidence (R382, R383, R388) -/

/-- Start a probe of a member. -/
def startProbe (s : State) (m : Nat) : State :=
  let n := (s.ilk.nonce + 1) % 2 ^ 32
  let s := setSeen { s with ilk := { s.ilk with nonce := n } } m { seen s m with nonce := some n }
  ilkSend s (memberDev s m) (ilkRec s 2 0 (n * 2 ^ 96))

/-- Whether a member has sent in every period of the last 1 ms (R388). Log entry 72 (DEDUCED). -/
def steady (s : State) (m : Nat) : Bool :=
  let t := now s .up; let p := hbNs s
  let rs := (seen s m).recs
  (List.range (ms / p)).all (fun i => rs.any (fun r => decide (r + (i + 1) * p > t) && decide (r + i * p ≤ t)))

/-- Whether the evidence for a change's reason is held now (R388). Log entry 72 (DEDUCED). -/
def evidence (s : State) (c : IlkChange) : Bool :=
  let m := c.subj % 64
  let x := seen s m
  let h := healthOf s m
  match c.op, c.reason with
  | 1, 1 => x.conf.isSome
  | 1, 2 => bitAt x.carried 0
  | 1, 3 => bitAt x.carried 5
  | 1, 4 => x.conf.isSome || bitAt x.carried 0 || hMargin h
  | 2, 5 => s.ilk.reqs.any (fun r => sameChange r.chg c && r.src == c.subj)
  | 3, 6 => bitAt h 6 && !hFault h && !hIsolated h && steady s m
  | _, _ => false

/-- Answer a proposal. -/
def vote (s : State) (chair tepoch : Nat) (c : IlkChange) (yes : Bool) : State :=
  let s := if yes then { s with ilk := { s.ilk with voted := some (tepoch, c) } } else s
  ilkSend s chair (ilkRec s 6 (if yes then 1 else 0) (chgBody c + tepoch % 2 ^ 32 * 2 ^ 128))

/-- The probe of a member has ended: votes that waited for it are given. -/
def endWaits (s : State) (m : Nat) : State :=
  let ws := s.ilk.waits.filter (fun w => w.2.2.subj % 64 == m)
  let s := { s with ilk := { s.ilk with waits := s.ilk.waits.filter (fun w => w.2.2.subj % 64 != m) } }
  ws.foldl (fun s w => vote s w.1 w.2.1 w.2.2 (evidence s w.2.2)) s

/-- A box confirms a member and asks for its expulsion (R383). Log entry 72 (DEDUCED). -/
def confirm (s : State) (m reason : Nat) : State :=
  let s := setSeen s m { seen s m with conf := some reason, nonce := none }
  endWaits (ilkRequest s ⟨1, memberDev s m, reason, 0⟩ 0) m

/-- The formation vote (R411 step 5). -/
def formVote (s : State) (c : IlkChange) : Bool :=
  !fbit s F.ILK_STATUS_FORMED && !s.ilk.formYes && bitAt c.members (deviceId s % 64) &&
    s.ilk.seen.all (fun e => !(e.2.forming && !e.2.dup && !hDown e.2.health) || bitAt c.members e.1)

/-- A PROPOSE taken (R387, R388). Log entry 144 (DEDUCED). -/
def takePropose (s : State) (chair tepoch : Nat) (c : IlkChange) : State :=
  if c.op = 4 then
    if s.ilk.voted = some (tepoch, c) then ilkSend s chair (ilkRec s 6 2 (chgBody c + tepoch % 2 ^ 32 * 2 ^ 128))
    else if c.reason = 7 ∧ formVote s c then vote { s with ilk := { s.ilk with formYes := true } } chair tepoch c true
    else vote s chair tepoch c false
  else if !fbit s F.ILK_STATUS_BOX then s
  else
    let s := fset s F.ILK_STATUS_CHANGE 0 1
    if tepoch ≠ (epoch s + 1) % 2 ^ 32 then vote s chair tepoch c false
    else
      match s.ilk.voted with
      | some (t, d) =>
        if t = tepoch then ilkSend s chair (ilkRec s 6 2 (chgBody d + tepoch % 2 ^ 32 * 2 ^ 128))
        else takeProposeNew s chair tepoch c
      | none => takeProposeNew s chair tepoch c
where
  /-- A proposal for a TEPOCH that this box has voted YES for nothing under. -/
  takeProposeNew (s : State) (chair tepoch : Nat) (c : IlkChange) : State :=
    if evidence s c then vote s chair tepoch c true
    else if c.op = 1 ∧ (c.reason = 1 ∨ c.reason = 4) then
      let m := c.subj % 64
      let s := { s with ilk := { s.ilk with waits := s.ilk.waits ++ [(chair, tepoch, c)] } }
      if (seen s m).nonce.isSome then s else startProbe s m
    else vote s chair tepoch c false

/-! ## Signs of life (R382) -/

/-- Any record from a device of the district. Log entry 69 (DEDUCED). -/
def noteLife (s : State) (plane : Option Half) (m h : Nat) : State :=
  let x := seen s m
  let t := now s .up
  let x := { x with
    health := h, carried := Nat.lor x.carried h, first := some (x.first.getD t),
    onA := (match plane with | some .up => some t | _ => x.onA), onB := (match plane with | some .down => some t | _ => x.onB),
    recs := (x.recs ++ [t]).filter (fun r => decide (t < r + ms)) }
  let s := setSeen s m x
  if !(fbit s F.ILK_STATUS_BOX && bitAt (fget s F.ILK_MEMBERS_MAP) m) then s
  else
    let old := fun (o : Option Nat) => match o with | some r => decide (r + 3 * hbNs s < t) | none => true
    let one := match plane with
      | some .up => old x.onB && decide (x.first.getD t + 3 * hbNs s < t)
      | some .down => old x.onA && decide (x.first.getD t + 3 * hbNs s < t)
      | none => false
    let s := if one && s.ilk.plane.isNone then emitLim s .up unitIlk 0x0708 m secNs [(epoch s, 32), (memberDev s m, 16)] else s
    if memberDev s m = deviceId s ∨ x.conf.isSome then s
    else if hFault h then confirm s m 2
    else if hIsolated h then confirm s m 3
    else if hFenced h then confirm s m 1
    else s

/-! ## Fencing (R397 to R399) -/

/-- The device fences: cause 1 excluded, 2 excluded by the record that a FETCH brought, 3 silence of every box, 4 device fault
(R397, R398). Only a record that excludes it ends its duties as a box. Log entries 70 (DEDUCED), 77 (DEDUCED). -/
def fence (s : State) (cause : Nat) : State :=
  if fbit s F.ILK_STATUS_FENCED || devState s == dsCold then s
  else
    let s := (s.tiles.map (·.1)).foldl tileAbortAll s
    let s := ((List.range 64).filter (fun k => fbit s F.WIN_JOB_BOUND k)).foldl cueAbort s
    let s := unbindAll (shnCancel s (fun _ => true))
    let s := fset (fset s F.MOD_DEVICE_ID_VALID 0 0) F.ILK_STATUS_FENCED 0 1
    let s := if 3 ≤ cause then s
      else { s with ilk := { s.ilk with fetching := false, prop := none, deliver := none, reqs := [], waits := [] } }
    let s := { s with ilk := { s.ilk with
      selfchk := false,
      expelAt := (s.ilk.expelAt ++ [poweredSec s]).filter (fun t => decide (poweredSec s < t + 3600)) } }
    let s := bookEpoch s false
    let s := fcount (ilkEv s 0x0705 none [(cause, 3)]) F.ILK_COUNTS_FENCES 0 1
    match s.drain with
    | some d => { s with drain := some { d with at_ := .finish } }
    | none => if devState s = dsSingle ∨ devState s = dsService then modeTo s dsFenced 5 else s

/-- Ask for (re)admission. -/
def askAdmission (s : State) : State :=
  ilkEv (ilkRequest s ⟨3, deviceId s, 6, 0⟩ 0) 0x0706 (some (deviceId s)) []

/-- Whether the device's expulsions of the last hour are more than are readmitted (R399). Log entry 70 (DEDUCED). -/
def overLimit (s : State) : Bool :=
  decide (fget s F.ILK_CFG_READMIT_MAX < (s.ilk.expelAt.filter (fun t => decide (poweredSec s < t + 3600))).length)

/-- Ask for admission within the readmission limit (R399). Log entry 70 (DEDUCED). -/
def askLimited (s : State) : State :=
  if overLimit s then ilkEv s 0x070D (some (deviceId s)) [] else askAdmission s

/-- A start fails (R505): FAIL with the image or unit concerned. -/
def startFail (s : State) (code unit : Nat) : State :=
  emit (fset (fset s F.SEC_BOOT_STAGE 0 7) F.SEC_BOOT_FAIL 0 code) .up unitSec 0x0B01 [(code, 8), (unit, 16)]

/-- A device fault is declared: the device fences from Single-layer and Service; a start stops (R534). -/
def deviceFault (s : State) : State :=
  let s := fset s F.MOD_STATUS_DEV_FAULT 0 1
  if devState s = dsStart then fset s F.SEC_BOOT_STAGE 0 7 else fence s 4

/-! ## Epochs (R391 to R396, R401) -/

/-- The partner-table entry of a position; one that cannot be read names no partner. Log entry 151 (DESIGN CHOICE). -/
def ptabEntry (s : State) (k p : Nat) : State × Nat :=
  let a := fget s F.ILK_PTAB_ADDR k * 64 + 4 * p
  if depotSize ≤ a then (s, 0x3FFF3FFF)
  else match unitRead s (a / 64) with
    | (s, some l) => (s, lb l (8 * (a % 64)) 32)
    | (s, none) => (s, 0x3FFF3FFF)

/-- The partners that an entry names: P1 and P2, those that are members now (R401). -/
def partner (s : State) (k e : Nat) (second : Bool) : Option Nat :=
  let q := bitsAt e (if second then 16 else 0) 14
  let ids := (jobMap s k).getD []
  match ids[q]? with
  | some d => guardOpt (q != 0x3FFF && bitsAt e 14 2 == 0 && bitsAt e 30 2 == 0 && member s d) d
  | none => none

/-- The dispatcher's part in an install that expels device `d`, for one slot (R401, R536). Log entry 78 (DEDUCED). -/
def slotExpel (s : State) (d k : Nat) : State :=
  let ids := (jobMap s k).getD []
  if !fbit s F.WIN_JOB_BOUND k || !ids.contains d then s
  else if devState s = dsSingle then singleLayerEnd s k d
  else if !fbit s F.ILK_PTAB_VALID k then s
  else
    let p := posOf ids d
    let r := ptabEntry s k p
    let s := r.1
    match partner s k r.2 false, partner s k r.2 true with
    | some q, some _ => if q = deviceId s then { s with ilk := { s.ilk with copies := s.ilk.copies ++ [(k, p)] } } else s
    | some q, none => if q = deviceId s then ilkEv s 0x0711 (some d) [(slotJob s k, 12), (p, 14)] else s
    | none, some q => if q = deviceId s then ilkEv s 0x0711 (some d) [(slotJob s k, 12), (p, 14)] else s
    | none, none => s

/-- Start of Service (R410). -/
def enterService (s : State) : State :=
  if devState s = dsStart ∧ fbit s F.ILK_STATUS_FORMED = true ∧ fbit s F.ILK_STATUS_HALL = true ∧ fbit s F.ILK_STATUS_MEMBER = true
    ∧ s.fab.quiet = false then modeTo (serviceReached s) dsService 2
  else s

/-- Districts of the hall, from the configuration image's gateway list and this device's own. -/
def hallDistricts (s : State) : List Nat :=
  let own := districtOf (deviceId s)
  own :: (s.fab.hallGw.map (·.1)).filter (· != own)

/-- Whether a district's hall entry has been filled. -/
def hallFilled (s : State) (d : Nat) : Bool := fget s F.ILK_HALL_EPOCH_EPOCH d != 0 || fget s F.ILK_HALL_MEMBERS_MAP d != 0

/-- Hall membership is complete (R413). Log entry 76 (DEDUCED). -/
def hallDone (s : State) : State :=
  if fbit s F.ILK_STATUS_HALL then s
  else
    let miss := (hallDistricts s).filter (fun d => !hallFilled s d)
    enterService (ilkEv (fset s F.ILK_STATUS_HALL 0 1) 0x070B none ((miss.take 6).map (fun d => (d, 10))))

/-- Hall membership completes when every entry is filled; in a hall of one district it is skipped. -/
def hallCheck (s : State) : State :=
  if !fbit s F.ILK_STATUS_FORMED || fbit s F.ILK_STATUS_HALL then s
  else if (hallDistricts s).length ≤ 1 then enterService (fset s F.ILK_STATUS_HALL 0 1)
  else if (hallDistricts s).all (hallFilled s) then hallDone s else s

/-- A HALL record fills a district's entry (R413). Log entry 75 (DEDUCED). -/
def fillHall (s : State) (d ep members : Nat) : State :=
  if 256 ≤ d ∨ (hallFilled s d ∧ !seqNewer ep (fget s F.ILK_HALL_EPOCH_EPOCH d)) then s
  else stmMembership (hallCheck (fset (fset s F.ILK_HALL_EPOCH_EPOCH d ep) F.ILK_HALL_MEMBERS_MAP d members))

/-- Write the registers of an epoch (R392 step 1). -/
def writeEpoch (s : State) (tepoch members : Nat) (boxes : List Nat) : State :=
  let me := deviceId s % 64
  let s := fset (fset s F.ILK_EPOCH_EPOCH 0 tepoch) F.ILK_MEMBERS_MAP 0 members
  let s := (List.range 5).foldl (fun s n => fset s (boxFld n) 0 (boxes.getD n 0)) s
  let s := fset (fset s F.ILK_STATUS_NMEM 0 (popcount members 64)) F.ILK_STATUS_NBOX 0 boxes.length
  let s := fsetb (fsetb s F.ILK_STATUS_MEMBER 0 (bitAt members me)) F.ILK_STATUS_BOX 0 (boxes.contains me)
  fset (fset s F.ILK_STATUS_FORMED 0 1) F.ILK_SUSPECT_MAP 0 (Nat.land (fget s F.ILK_SUSPECT_MAP) members)

/-- The down half's unit, alone, takes an epoch that holds this device: its own record of it and the acknowledgement; the device's
part of the install is the leading unit's. Log entry 160 (DESIGN CHOICE). -/
def installAlone (s : State) (chair : Nat) (c : IlkChange) (tepoch members : Nat) (boxes : List Nat) (complete : Bool) : State :=
  let s := dropReq (writeEpoch s tepoch members boxes) c
  let s := { s with ilk := { s.ilk with complete := complete, fetching := false, voted := none, waits := [] } }
  ilkNext (ilkSend s chair (ilkRec s 8 0 (tepoch * 2 ^ 128)))

/-- Install an epoch that holds this device (R392). -/
def install (s : State) (chair : Nat) (c : IlkChange) (tepoch members : Nat) (boxes : List Nat) (complete : Bool) : State :=
  let old := fget s F.ILK_MEMBERS_MAP
  let wasFenced := fbit s F.ILK_STATUS_FENCED
  let joins := !fbit s F.ILK_STATUS_MEMBER || wasFenced
  let s := writeEpoch s tepoch members boxes
  let s := fset (fset s F.MOD_DEVICE_ID_VALID 0 1) F.ILK_STATUS_FENCED 0 0
  let out := (List.range 64).filter (fun m => bitAt old m && !bitAt members m)
  let inn := (List.range 64).filter (fun m => bitAt members m && !bitAt old m && memberDev s m != deviceId s)
  let s := (out ++ inn).foldl (fun s m => failDest s (memberDev s m) stUnreachable) s
  let s := if joins then discardStreams s (fun _ _ => true)
    else inn.foldl (fun s m =>
      emit (discardStreams s (fun d _ => d == memberDev s m)) .up unitFab 0x0307 [(memberDev s m, 16)]) s
  let s := (out ++ inn).foldl (fun s m =>
    let x := seen s m
    setSeen s m (if out.contains m then {} else { x with carried := x.health, conf := none, nonce := none, first := none })) s
  let s := collEpoch s
  let s := { s with fab := { s.fab with gwLogged := [], quiet := joins && c.op != 4 && !complete } }
  let s := fset (fset s F.ILK_HALL_EPOCH_EPOCH (districtOf (deviceId s)) tepoch) F.ILK_HALL_MEMBERS_MAP (districtOf (deviceId s)) members
  let s := if joins then s else out.foldl (fun s m => (List.range 64).foldl (fun s k => slotExpel s (memberDev s m) k) s) s
  let s := stmMembership s
  let s := ilkSend s chair (ilkRec s 8 0 (tepoch * 2 ^ 128))
  let s := fset (fset (fset (fset s F.ILK_LAST_CHANGE_EPOCH 0 tepoch) F.ILK_LAST_CHANGE_OP 0 c.op) F.ILK_LAST_CHANGE_SUBJ 0 c.subj)
    F.ILK_LAST_CHANGE_REASON 0 c.reason
  let s := fset (fset s F.ILK_LAST_CHANGE_VALID 0 1) F.ILK_STATUS_CHANGE 0 1
  let s := ilkEv s 0x0704 (subjOf c) [(c.op, 4), (c.reason, 8)]
  let s := if c.op = 4 then ilkEv s 0x070A none [] else s
  let s := if c.op = 1 then fcount s F.ILK_COUNTS_EXPELS 0 1 else s
  let s := dropReq s c
  let s := { s with ilk := { s.ilk with
    dirty := true, complete := complete, forming := false, fetching := false, voted := none, waits := [],
    prop := (match s.ilk.prop with | some p => guardOpt (seqNewer p.tepoch tepoch) p | none => none) } }
  let s := if wasFenced ∧ devState s = dsFenced then modeTo s dsService 6 else s
  ilkNext (enterService (hallCheck s))

/-- An EPOCH record taken (R391 to R394, R397, R412). Log entry 77 (DEDUCED). -/
def takeEpoch (s : State) (src : Nat) (c : IlkChange) (tepoch members : Nat) (boxes : List Nat) (complete : Bool) : State :=
  let me := deviceId s % 64
  if fbit s F.ILK_STATUS_FORMED && !seqNewer tepoch (epoch s) then
    if tepoch ≠ epoch s then s
    else
      let s := if fbit s F.ILK_STATUS_MEMBER then ilkSend s src (ilkRec s 8 0 (tepoch * 2 ^ 128)) else s
      let s := { s with ilk := { s.ilk with fetching := false, complete := s.ilk.complete || complete } }
      enterService { s with fab := { s.fab with quiet := s.fab.quiet && !complete } }
  else if bitAt members me then
    if s.ilk.plane = some .down then installAlone s src c tepoch members boxes complete
    else install s src c tepoch members boxes complete
  else if s.ilk.forming then
    let s := writeEpoch { s with ilk := { s.ilk with forming := false } } tepoch members boxes
    askLimited s
  else if fbit s F.ILK_STATUS_MEMBER && !fbit s F.ILK_STATUS_FENCED then
    match s.drain with
    | some d => if c.op = 2 ∧ c.subj = deviceId s then { s with drain := some { d with at_ := .finish } } else fence s (if s.ilk.fetching then 2 else 1)
    | none => fence s (if s.ilk.fetching then 2 else 1)
  else s

/-- An acknowledgement of the record being delivered (R393). -/
def takeEpochAck (s : State) (src tepoch : Nat) : State :=
  match s.ilk.deliver with
  | none => s
  | some d =>
    let m := src % 64
    if tepoch ≠ d.tepoch ∨ d.acked.contains m then s
    else
      let d := { d with acked := d.acked ++ [m] }
      if (bitList d.members 64).all (fun i => d.acked.contains i) then
        ilkNext (deliverTo { s with ilk := { s.ilk with deliver := none } } d 1 d.targets)
      else { s with ilk := { s.ilk with deliver := some d } }

/-- The current EPOCH record goes to a device (R393, R412). -/
def sendEpoch (s : State) (dst : Nat) : State :=
  let c : IlkChange := ⟨fget s F.ILK_LAST_CHANGE_OP, fget s F.ILK_LAST_CHANGE_SUBJ, fget s F.ILK_LAST_CHANGE_REASON, 0⟩
  ilkSend s dst (ilkRec s 7 (if s.ilk.complete then 1 else 0) (epochBody c (epoch s) (fget s F.ILK_MEMBERS_MAP) (boxList s)))

/-- A VERDICT taken (R390). -/
def takeVerdict (s : State) (c : IlkChange) (yes : Bool) : State :=
  let s := if yes then dropReq s c else dropOwnReq s c (deviceId s)
  if !fbit s F.ILK_STATUS_REQ_PEND then s
  else
    let op := fget s F.ILK_CTL_OP
    let mine := op == c.op && (if op = 1 then c.subj == fget s F.ILK_CTL_SUBJ && c.reason == 4 else c.subj == deviceId s)
    if !mine then s
    else
      let s := fsetb (fset s F.ILK_STATUS_REQ_PEND 0 0) F.ILK_STATUS_REQ_YES 0 yes
      if !yes ∧ c.reason = 4 then fcount (ilkEv s 0x0707 (some c.subj) []) F.ILK_COUNTS_REFUSED 0 1 else s

/-! ## Formation (R411, R412) -/

/-- The last epoch in the logbook, as heartbeats carry it. -/
def lastEp (s : State) : Nat := ((bookItem s 0x17 0).map (·.arg 1)).getD 0

/-- Members heard while forming: this device and every other one heard, unless two devices bear its ID. -/
def heard (s : State) : List Nat :=
  let me := deviceId s % 64
  (List.range 64).filter (fun m => (m == me && !(seen s m).dup) || ((seen s m).forming && !(seen s m).dup && m != me))

/-- The lowest-numbered device heard in health proposes the district (R411). Log entry 74 (DEDUCED). -/
def formPropose (s : State) : State :=
  let hs := (heard s).filter (fun m => !hDown (healthOf s m))
  if !s.ilk.forming || s.ilk.prop.isSome || hs.head? != some (deviceId s % 64) then s
  else
    let map := (hs.map (fun m => 2 ^ m)).sum
    let last := (heard s).foldl (fun a m => let e := if m = deviceId s % 64 then lastEp s else (seen s m).lastEp; if seqNewer e a then e else a) (lastEp s)
    propose s ⟨4, 0xFFFF, 7, map⟩ ((last + 2 ^ 20) % 2 ^ 32) (deviceId s) (chooseBoxes s map)

/-- A HEARTBEAT (R381, R382, R393, R411, R412). Log entry 69 (DEDUCED). -/
def takeHeartbeat (s : State) (src flags : Nat) (r : BitVec 448) : State :=
  let m := src % 64
  let inst := rb r 128 32
  let s := if bitAt flags 0 then
      let x := seen s m
      let clash := if memberDev s m = deviceId s then s.ilk.forming && inst != fget s F.ILK_INST_INST else x.forming && inst != x.inst
      let s := if s.ilk.forming && clash && !x.dup then ilkEv s 0x070C (some src) [] else s
      let s := setSeen s m { x with forming := true, lastEp := rb r 160 32, inst := if x.forming then x.inst else inst, dup := x.dup || clash }
      if fbit s F.ILK_STATUS_BOX && !bitAt (fget s F.ILK_MEMBERS_MAP) m then sendEpoch s src
      else if s.ilk.forming ∧ fget s F.ILK_DISTRICT_NEXP ≤ (heard s).length then formPropose s
      else s
    else setSeen s m { seen s m with forming := false }
  if fbit s F.ILK_STATUS_FORMED && (boxList s).contains m && seqNewer (rb r 32 32) (epoch s) then
    ilkSend s src (ilkRec s 9 0 0)
  else s

/-! ## Taking a record -/

/-- HALL (R413): the entry is filled; a gateway hands records of other districts on to its members, and its own district's to
the other districts' gateways, in the system job. Log entry 75 (DEDUCED). -/
def takeHall (s : State) (r : BitVec 448) : State :=
  let d := rb r 289 10; let ep := rb r 32 32
  let own := districtOf (deviceId s)
  let newer := decide (d < 256) && (!hallFilled s d || seqNewer ep (fget s F.ILK_HALL_EPOCH_EPOCH d))
  let s := if !isGateway s then s
    else if d = own then
      (s.fab.hallGw.filter (fun e => e.1 != own)).foldl (fun s e => e.2.foldl (fun s g => send s (.hall g r)) s) s
    else if newer then sendAll s ((memberList s).filter (fun m => memberDev s m != deviceId s)) r else s
  if d = own then s else fillHall s d ep (rb r 192 64)

/-- Take a record, by its KIND. -/
def takeIlk (s : State) (plane : Option Half) (r : BitVec 448) : State :=
  let s := match plane with
    | some h => fset s F.ILK_SPORT_RX_COUNT h.num (fget s F.ILK_SPORT_RX_COUNT h.num + 1)
    | none => s
  if !ilkOk r then s
  else
    let src := rb r 16 16; let flags := rb r 8 8; let t := rb r 128 32
    let own := decide (districtOf src = districtOf (deviceId s)) && validDevice src
    let s := if own && rb r 0 8 != 12 then noteLife s plane (src % 64) (rb r 64 32) else s
    match rb r 0 8 with
    | 1 => if own then takeHeartbeat s src flags r else s
    | 2 => ilkSend s src (ilkRec s 3 0 (rb r 96 32 * 2 ^ 96))
    | 3 =>
      let m := src % 64
      let h := rb r 64 32
      if (seen s m).nonce ≠ some (rb r 96 32) ∨ own = false then s
      else if hFault h || hFenced h || hIsolated h then confirm s m (if hFault h then 2 else if hIsolated h then 3 else 1)
      else
        let s := setSeen s m { seen s m with nonce := none }
        let s := if bitAt (fget s F.ILK_SUSPECT_MAP) m then
            ilkEv (fset s F.ILK_SUSPECT_MAP 0 (setBit (fget s F.ILK_SUSPECT_MAP) m false)) 0x0702 (some src) []
          else s
        endWaits s m
    | 4 => takeRequestRec s src (chgOf r)
    | 5 => takePropose s src t (chgOf r)
    | 6 => takeVote s src flags t (chgOf r)
    | 7 => takeEpoch s src (chgOf r) t (rb r 192 64) ((List.range (min 5 (rb r 286 3))).map (fun n => rb r (256 + 6 * n) 6)) (bitAt flags 0)
    | 8 => takeEpochAck s src t
    | 9 => if fbit s F.ILK_STATUS_BOX then sendEpoch s src else s
    | 10 => takeVerdict s (chgOf r) (bitAt flags 0)
    | 11 => takeHall s r
    | _ => s

/-- The next record to this device itself, in order. -/
def takeOwn (s : State) : State :=
  match s.ilk.inbox with
  | [] => s
  | r :: rs => takeIlk { s with ilk := { s.ilk with inbox := rs } } none r

/-- A record row: the record arrived on a plane, and no longer waits among the link-local packets. -/
def ilkIn (s : State) (plane : Half) (r : BitVec 448) : State :=
  let s := { s with links := { s.links with linkLocal := s.links.linkLocal.erase (32 + plane.num, r) } }
  let s := if plane = .up then mirror s r else s
  let take := fun s => takeIlk s (some plane) r
  if plane = .down ∧ s.brg.lone.isSome then asDown s take else take s

/-! ## Timers and commands -/

/-- HEARTBEAT (R381). Log entry 73 (DEDUCED). -/
def heartbeat (s : State) : State :=
  let me := deviceId s % 64
  let others := fun (l : List Nat) => l.filter (· != me)
  let dsts := if s.ilk.forming then others (List.range 64)
    else if fbit s F.ILK_STATUS_FENCED then others (boxList s)
    else if fbit s F.ILK_STATUS_BOX then others (memberList s)
    else if fbit s F.ILK_STATUS_MEMBER then boxList s
    else boxList s
  let n := (s.ilk.hbseq + 1) % 2 ^ 32
  let s := { s with ilk := { s.ilk with hbseq := n } }
  let r := ilkRec s 1 (if s.ilk.forming then 1 else 0) (n * 2 ^ 96 + fget s F.ILK_INST_INST * 2 ^ 128 + lastEp s * 2 ^ 160)
  let s := sendAll s dsts r
  if s.ilk.forming then planeSend s [0, 1] (deviceId s) r else s

/-- A box suspects a member (R382). -/
def suspect (s : State) (m : Nat) : State :=
  let map := fget s F.ILK_SUSPECT_MAP
  if !fbit s F.ILK_STATUS_BOX || !bitAt (fget s F.ILK_MEMBERS_MAP) m || memberDev s m == deviceId s || bitAt map m || (seen s m).conf.isSome then s
  else startProbe (ilkEv (fset s F.ILK_SUSPECT_MAP 0 (setBit map m true)) 0x0701 (some (memberDev s m)) []) m

/-- A probe is repeated with its number (R383). -/
def probeAgain (s : State) (m : Nat) : State :=
  match (seen s m).nonce with
  | some n => ilkSend s (memberDev s m) (ilkRec s 2 0 (n * 2 ^ 96))
  | none => s

/-- Forty µs without an answer (R383). Log entry 4 (DESIGN CHOICE). -/
def probeLate (s : State) (m : Nat) : State := if (seen s m).nonce.isSome then confirm s m 1 else s

/-- The next-lowest box becomes the acting chair, and logs it where it is this device (R386). Log entry 144 (DEDUCED). -/
def handover (s : State) (op subj : Nat) : State :=
  match s.ilk.reqs.find? (fun r => r.chg.op == op && r.chg.subj == subj) with
  | none => s
  | some r =>
    let upd := s.ilk.reqs.map (fun x => if x.chg.op = op ∧ x.chg.subj = subj then { x with turn := r.turn + 1 } else x)
    let s := { s with ilk := { s.ilk with reqs := upd } }
    let mine := fbit s F.ILK_STATUS_BOX && (actingChair s { r with turn := r.turn + 1 }).map (memberDev s) == some (deviceId s)
    if mine then ilkNext (ilkEv s 0x0712 (some subj) []) else s

/-- 80 µs after the PROPOSE (R389). -/
def voteLate (s : State) : State :=
  match s.ilk.prop with
  | some p => propFailed s p
  | none => s

/-- The request is sent again while the evidence stands (R389); for this device's own number, its pending request. -/
def requestAgain (s : State) (m : Nat) : State :=
  if memberDev s m = deviceId s then
    match s.drain with
    | some d => if d.at_ = .leave then ilkRequest s ⟨2, deviceId s, 5, 0⟩ 0 else s
    | none =>
      let allowed := fbit s F.ILK_STATUS_REQ_PEND || !overLimit s
      if fbit s F.ILK_STATUS_FENCED && s.ilk.selfchk && allowed then ilkRequest s ⟨3, deviceId s, 6, 0⟩ 0 else s
  else
    match (seen s m).conf with
    | some r => if fbit s F.ILK_STATUS_BOX && bitAt (fget s F.ILK_MEMBERS_MAP) m then ilkRequest s ⟨1, memberDev s m, r, 0⟩ 0 else s
    | none => s

/-- The chair sends its record again, or with COMPLETE (R393). -/
def epochAgain (s : State) : State :=
  match s.ilk.deliver with
  | some d => deliverTo s d 0 (d.targets.filter (fun m => !d.acked.contains m))
  | none => s
def epochLate (s : State) : State :=
  match s.ilk.deliver with
  | some d => ilkNext (deliverTo { s with ilk := { s.ilk with deliver := none } } d 1 d.targets)
  | none => s

/-- The coalesced epoch record (R393). -/
def epochBook (s : State) : State :=
  if s.ilk.dirty then bookEpoch { s with ilk := { s.ilk with dirty := false } } true else s

/-- PORTCHECK on every fabric port that is up (R380). -/
def portchecks (s : State) : State :=
  (List.range 32).foldl (fun s p =>
    if fbit s F.PORT_STATUS_UP p then sendOn s p 0xFFFF (ilkRec (unitView s (portHalf p)) 12 0 (p * 2 ^ 96)) else s) s

/-- A PORTCHECK taken on a fabric port. -/
def takePortcheck (s : State) (p : Nat) (r : BitVec 448) : State :=
  let s := { s with links := { s.links with linkLocal := s.links.linkLocal.erase (p, r) } }
  let h := (portHalf p).num
  let s := fset s F.ILK_SPORT_RX_COUNT h (fget s F.ILK_SPORT_RX_COUNT h + 1)
  if !ilkOk r || rb r 0 8 != 12 then s else oset s p { oget s p with pcLost := false }

/-- A port with a module peer has taken no PORTCHECK for 30 ms. -/
def portcheckLate (s : State) (p : Nat) : State :=
  let o := oget s p
  if !fbit s F.PORT_STATUS_UP p || !fbit s F.PORT_PEER_VALID p || fbit s F.PORT_PEER_S p || o.pcLost then s
  else
    let s1 := oset s p { o with pcLost := true, pcNoted := true }
    if o.pcNoted then s1 else ilkEv s1 0x0713 none [(p, 5)]

/-- FETCH to every box of the epoch (R397). -/
def fetchAll (s : State) : State := sendAll { s with ilk := { s.ilk with fetching := true } } (boxList s) (ilkRec s 9 0 0)

/-- The self-check of a fenced device ends (R399). -/
def selfCheckDone (s : State) (passed : Bool) : State :=
  if !fbit s F.ILK_STATUS_FENCED || fbit s F.MOD_STATUS_DEV_FAULT || !passed then s
  else
    askLimited { s with ilk := { s.ilk with selfchk := true } }

/-- A refused interlocking register write (R415). -/
def ilkRefused (s : State) : State := emitLim s .up unitIlk 0x070E 0 ms [(epoch s, 32)]

/-- ILK_CTL with GO (R388, R390, R399). -/
def ilkCtl (s : State) (op subj job : Nat) : State :=
  if fbit s F.ILK_STATUS_REQ_PEND then ilkRefused s
  else
    let s := fset (fset (fset s F.ILK_CTL_OP 0 op) F.ILK_CTL_SUBJ 0 subj) F.ILK_CTL_JOB 0 job
    if op = 1 then ilkRequest (fset s F.ILK_STATUS_REQ_PEND 0 1) ⟨1, subj, 4, 0⟩ job
    else if op = 2 then ilkRequest (fset s F.ILK_STATUS_REQ_PEND 0 1) ⟨2, deviceId s, 5, 0⟩ 0
    else if op = 3 then askAdmission (fset s F.ILK_STATUS_REQ_PEND 0 1)
    else s

/-- The copy to a new partner is complete (R401). Log entry 78 (DEDUCED). -/
def copyDone (s : State) (k p : Nat) : State :=
  if s.ilk.copies.contains (k, p) then
    let d := ((jobMap s k).getD []).getD p 0xFFFF
    ilkEv { s with ilk := { s.ilk with copies := s.ilk.copies.erase (k, p) } } 0x0711 (some d) [(slotJob s k, 12), (p, 14)]
  else s

/-- The drain goes on where nothing holds it (R467 steps 3 to 5); a partial reset holds it until the half is ready or the device
faults (R468). Log entry 100 (DEDUCED). -/
def drainRun (s : State) : State :=
  match s.drain with
  | none => s
  | some d =>
    if (fbit s F.MOD_STATUS_UP_PRESET || fbit s F.MOD_STATUS_DOWN_PRESET) && !fbit s F.MOD_STATUS_DEV_FAULT then s
    else
      match d.at_ with
      | .release => s
      | .recall =>
        if !s.dep.recalls.isEmpty then s
        else
          match s.dep.dir with
          | e :: _ => { s with dep := { s.dep with recalls := [⟨none, e.line, false, []⟩] } }
          | [] =>
            if (boxList s).all (fun m => memberDev s m == deviceId s) then { s with drain := some { d with at_ := .finish } }
            else ilkRequest { s with drain := some { d with at_ := .leave } } ⟨2, deviceId s, 5, 0⟩ 0
      | .leave => s
      | .finish => drainFinish s

end Sys2Proof.Machine
end

