-- ==== Sys2Proof/Machine/Bridge.lean ====
section
/-!
DEFINITION. The bridge (R419 to R430), partial resets (R431 to R434) and loss of the clock (R435). The two halves share one
state, so this device's own cross-half traffic is not cut into bridge packets; what arrives in bridge rows is taken by these
rules, and answers and power messages leave as bridge packets.
-/

namespace Sys2Proof.Machine

/-! ## Groups and flits -/

/-- The direction of flits that half `h` receives: 0 up to down, 1 down to up. -/
def dirTo (h : Half) : Nat := h.other.num

/-- A group, by direction and number. -/
def grp (s : State) (dir g : Nat) : BrgGroup := mget s.brg.groups (68 * dir + g) {}
def setGrp (s : State) (dir g : Nat) (x : BrgGroup) : State :=
  { s with brg := { s.brg with groups := mput s.brg.groups (68 * dir + g) x {} } }

/-- Sides and records of a half. -/
def btx (s : State) (h : Half) : BrgTx := mget s.brg.tx h.num {}
def setBtx (s : State) (h : Half) (x : BrgTx) : State := { s with brg := { s.brg with tx := mput s.brg.tx h.num x {} } }
def brx (s : State) (h : Half) : BrgRx := mget s.brg.rx h.num {}
def setBrx (s : State) (h : Half) (x : BrgRx) : State := { s with brg := { s.brg with rx := mput s.brg.rx h.num x {} } }
def brec (s : State) (h : Half) : Option BrgRec := mget s.brg.record h.num none
def setBrec (s : State) (h : Half) (r : Option BrgRec) : State := { s with brg := { s.brg with record := mput s.brg.record h.num r none } }

/-- The active groups: the W lowest of the agreed map (R421). -/
def activeGroups (r : BrgRec) : List Nat := (bitList r.map 68).take r.width

/-- The group on which flit `m` travels. -/
def flitGroup (r : BrgRec) (m : Nat) : Nat := (activeGroups r).getD (m % r.width) 0

/-- Log an event of the bridge with its half. -/
def brgEv (s : State) (h : Half) (code : Nat) (more : List (Nat × Nat)) : State := emit s h unitBrg code ((h.num, 1) :: more)

/-- The logbook's bridge lane map: one record per group and direction. -/
def bookGroup (s : State) (dir g : Nat) : State :=
  let x := grp s dir g
  bookA s 0x11 (68 * dir + g) [(68 * dir + g, 8), ((x.erase.map (· + 1)).getD 0, 8), (if x.st = 3 then 1 else 0, 1)]

/-! ## Sending (R424, R425) -/

/-- The credits of one kind that `n` flits of a class can use (R424): the class's own 256, or the shared pool (kind 5) of 8,960. Log entry 82 (DEDUCED). -/
def brgKind (x : BrgTx) (c n : Nat) : Option Nat :=
  let fits := fun (k cap : Nat) => decide (mget x.used k 0 + n ≤ mget x.freed k 0 + cap)
  if fits c 256 then some c else guardOpt (fits 5 8960) 5

/-- A class's first packet, where credits and the retry buffer of 256 flits for each active group have room for it. -/
def brgReady (s : State) (x : BrgTx) (c : Nat) : Option (Nat × List Line) :=
  (x.queue.find? (fun q => q.1 == c)).bind (fun q =>
    guardOpt ((brgKind x c q.2.length).isSome && decide (x.unacked.length + q.2.length ≤ 256 * fget s F.BRG_STATUS_WIDTH)) q)

/-- The class whose turn it is among request, collective and bulk, and the turn passed on with the deficit that it keeps. -/
def BrgTx.turnClass (x : BrgTx) : Nat := [0, 2, 3].getD x.turn 0
def BrgTx.nextTurn (x : BrgTx) (d : Nat) : BrgTx :=
  { x with deficit := mput x.deficit x.turnClass d 0, turn := (x.turn + 1) % 3, visit := false }

/-- Deficit round robin over request, collective and bulk, counted in flits with equal weights (R424), by turns as on a fabric port.
Log entry 152 (DEDUCED). -/
def brgDrr (s : State) : Nat → BrgTx → BrgTx × Option (Nat × List Line)
  | 0, x => (x, none)
  | n + 1, x =>
    match brgReady s x x.turnClass with
    | none => brgDrr s n (x.nextTurn 0)
    | some q =>
      let d := mget x.deficit x.turnClass 0 + (if x.visit then 0 else 1)
      if q.2.length ≤ d then ({ x with deficit := mput x.deficit x.turnClass (d - q.2.length) 0, visit := true }, some q)
      else brgDrr s n (x.nextTurn d)

/-- The next packet under R424's order: responses, management, then request, collective and bulk by turns. -/
def brgPick (s : State) (x : BrgTx) : BrgTx × Option (Nat × List Line) :=
  match brgReady s x 1, brgReady s x 4 with
  | some q, _ => (x, some q)
  | none, some q => (x, some q)
  | none, none => if [0, 2, 3].any (fun c => (brgReady s x c).isSome) then brgDrr s 200 x else (x, none)

/-- Send what waits, while the bridge carries flits and credits last. -/
def brgPumpN (h : Half) : Nat → State → State
  | 0, s => s
  | n + 1, s =>
    if !fbit s F.BRG_STATUS_UP || fbit s F.BRG_STATUS_HOLD then s
    else
      match brgPick s (btx s h) with
      | (_, none) => s
      | (x, some q) =>
        let kind := (brgKind x q.1 q.2.length).getD q.1
        let fl := (q.2.zipIdx).map (fun f => ((x.next + f.2) % 2 ^ 32, f.1))
        let x := { x with
          queue := x.queue.erase q, next := (x.next + q.2.length) % 2 ^ 32, unacked := x.unacked ++ fl,
          used := mput x.used kind (mget x.used kind 0 + q.2.length) 0, pooled := if kind = 5 then x.pooled ++ [x.next] else x.pooled }
        brgPumpN h n (send (setBtx s h x) (.bridge h q.2))
def brgPump (s : State) (h : Half) : State := brgPumpN h (btx s h).queue.length s

/-- Queue a packet from half `h`. -/
def brgSend (s : State) (h : Half) (cls : Nat) (flits : List Line) : State :=
  let x := btx s h
  brgPump (setBtx s h { x with queue := x.queue ++ [(cls, flits)] }) h

/-- A bridge head flit (R422); `body` is bytes 8 to 63. -/
def brgHead (cls nflit kind unit tag body : Nat) : Line :=
  BitVec.ofNat 512 (2 + cls * 4 + nflit * 32 + kind * 2 ^ 12 + unit % 65536 * 2 ^ 16 + tag % 2 ^ 32 * 2 ^ 32 + body * 2 ^ 64)

/-- The control flit of half `h` on a group (R423). Log entry 82 (DEDUCED). -/
def brgControl (s : State) (h : Half) (nak replay : Bool) (seq g : Nat) : Line :=
  let r := brx s h
  let cr := ((List.range 6).map (fun c => mget r.freed c 0 % 2 ^ 32 * 2 ^ (128 + 32 * c))).sum
  BitVec.ofNat 512 (0xC5 + (if nak then 256 else 0) + (if replay then 512 else 0) + g * 2 ^ 16 + fget s F.BRG_EPOCH_TEPOCH * 2 ^ 32
    + (r.exp + 2 ^ 32 - 1) % 2 ^ 32 * 2 ^ 64 + seq % 2 ^ 32 * 2 ^ 96 + cr)

/-- The control flits of a frame: every active group carries one (R420, R423). -/
def brgControls (s : State) (h : Half) (nak replay : Bool) (seq : Nat) : List Line :=
  match brec s h with
  | some r => (activeGroups r).map (brgControl s h nak replay seq)
  | none => []

/-- A half's control flits go out, where the bridge is open and they say something new (R423). Log entry 82 (DEDUCED). -/
def brgFrame (s : State) (h : Half) : State :=
  let c := brgControl s h false false 0 0
  if !fbit s F.BRG_STATUS_UP || fbit s F.BRG_STATUS_HOLD || (btx s h).shown == c then s
  else send (setBtx s h { btx s h with shown := c }) (.bridge h (brgControls s h false false 0))

/-- The frame after a change of what a half has accepted or freed carries it, after what the half's units have queued (R423, R424).
Log entry 82 (DEDUCED). -/
def brgShow (s : State) (h : Half) : State := brgFrame (brgPump s h) h

/-! ## Training (R427 to R430) -/

/-- CRC-8 of R297 over the first `n` bytes of a number. -/
def crc8n (v n : Nat) : Nat :=
  (List.range n).foldl (fun c k => (List.range 8).foldl (fun c i => crc8Step c (bitsAt v (8 * k + 7 - i) 1)) c) 0

/-- A training message; its fields; whether it is whole. -/
def trainMsg (typ w tepoch gexp good : Nat) : BitVec 256 :=
  let v := typ + w * 256 + tepoch % 2 ^ 32 * 2 ^ 32 + gexp % 2 ^ 32 * 2 ^ 64 + good % 2 ^ 68 * 2 ^ 128
  BitVec.ofNat 256 (v + crc8n v 31 * 2 ^ 248)
def tmBits (m : BitVec 256) (lo w : Nat) : Nat := bitsAt m.toNat lo w
def trainOk (m : BitVec 256) (typ : Nat) : Bool :=
  tmBits m 0 8 == typ && crc8n (m.toNat % 2 ^ 248) 31 == tmBits m 248 8 && tmBits m 11 21 == 0 && tmBits m 96 32 == 0 && tmBits m 196 52 == 0

/-- The bridge is held: credits frozen, nothing flows. -/
def brgHold (s : State) : State :=
  let s := fset (fset s F.BRG_STATUS_UP 0 0) F.BRG_STATUS_HOLD 0 1
  fset (fset s F.MOD_STATUS_BRIDGE_UP 0 0) F.BRG_STATUS_WIDTH 0 0

/-- A training starts: START goes out with the next epoch. Log entry 84 (DESIGN CHOICE). -/
def brgStart (s : State) (cause : Nat) : State :=
  let ep := (s.brg.lastEp + 1) % 2 ^ 32
  let s := fset (brgHold s) F.BRG_STATUS_TRAINING 0 1
  let s := fcount s F.BRG_ERRORS_TRAININGS 0 1
  let s := { s with brg := { s.brg with lastEp := ep, train := some { cause := cause, tepoch := ep } } }
  send s (.sideband .up (trainMsg 1 0 ep 0 0))

/-- A live retrain; a request while one is in progress is ignored (R430). Log entry 84 (DESIGN CHOICE). -/
def brgRetrain (s : State) (cause : Nat) : State := if s.brg.train.isSome then s else brgStart s cause

/-- The device fault of a bridge that does not train (R429, R505). -/
def brgFail (s : State) : State :=
  let s := brgEv { s with brg := { s.brg with train := none } } .up 0x0808 []
  let s := splitUnits (if devState s = dsStart then startFail s 7 unitBrg else s)
  deviceFault (fset s F.BRG_STATUS_TRAINING 0 0)

/-- START is taken: both halves send PRBS31 (R428 step 2). -/
def trainStart (s : State) (m : BitVec 256) : State :=
  match s.brg.train with
  | some t => if trainOk m 1 && tmBits m 32 32 == t.tepoch then { s with brg := { s.brg with train := some { t with good := [], agreed := none } } } else s
  | none => s

/-- A half's PRBS is over, with the lanes that failed (group, lane): its good map and erasure lanes, and MAP (R428). -/
def prbsDone (s : State) (h : Half) (failed : List (Nat × Nat)) : State :=
  match s.brg.train with
  | none => s
  | some t =>
    let dir := dirTo h
    let bad := fun (g : Nat) =>
      let known := match bookItem s 0x11 (68 * dir + g) with
        | some e => if e.arg 2 = 1 then [0, 1] else if e.arg 1 = 0 then [] else [e.arg 1 - 1]
        | none => []
      (known ++ (failed.filter (fun f => f.1 == g)).map (·.2)).eraseDups
    let s := (List.range 68).foldl (fun s g =>
      let x := grp s dir g
      let y := match bad g with
        | [] => { x with erase := none, st := 1 }
        | [l] => { x with erase := some l, st := 1 }
        | _ => { x with st := 3 }
      let s := setGrp s dir g y
      if y.erase != x.erase || (y.st == 3 && x.st != 3) then bookGroup s dir g else s) s
    let map := (((List.range 68).filter (fun g => (grp s dir g).st == 1)).map (fun g => 2 ^ g)).sum
    let s := { s with brg := { s.brg with train := some { t with good := mput t.good h.num (map + 1) 0 } } }
    send s (.sideband h (trainMsg 2 0 t.tepoch 0 map))

/-- The widest width that an agreed map fills (R428 step 4). -/
def widthOf (map : Nat) : Nat := min 4 (popcount map 68 / 16)

/-- MAP of the down half is taken by the up half, which answers AGREE. -/
def trainMap (s : State) (m : BitVec 256) : State :=
  match s.brg.train with
  | none => s
  | some t =>
    let own := mget t.good 0 0
    if !trainOk m 2 || tmBits m 32 32 != t.tepoch || own == 0 then s
    else
      let map := Nat.land (own - 1) (tmBits m 128 68)
      let w := widthOf map
      if w = 0 then brgFail s
      else
        let s := { s with brg := { s.brg with train := some { t with agreed := some (map, w) } } }
        send s (.sideband .up (trainMsg 3 w t.tepoch (brx s .up).exp map))

/-- A half starts control flits under the new training epoch, and its transmitter goes on from the peer's expected flit (R428 step 6). Log entry 82 (DEDUCED). -/
def brgResume (s : State) (h : Half) (gexp : Nat) : State :=
  let s := brgFrame s h
  let x := btx s h
  let keep := x.unacked.filter (fun f => f.1 == gexp || seqNewer f.1 gexp)
  let s := setBtx s h { x with unacked := keep, replays := 0 }
  if keep.isEmpty then s else send s (.bridge h (keep.map (·.2)))

/-- AGREE is taken by the down half: it writes its width record and echoes what the record holds. -/
def trainAgree (s : State) (m : BitVec 256) : State :=
  if !trainOk m 3 then s
  else
    let r : BrgRec := { tepoch := tmBits m 32 32, width := 16 * tmBits m 8 3, map := tmBits m 128 68 }
    let s := setBrec s .down (some r)
    send s (.sideband .down (trainMsg 4 (r.width / 16) r.tepoch (brx s .down).exp r.map))

/-- The up half refuses and starts again (R429). -/
def trainRefuse (s : State) (stale : Bool) : State :=
  match s.brg.train with
  | none => s
  | some t =>
    let s := if stale then brgEv s .up 0x0806 [] else s
    let s := send s (.sideband .up (trainMsg 5 0 t.tepoch 0 0))
    let n := s.brg.refused + 1
    let s := { s with brg := { s.brg with refused := n } }
    if 3 ≤ n then brgFail s else brgStart s t.cause

/-- ECHO is taken by the up half (R428 step 6, R429). Log entry 84 (DESIGN CHOICE). -/
def trainEcho (s : State) (m : BitVec 256) : State :=
  match s.brg.train with
  | none => s
  | some t =>
    match t.agreed with
    | none => s
    | some a =>
      if !trainOk m 4 then s
      else if tmBits m 32 32 ≠ t.tepoch ∨ tmBits m 128 68 ≠ a.1 ∨ tmBits m 8 3 ≠ a.2 then trainRefuse s true
      else
        let r : BrgRec := { tepoch := t.tepoch, width := 16 * a.2, map := a.1 }
        let s := setBrec { s with brg := { s.brg with train := none, refused := 0 } } .up (some r)
        let act := activeGroups r
        let s := (List.range 136).foldl (fun s i =>
          let x := grp s (i / 68) (i % 68)
          setGrp s (i / 68) (i % 68) { x with st := if act.contains (i % 68) then 2 else if bitAt a.1 (i % 68) || x.st == 1 then 1 else 3 }) s
        let s := fset (fset (fset s F.BRG_STATUS_UP 0 1) F.BRG_STATUS_TRAINING 0 0) F.BRG_STATUS_HOLD 0 0
        let s := fset (fset s F.BRG_STATUS_WIDTH 0 r.width) F.BRG_STATUS_AGREED 0 (popcount a.1 68)
        let s := fset (fset s F.BRG_EPOCH_TEPOCH 0 t.tepoch) F.BRG_GOOD_MAP 0 (a.1 % 2 ^ 64)
        let s := fset (fset s F.BRG_ERRORS_SPARES 0 (popcount (a.1 / 2 ^ 64) 4)) F.MOD_STATUS_BRIDGE_UP 0 1
        let s := brgEv s .up 0x0803 [(t.cause, 3), (t.tepoch, 32), (r.width, 7)]
        let s := setBrx (setBrx s .up { brx s .up with discard := false }) .down { brx s .down with discard := false }
        let s := brgResume (brgResume s .up (tmBits m 64 32)) .down (brx s .up).exp
        brgPump (brgPump s .up) .down

/-! ## Receiving (R420 to R426) -/

/-- Note a correction on a lane of a group (R426). -/
def brgCorr (s : State) (h : Half) (g lane : Nat) : State :=
  let dir := dirTo h
  let x := grp s dir g
  let t := now s h
  let hits := ((mget x.hits lane []) ++ [t]).filter (fun u => decide (t < u + secNs))
  let s := setGrp s dir g { x with hits := mput x.hits lane hits [] }
  if hits.length < fget s F.BRG_CFG_ERASE_THR then s
  else
    let y := { x with hits := mput x.hits lane [] [] }
    match x.erase with
    | none => bookGroup (brgEv (setGrp s dir g { y with erase := some lane }) h 0x0801 [(g, 7), (lane, 7)]) dir g
    | some _ => brgRetrain (bookGroup (brgEv (setGrp s dir g { y with st := 3 }) h 0x0802 [(g, 7)]) dir g) 3

/-- The content of flit `m` as half `h` decodes it, if it can. -/
def brgRead (s : State) (h : Half) (r : BrgRec) (m : Nat) (f : Line) (err : Damage) : State × Option Line :=
  let g := flitGroup r m
  let era := ((grp s (dirTo h) g).erase).toList
  match decodeBlock 4 era err with
  | .clean x => (s, some (f ^^^ x))
  | .corrected x =>
    let y := grp s (dirTo h) g
    let s := setGrp s (dirTo h) g { y with corr := satAdd y.corr 1 16 }
    let ls := (corrections (syndromes err) era).filter (fun c => c.2 != 0 && !era.contains c.1)
    (ls.foldl (fun s c => brgCorr s h g c.1) s, some (f ^^^ x))
  | .uncorrectable => (s, none)

/-- Whether KIND and CLASS go together (R422). -/
def kindOk (kind cls : Nat) : Bool :=
  if kind = 0 then cls == 0 || cls == 2 || cls == 3
  else if kind = 1 then cls == 1 || cls == 3
  else if kind ≤ 3 then decide (cls ≤ 3)
  else decide (kind ≤ 7) && cls == 4

/-- The kind of credits that the packet whose head flit has number `m` uses, as its sender recorded it. Log entry 82 (DEDUCED). -/
def brgPooled (s : State) (h : Half) (m c : Nat) : State × Nat :=
  let x := btx s h.other
  if x.pooled.contains m then (setBtx s h.other { x with pooled := x.pooled.erase m }, 5) else (s, c)

/-- Return credits of a kind. -/
def brgFree (s : State) (h : Half) (c n : Nat) : State :=
  let x := brx s h
  setBrx s h { x with freed := mput x.freed c ((mget x.freed c 0 + n) % 2 ^ 32) 0 }

/-- Flits dropped (R422). -/
def brgDrop (s : State) (h : Half) : State := emitLim (fcount s F.BRG_ERRORS_DROPS 0 1) h unitBrg 0x080A h.num ms [(h.num, 1)]

/-- Flit `m` accepted in order by half `h`. -/
def brgTake (s : State) (h : Half) (m : Nat) (f : Line) : State :=
  let s := fset s (if h = .down then F.BRG_FLITS_UD_COUNT else F.BRG_FLITS_DU_COUNT) 0
    (fget s (if h = .down then F.BRG_FLITS_UD_COUNT else F.BRG_FLITS_DU_COUNT) + 1)
  let x := brx s h
  let v := f.toNat
  if 0 < x.drop then setBrx (fcount s F.BRG_ERRORS_DROPS 0 1) h { x with drop := x.drop - 1 }
  else
    match x.head with
    | some hd =>
      let data := x.data ++ [f]
      if data.length < bitsAt hd.toNat 5 7 then setBrx s h { x with data := data }
      else
        let s := setBrx { s with brg := { s.brg with arrived := s.brg.arrived ++ [(h, hd, data)] } } h { x with head := none, data := [] }
        brgFree s h x.kind (1 + data.length)
    | none =>
      let n := bitsAt v 5 7; let cls := bitsAt v 2 3
      let (s, kind) := brgPooled s h m cls
      if bitsAt v 0 2 = 0 then s
      else if bitsAt v 0 2 ≠ 2 ∨ 5 ≤ cls ∨ kindOk (bitsAt v 12 4) cls = false ∨ 64 < n then
        let s := brgDrop (setBrx s h { x with drop := n }) h
        if kind ≤ 5 then brgFree s h kind (1 + n) else s
      else if n = 0 then brgFree { s with brg := { s.brg with arrived := s.brg.arrived ++ [(h, f, [])] } } h kind 1
      else setBrx s h { x with head := some f, kind := kind, data := [] }

/-- Flits arriving at half `h` from number `seq` on (R421, R425). -/
def brgFlits (h : Half) : List (Line × Damage) → Nat → State → State
  | [], _, s => s
  | f :: fs, m, s =>
    match brec s h with
    | none => s
    | some r =>
      if !fbit s F.BRG_STATUS_UP || (brx s h).discard || m ≠ (brx s h).exp then
        if seqNewer (brx s h).exp m then brgFlits h fs (seqNext m) s else s
      else
        match brgRead s h r m f.1 f.2 with
        | (s, none) => send (setBrx s h { brx s h with discard := true }) (.bridge h (brgControls s h true false m))
        | (s, some v) => brgFlits h fs (seqNext m) (brgTake (setBrx s h { brx s h with exp := seqNext m }) h m v)

/-- Replay from flit `seq` on (R425). -/
def brgReplay (s : State) (h : Half) (seq : Nat) : State :=
  let x := btx s h
  let n := x.replays + 1
  let s := fcount (setBtx s h { x with replays := n }) F.BRG_ERRORS_REPLAYS 0 1
  if 8 ≤ n then brgRetrain s 2
  else
    let fl := x.unacked.filter (fun f => f.1 == seq || seqNewer f.1 seq)
    send s (.bridge h (brgControls s h false true seq ++ fl.map (·.2)))

/-- A control flit taken by half `h` (R423 to R425). -/
def brgControlIn (s : State) (h : Half) (f : Line) : State :=
  let v := f.toNat
  if bitsAt v 0 8 ≠ 0xC5 ∨ bitsAt v 10 6 ≠ 0 ∨ bitsAt v 23 9 ≠ 0 ∨ bitsAt v 320 192 ≠ 0 ∨ bitsAt v 32 32 ≠ fget s F.BRG_EPOCH_TEPOCH
    ∨ fbit s F.BRG_STATUS_UP = false then s
  else
    let x := btx s h
    let ack := bitsAt v 64 32
    let gone := x.unacked.any (fun u => u.1 == ack)
    let keep := if gone then x.unacked.filter (fun u => seqNewer u.1 ack) else x.unacked
    let fr := (List.range 6).foldl (fun m c => mput m c (min (mget x.used c 0) (healCount (mget m c 0) (bitsAt v (128 + 32 * c) 32) (2 ^ 32))) 0) x.freed
    let s := setBtx s h { x with unacked := keep, replays := if gone then 0 else x.replays, freed := fr }
    let s := if bitAt v 9 && !seqNewer (bitsAt v 96 32) (brx s h).exp then setBrx s h { brx s h with discard := false } else s
    let s := if bitAt v 8 then brgReplay s h (bitsAt v 96 32) else s
    brgPump s h

/-- A flit unacknowledged for 1 µs (R425). -/
def brgTimeout (s : State) (h : Half) : State :=
  match (btx s h).unacked with
  | [] => s
  | u :: _ => if fbit s F.BRG_STATUS_UP then brgReplay s h u.1 else s

/-! ## Partial resets (R431 to R434) -/

/-- Registers and cores of a half. -/
def presetFld (h : Half) : Fld := match h with | .up => F.MOD_STATUS_UP_PRESET | .down => F.MOD_STATUS_DOWN_PRESET
def readyFld (h : Half) : Fld := match h with | .up => F.MOD_STATUS_UP_READY | .down => F.MOD_STATUS_DOWN_READY

/-- The application cores of a half restart with no job. -/
def appRestart (s : State) (h : Half) : State :=
  let mine := fun (c : Nat) => c / 8 == h.num
  { s with app := { s.app with
    aperture := s.app.aperture.filter (fun e => !mine (e.1 / 64)), job := s.app.job.filter (fun e => !mine e.1),
    status := s.app.status.filter (fun e => !mine e.1), lines := s.app.lines.filter (fun l => !mine l.core) } }

/-- A half enters partial reset. -/
def presetBegin (s : State) (h : Half) (cause : Nat) : State :=
  let s := fset (fset s (presetFld h) 0 1) (readyFld h) 0 0
  let s := brgEv s h 0x0804 [(cause, 3)]
  let open_ := ((List.range 64).filter (fun k => fbit s F.WIN_JOB_BOUND k)).map (fun k => (k, fget s F.STM_STEP_STEP k))
  let s := { s with brg := { s.brg with noReady := open_ } }
  let s := shnCancel s (fun c => c.half == h)
  let s := ((s.tiles.map (·.1)).filter (fun t => tileHalf t == h)).foldl tileAbortAll s
  let s := { appRestart s h with shn := { s.shn with arrived := s.shn.arrived.filter (fun a => a.half != h) } }
  let s := setBrec s h none
  brgStart { s with brg := { s.brg with refused := 0 } } 4

/-- A partial reset is requested or starts by itself (R402, R432). Log entry 87 (DEDUCED). -/
def presetRequest (s : State) (h : Half) (cause : Nat) : State :=
  if inPreset s h then s
  else if inPreset s h.other then
    if 3 ≤ cause then deviceFault s
    else if s.brg.waiting.contains (h, cause) then s else { s with brg := { s.brg with waiting := s.brg.waiting ++ [(h, cause)] } }
  else if cause ≤ 2 ∧ fbit s F.ILK_STATUS_CHANGE = true then
    if s.brg.held.any (fun x => x.1 == h) then s
    else ilkEv { s with brg := { s.brg with held := s.brg.held ++ [(h, cause)] } } 0x0710 none []
  else presetBegin s h cause

/-- The half's ports. -/
def halfPorts (h : Half) : List Nat := (List.range 16).map (16 * h.num + ·)

/-- A half is back, once the bridge has trained (R433). -/
def presetReturn (s : State) (h : Half) : State :=
  if !inPreset s h || !fbit s F.BRG_STATUS_UP || s.brg.clkLost then s
  else
    let s := brgEv (fset (fset s (presetFld h) 0 0) (readyFld h) 0 1) h 0x0805 []
    let s := (halfPorts h).foldl (fun s p => if fbit s F.FAB_PORT_STATUS_LINK p then releaseHold s p else s) s
    match s.brg.waiting with
    | [] => s
    | w :: ws => presetRequest { s with brg := { s.brg with waiting := ws } } w.1 w.2

/-- 200 µs have passed and the half is not ready (R433, R368). -/
def presetLate (s : State) (h : Half) : State :=
  if !inPreset s h then s
  else
    let s := deviceFault (brgEv s h.other 0x0807 [])
    (halfPorts h).foldl (fun s p => if fbit s F.FAB_PORT_STATUS_LINK p then linkLost s p else s) s

/-- The district change ends: held partial resets proceed (R402). -/
def changeEnd (s : State) : State :=
  if s.ilk.prop.isSome || s.ilk.deliver.isSome then s
  else
    let s := fset (fset s F.ILK_STATUS_CHANGE 0 0) F.ILK_STATUS_CHAIR 0 0
    s.brg.held.foldl (fun s x => presetRequest s x.1 x.2) { s with brg := { s.brg with held := [] } }

/-! ## Loss of the clock (R435) -/

/-- A heartbeat to every box at once, by the units that `planes` names (R376, R435). -/
def alarmBeat (s : State) (planes : List Nat) : State :=
  let n := (s.ilk.hbseq + 1) % 2 ^ 32
  let s := { s with ilk := { s.ilk with hbseq := n } }
  let r := ilkRec s 1 0 (n * 2 ^ 96 + fget s F.ILK_INST_INST * 2 ^ 128 + lastEp s * 2 ^ 160)
  (((boxList s).filter (· != deviceId s % 64)).map (memberDev s)).foldl (fun s d => planeSend s planes d r) s

/-- A training ends with the clock that it needs. -/
def brgStop (s : State) : State :=
  fset (brgHold { s with brg := { s.brg with train := none } }) F.BRG_STATUS_TRAINING 0 0

/-- The down half loses the shared clock. -/
def clockLoss (s : State) : State :=
  let s := fset (fset { s with brg := { s.brg with clkLost := true } } F.MOD_STATUS_CLK_LOSS 0 1) F.MOD_STATUS_DEV_FAULT 0 1
  let s := asDown (splitUnits (brgStop s)) (alarmBeat · [1])
  let s := announcing s (fun s => (halfPorts .down).foldl serialiserStop s)
  deviceFault (brgEv s .down 0x0809 [])

/-- The crystal fails: both halves' clocked domains stop. -/
def crystalLoss (s : State) : State :=
  let s := fset { s with brg := { s.brg with crystal := true } } F.MOD_STATUS_DEV_FAULT 0 1
  let s := bothUnits (splitUnits (brgStop s)) (alarmBeat · [0, 1])
  let s := announcing s (fun s => (List.range 32).foldl serialiserStop s)
  deviceFault (brgEv s .up 0x0809 [])

end Sys2Proof.Machine
end

