-- ==== Sys2Proof/Machine/Power.lean ====
section
/-!
DEFINITION. Budgets between the halves (R436 to R439), adaptive voltage and margins (R440 to R442), the thermal model, bands and
limits (R443 to R447).
-/

namespace Sys2Proof.Machine

/-! ## Budgets -/

def pwrGet (s : State) (h : Half) : PwrHalf := mget s.pwr.half h.num {}
def pwrSet (s : State) (h : Half) (x : PwrHalf) : State := { s with pwr := { s.pwr with half := mput s.pwr.half h.num x {} } }
def blkGet (s : State) (b : Nat) : PwrBlk := mget s.pwr.blk b {}
def blkSet (s : State) (b : Nat) (x : PwrBlk) : State := { s with pwr := { s.pwr with blk := mput s.pwr.blk b x {} } }
def elGet (s : State) (e : Nat) : ThmElem := mget s.pwr.elem e {}
def elSet (s : State) (e : Nat) (x : ThmElem) : State := { s with pwr := { s.pwr with elem := mput s.pwr.elem e x {} } }

/-- The package budget in 0.1 W (R436). -/
def budget (s : State) : Nat :=
  10 * (match fget s F.MODE_STATE_POWER with
    | 0 => 1300
    | 1 => fget s F.PWR_CFG_CAP_W
    | _ => fget s F.PWR_CFG_QUIET_W)

/-- The grants of the up and the down half (R438). -/
def grants (du dd b : Nat) : Nat × Nat :=
  let gu := if du + dd ≤ b then du + (b - du - dd) / 2 else if du ≤ b / 2 then du else if dd ≤ b / 2 then b - dd else b / 2
  (gu, b - gu)

/-- Put a grant in force. -/
def setGrant (s : State) (h : Half) (g : Nat) (fallback : Bool) : State :=
  let s := pwrSet s h { pwrGet s h with grant := g }
  fsetb (fset s F.PWR_STATUS_GRANT h.num (g / 10)) F.PWR_STATUS_FALLBACK h.num fallback

/-- Blocks of a half. -/
def halfBlocks (h : Half) : List Nat := (List.range 32).map (32 * h.num + ·)

/-- POWER_MESSAGE_TIMER (R437): a period begins; the requested power mode comes into force; the message goes out. -/
def powerTimer (s : State) (h : Half) (meas pkg input : Nat) (below : Bool) : State :=
  let want := fget s F.MODE_CFG_POWER
  let s := if want ≠ fget s F.MODE_STATE_POWER ∧ inPreset s .up = false ∧ inPreset s .down = false then
      emit (fset s F.MODE_STATE_POWER 0 want) .up unitMode 0x0D03 [(want, 2)]
    else s
  let b := budget s
  let demand := min b (if below then meas * 5 / 4 else meas)
  let m : PwrMsg := { period := now s h / 100000 % 2 ^ 32, budget := b, demand := demand }
  let thr := (pwrGet s h).thr || fbit s F.PWR_STATUS_THROTTLE h.num
  let s := pwrSet s h { pwrGet s h with own := some m, thr := false }
  let s := fset (fset s F.PWR_MEAS_MEAS h.num (meas / 10)) F.PWR_MEAS_DEMAND h.num (demand / 10)
  let s := fset (fset s F.PWR_DEVICE_PKG 0 pkg) F.PWR_DEVICE_INPUT 0 input
  let body := m.period + fget s F.MODE_STATE_POWER * 2 ^ 32 + b % 65536 * 2 ^ 48 + meas % 65536 * 2 ^ 64 + demand % 65536 * 2 ^ 80
    + fget s F.PWR_STATUS_HOTBAND h.num * 2 ^ 96 + (if thr then 2 ^ 99 else 0)
  brgSend s h 4 [brgHead 4 0 6 0 0 body]

/-- A power message reaches half `h`. A message with a reserved bit or MODE 3 is not taken. Log entry 92 (DEDUCED). -/
def powerMessage (s : State) (h : Half) (m : BitVec 448) : State :=
  let v := m.toNat
  if bitsAt v 32 2 = 3 ∨ bitsAt v 34 14 ≠ 0 ∨ v / 2 ^ 100 ≠ 0 then s
  else pwrSet s h { pwrGet s h with peer := some ⟨bitsAt v 0 32, bitsAt v 48 16, bitsAt v 80 16⟩ }

/-- GRANT_EFFECT (R438). -/
def grantEffect (s : State) (h : Half) : State :=
  let x := pwrGet s h
  match x.own with
  | none => s
  | some o =>
    match x.peer.bind (fun p => guardOpt (p.period == o.period) p) with
    | some p =>
      let b := min o.budget p.budget
      let g := match h with | .up => (grants o.demand p.demand b).1 | .down => (grants p.demand o.demand b).2
      setGrant s h g false
    | none =>
      let s := setGrant s h (o.budget / 2) true
      emitLim (fcount s F.PWR_EXCH_MISSED h.num 1) h unitPwr 0x0904 h.num ms [(h.num, 1)]

/-- SLOW_CONTROL_TICK (R439): `mean` power of the last 10 µs in 0.1 W. -/
def slowControl (s : State) (h : Half) (mean : Nat) : State :=
  if fbit s F.PWR_STATUS_FAST h.num then s
  else
    let g := (pwrGet s h).grant
    let t := fget s F.PWR_STATUS_TARGET h.num
    if g < mean then fset s F.PWR_STATUS_TARGET h.num (if t ≤ 80 then t else max 80 (t - 5))
    else if mean * 100 < 95 * g then fset s F.PWR_STATUS_TARGET h.num (if fget s F.PWR_CFG_RATE ≤ t then t else min (fget s F.PWR_CFG_RATE) (t + 5))
    else s

/-- `PWR_CFG.RATE` has changed from `old`: each half's target is the new rate less the cuts in force, which end at 0.80 × 10^9
(R439, R440). Log entry 145 (DEDUCED). -/
def rateWritten (old : Nat) (s : State) : State :=
  [0, 1].foldl (fun s h =>
    let t := fget s F.PWR_STATUS_TARGET h
    if t = 0 then s else fset s F.PWR_STATUS_TARGET h (max (min t 80) (fget s F.PWR_CFG_RATE + t - old))) s

/-- FAST_TRIP (R439). Log entry 145 (DEDUCED). -/
def fastTrip (s : State) (h : Half) : State :=
  if fbit s F.PWR_STATUS_FAST h.num then s
  else
    let s := fset (fset s F.PWR_STATUS_FAST h.num 1) F.PWR_STATUS_TARGET h.num (fget s F.PWR_STATUS_TARGET h.num * 3 / 4)
    let s := (halfBlocks h).foldl (fun s b => let x := blkGet s b; blkSet s b { x with limit := x.limit.map (· * 3 / 4) }) s
    emitLim (fcount s F.PWR_EXCH_TRIPS h.num 1) h unitPwr 0x0903 h.num ms [(h.num, 1)]

/-! ## Adaptive voltage and margins -/

/-- The half of a block. -/
def blkHalf (b : Nat) : Half := Half.ofNum (b / 32)

/-- A block's target in 0.01 × 10^9 waves/s (R440, R446). -/
def blkTarget (s : State) (b : Nat) : Nat :=
  let t := fget s F.PWR_STATUS_TARGET (b / 32)
  match (blkGet s b).limit with
  | some l => min l t
  | none => t

/-- ADAPTIVE_LOOP_TICK (R440, R442): waves completed in 1 µs, and the slack in per cent. -/
def adaptive1 (s : State) (b waves slack : Nat) : State :=
  let h := blkHalf b
  let x := blkGet s b
  let want := 10 * blkTarget s b
  let v := if waves < want then min 9000 (x.volt + 25) else if want < waves then x.volt - 25 else x.volt
  let v := max 5500 v
  let lost := decide (waves < want) && x.volt == 9000
  let t := now s h
  let hist := (x.hist ++ [(t, if lost then 0 else (9000 - v) / 10, slack)]).filter (fun e => decide (t < e.1 + ms))
  let s := blkSet s b { x with volt := v, hist := hist }
  let s := fset (fset s F.THM_BLK_VOLT b (v / 10)) F.THM_BLK_RATE b (min 255 (waves / 10))
  let s := fset s F.THM_BLK_HEAD b (min 255 (hist.foldl (fun m e => min m e.2.1) 350))
  let s := fset s F.THM_BLK_SLACK b (hist.foldl (fun m e => min m e.2.2) 255)
  let s := if lost then emitLim s h unitPwr 0x0909 b secNs [(h.num, 1), (b, 6)] else s
  if fget s F.ILK_MARGIN_SLACK ≤ slack then s
  else
    let band := fget s F.THM_BLK_BAND b
    let x := blkGet s b
    let n := mget x.delay band 0 + 1
    let s := blkSet s b { x with delay := mput x.delay band n 0 }
    let s := emit s h unitPwr 0x0908 [(h.num, 1), (b, 6), (band, 3)]
    bookDaily s 0x22 (5 * b + band) (5 * b + band) [(b, 6), (band, 3), (n, 16)]

/-- The margin alarms of the health word (R404), and event 0x0709 where they changed. Log entry 91 (DEDUCED). -/
def marginEval (s : State) : State :=
  let bs := s.pwr.blk.filter (fun e => !e.2.hist.isEmpty)
  let v := bs.any (fun e => decide (fget s F.THM_BLK_HEAD e.1 < fget s F.ILK_MARGIN_VHEAD))
  let t := bs.any (fun e => decide (fget s F.THM_BLK_SLACK e.1 < fget s F.ILK_MARGIN_SLACK))
  let o := (List.range 34).any (fun p => fbit s F.PORT_STATUS_UP p && (maskLanes (fget s F.PORT_LANES_RX_LIVE p)).any (fun n =>
      (fget s (rxPwr n) p != 0x8000 && decide (sext (fget s (rxPwr n) p) 16 < warnLevel p)))) ||
    s.opt.marks.any (fun m => decide (m.laser % 24 < 16) && !undFree s m.laser)
  let a := (if v then 1 else 0) + (if t then 2 else 0) + (if o then 4 else 0)
  if a = s.ilk.alarms then s
  else ilkEv { s with ilk := { s.ilk with alarms := a } } 0x0709 none [(a, 3)]

/-! ## Heat -/

/-- The lower edges of bands T1 to T4, and the limits, in °C (R441, R446). -/
def bandEdges : List Rat := [45, 65, 85, 95]

/-- The band after an estimate, from the band in force (R445). -/
def bandAfter (est hyst : Rat) (old : Nat) : Nat :=
  let up := (bandEdges.filter (fun e => decide (e ≤ est))).length
  let stay := (bandEdges.filter (fun e => decide (e - hyst ≤ est))).length
  max up (min old stay)

/-- Whether an estimate lies within 5 °C of a band edge or a limit (R444). -/
def nearEdge (est : Rat) : Bool := (bandEdges ++ [105, 110]).any (fun g => decide (g - 5 ≤ est) && decide (est ≤ g + 5))

/-- An estimate in 0.1 °C, as a register shows it. Log entry 94 (DESIGN CHOICE). -/
def deci (e : Rat) : Nat := min 4095 (e * 10).floor.toNat

/-- Registers of an element: temperature, band. -/
def elTemp (e : Nat) : Fld × Nat :=
  if e % 34 < 32 then (F.THM_BLK_TEMP, 32 * (e / 34) + e % 34) else if e % 34 = 32 then (F.THM_CHIP_TEMP0, e / 34) else (F.THM_CHIP_TEMP1, e / 34)
def elBand (e : Nat) : Fld × Nat :=
  if e % 34 < 32 then (F.THM_BLK_BAND, 32 * (e / 34) + e % 34) else if e % 34 = 32 then (F.THM_CHIP_BAND0, e / 34) else (F.THM_CHIP_BAND1, e / 34)

/-- Thermal shutdown (R446). Log entry 93 (DEDUCED). -/
def thermalShutdown (s : State) (h : Half) : State :=
  emit (railsOff (deviceFault s) true) h unitPwr 0x0907 [(h.num, 1)]

/-- One step of an element (R443): `p` in W, `dt` in s, all nodes from the values before. Log entry 88 (DESIGN CHOICE). -/
def elStep (s : State) (e : Nat) (x : ThmElem) (p tin dt : Rat) : ThmElem :=
  let x := if x.live then x else { x with live := true, tj := tin, ts := tin }
  let lat := ((Config.neighbours e).map (fun n => let y := elGet s n; if y.live then (x.tj - y.tj) / x.rlat else 0)).foldl (· + ·) 0
  { x with
    tj := x.tj + dt / x.cj * (p - (x.tj - x.ts) / x.rjs - lat),
    ts := x.ts + dt / x.cs * ((x.tj - x.ts) / x.rjs - (x.ts - tin) / x.rsc) }

/-- A heater setting after feed-forward (R447): lowered by the gain times the rise, raised for a fall, within its range. Log entry 89
(DESIGN CHOICE). -/
def feedForward (set gain : Nat) (rise : Int) : Nat := (max 0 (min 65535 ((set : Int) - gain * rise))).toNat

/-- What an element's new estimate sets: registers, band, fast updates, block limits, heater feed-forward (R444 to R447). -/
def elApply (s : State) (e : Nat) : State :=
  let h := Half.ofNum (e / 34)
  let x := elGet s e
  let est := x.tj + x.off + (if fbit s F.THM_CAL_GUARD h.num then 5 else 0)
  let s := elSet s e { x with est := est }
  let s := fset s (elTemp e).1 (elTemp e).2 (deci est)
  let old := fget s (elBand e).1 (elBand e).2
  let new := bandAfter est ((fget s F.THM_CFG_HYST : Rat) / 2) old
  let s := if new = old then s
    else emitLim (fset s (elBand e).1 (elBand e).2 new) h unitPwr 0x0901 e (10 * ms) [(h.num, 1), (e % 34, 6), (old, 3), (new, 3)]
  if e % 34 < 32 then
    let b := 32 * (e / 34) + e % 34
    let s := fsetb s F.THM_BLK_FASTUPD b (nearEdge est)
    if 105 ≤ est then
      let s := blkSet s b { blkGet s b with limit := some 80 }
      emitLim (fset s F.PWR_STATUS_THROTTLE h.num 1) h unitPwr 0x0902 b ms [(h.num, 1), (b, 6)]
    else s
  else
    let d := (deci est : Int) - (deci x.est : Int)
    let c := 2 * h.num + e % 34 - 32
    { s with opt := { s.opt with heater := (chipRings c).foldl (fun m k => mput m k (feedForward (mget m k 0) (Config.ringGain k) d) 0) s.opt.heater } }

/-- The band of a half's hottest block. -/
def hottest (s : State) (h : Half) : Nat := (halfBlocks h).foldl (fun m b => max m (fget s F.THM_BLK_BAND b)) 0

/-- The hottest block's band governs the depot (R445). -/
def hotBand (s : State) (h : Half) : State :=
  let b := hottest s h
  depBand (fset s F.PWR_STATUS_HOTBAND h.num b) h b

/-- THERMAL_MODEL_UPDATE (R443, R444): the elements that are due, with their mean power in 0.1 W. Log entry 88 (DESIGN CHOICE). -/
def thermalUpdate (s : State) (h : Half) (fast : Bool) (tin tout : Nat) (power : List (Nat × Nat)) : State :=
  let dt : Rat := if fast then 1 / 1000000 else 1 / 100000
  let due := (power.filter (fun p => decide (p.1 < 34))).filter (fun p =>
    (if p.1 < 32 then fbit s F.THM_BLK_FASTUPD (32 * h.num + p.1) else nearEdge (elGet s (34 * h.num + p.1)).est) == fast)
  let s := fset (fset s F.THM_COOLANT_INLET h.num tin) F.THM_COOLANT_OUTLET h.num tout
  let new := due.map (fun p => let e := 34 * h.num + p.1; (e, elStep s e (elGet s e) ((p.2 : Rat) / 10) ((tin : Rat) / 10) dt))
  let s := new.foldl (fun s x => elSet s x.1 x.2) s
  let s := hotBand (new.foldl (fun s x => elApply s x.1) s) h
  if new.any (fun x => decide (110 ≤ (elGet s x.1).est)) then thermalShutdown s h else s

/-- Whether a block of the half is limited (R446), which its period's power message tells (R437). -/
def showThrottle (s : State) (h : Half) : State :=
  let s := pwrSet s h { pwrGet s h with thr := (pwrGet s h).thr || fbit s F.PWR_STATUS_THROTTLE h.num }
  fsetb s F.PWR_STATUS_THROTTLE h.num ((halfBlocks h).any (fun b => (blkGet s b).limit.isSome))

/-- T4_THROTTLE_STEP (R446). -/
def t4Step (s : State) (b : Nat) : State :=
  let h := blkHalf b
  let x := blkGet s b
  if fget s F.THM_BLK_BAND b = 4 then
    let l := blkTarget s b
    let s := blkSet s b { x with limit := some (if l ≤ 80 then l else max 80 (l - 5)) }
    emitLim (showThrottle s h) h unitPwr 0x0902 b ms [(h.num, 1), (b, 6)]
  else
    match x.limit with
    | none => s
    | some l => showThrottle (blkSet s b { x with limit := if fget s F.PWR_CFG_RATE ≤ l + 5 then none else some (l + 5) }) h

/-- CALIBRATION (R444): the offsets that the diodes and the outlet sensor give, in 0.1 °C, and the highest diode reading. -/
def calibrate (s : State) (h : Half) (offs : List (Nat × Int)) (diode : Nat) : State :=
  let last := mget s.pwr.calAt h.num 0
  if 1100 ≤ diode then thermalShutdown s h
  else if last ≠ 0 ∧ now s h + 1 < last + 10 * secNs then s
  else
    let s := { s with pwr := { s.pwr with calAt := mput s.pwr.calAt h.num (now s h + 1) 0 } }
    let offs := offs.filter (fun o => decide (o.1 < 34))
    let moved := offs.foldl (fun m o => max m ((o.2 : Rat) / 10 - (elGet s (34 * h.num + o.1)).off).abs) 0
    let s := offs.foldl (fun s o => let e := 34 * h.num + o.1; elSet s e { elGet s e with off := (o.2 : Rat) / 10 }) s
    let s := fset s F.THM_CAL_SHIFT h.num (min 255 (deci moved))
    let s := fcount s F.THM_CAL_COUNT h.num 1
    let s := if 5 < moved then emit s h unitPwr 0x0905 [(h.num, 1)] else fset s F.THM_CAL_GUARD h.num 0
    if 10 < moved then emit (fset s F.THM_CAL_GUARD h.num 1) h unitPwr 0x0906 [(h.num, 1)] else s

/-- Whether every estimate lies below 85 °C (R446). -/
def cool (s : State) : Bool :=
  (List.range 64).all (fun b => decide (fget s F.THM_BLK_TEMP b < 850)) &&
    [0, 1].all (fun h => decide (fget s F.THM_CHIP_TEMP0 h < 850) && decide (fget s F.THM_CHIP_TEMP1 h < 850))

/-- Power at start: every half at B / 2 and the requested rate (R438, R440). -/
def powerStart (s : State) : State :=
  [Half.up, .down].foldl (fun s h =>
    fset (setGrant s h (budget s / 2) false) F.PWR_STATUS_TARGET h.num (fget s F.PWR_CFG_RATE)) s

end Sys2Proof.Machine
end

