-- ==== Sys2Proof/Machine/Module.lean ====
section
/-!
DEFINITION. The module management controller (R453 to R473): standby, presence and hot swap, power, coolant, indicators, and
the I3C target's common commands.
-/

namespace Sys2Proof.Machine

/-- The input reaches 36 V (R453, R491): the controller starts, its registers reset, the device is Cold. Log entry 13 (DEDUCED). -/
def standbyUp (s : State) : State :=
  let t := coreOff s false
  let t := { t with regs := [], mmc := {}, logw := { t.logw with queue := [] } }
  showInd (fset t F.MODE_STATE_STATE 0 dsCold)

/-- A module request refused (R493). -/
def modRefused (s : State) : State := emitLim s .up unitMod 0x0A0F 0 ms []

/-- The conditions of R458 but for the request to close. Log entry 95 (DEDUCED). -/
def mayClose (s : State) : Bool :=
  fbit s F.MOD_MSTATUS_PRESENT && fbit s F.MOD_MSTATUS_SLOT_OK && fbit s F.MOD_MSTATUS_INPUT_OK &&
    decide (120 ≤ fget s F.MOD_COOLANT_FLOW)

/-- The hot-swap switch closes (R458). -/
def closeSwitch (s : State) : State :=
  if fbit s F.MOD_MSTATUS_HS_ON then s
  else
    let s := fset (fset s F.MOD_MSTATUS_HS_ON 0 1) F.MOD_MSTATUS_DRAINED 0 0
    let s := { s with mmc := {} }
    emit (showInd s) .up unitMod 0x0A03 [(fget s F.MOD_MSTATUS_SLOT, 6)]

/-- The controller reads its inputs: slot pins with parity, AUTO_ON, input voltage in 0.1 V, flow in 0.01 L/min. -/
def readInputs (s : State) (slot : Nat) (auto : Bool) (vin flow : Nat) : State :=
  let s := fset (fset s F.MOD_MSTATUS_SLOT 0 (slot % 64)) F.MOD_MSTATUS_AUTO 0 (if auto then 1 else 0)
  let s := fsetb s F.MOD_MSTATUS_SLOT_OK 0 (popcount slot 7 % 2 == 0)
  let s := fsetb s F.MOD_MSTATUS_INPUT_OK 0 (decide (400 ≤ vin) && decide (vin ≤ 600))
  fset (fset s F.MOD_INPUT_VIN 0 vin) F.MOD_COOLANT_FLOW 0 flow

/-- Both presence contacts have read low for 20 ms (R457, R458). Log entry 96 (DESIGN CHOICE). -/
def presenceDebounced (s : State) (slot : Nat) (auto : Bool) (vin flow : Nat) : State :=
  let cycle := !fbit s F.MOD_MSTATUS_PRESENT
  let s := fset (fset (fset s F.MOD_MSTATUS_PRES_A 0 1) F.MOD_MSTATUS_PRES_B 0 1) F.MOD_MSTATUS_PRESENT 0 1
  let s := readInputs s slot auto vin flow
  let s := if cycle then fset s F.MOD_MSTATUS_HS_FAULT 0 0 else s
  if !fbit s F.MOD_MSTATUS_SLOT_OK then emit s .up unitMod 0x0A05 []
  else if mayClose s && auto && fget s F.MOD_MSTATUS_HS_FAULT == 0 then closeSwitch s
  else s

/-- The switch opens: the core loses its power. -/
def openSwitch (s : State) : State :=
  let s := fset s F.MOD_MSTATUS_HS_ON 0 0
  showInd (if devState s = dsCold then coreOff s false else railsOff s false)

/-- A presence contact reads high (R459). -/
def contactBreak (s : State) (b : Bool) : State :=
  let s := fset s (if b then F.MOD_MSTATUS_PRES_B else F.MOD_MSTATUS_PRES_A) 0 0
  let s := fset s F.MOD_MSTATUS_PRESENT 0 0
  if fbit s F.MOD_MSTATUS_HS_ON then openSwitch s else s

/-- A trip opens the switch and is latched (R454): cause 1 undervoltage, 2 overvoltage, 3 overcurrent, 4 coolant flow. -/
def hotSwapFault (s : State) (cause : Nat) : State :=
  if !fbit s F.MOD_MSTATUS_HS_ON then s
  else emit (openSwitch (fset s F.MOD_MSTATUS_HS_FAULT 0 cause)) .up unitMod 0x0A04 [(cause, 3)]

/-- POWER_ON (R458). Log entry 95 (DEDUCED). -/
def modPowerOn (s : State) : State :=
  if mayClose s then closeSwitch (fset s F.MOD_MSTATUS_HS_FAULT 0 0) else modRefused s

/-- POWER_OFF (R492): refused unless drained, or in Cold or Start. -/
def modPowerOff (s : State) : State :=
  if s.drain.isSome || !(fbit s F.MOD_MSTATUS_DRAINED || devState s == dsCold || devState s == dsStart) then modRefused s
  else if !fbit s F.MOD_MSTATUS_HS_ON then s
  else openSwitch (if devState s = dsCold then s else bookFlush (bookStop s 1))

/-- RESET (R446, R492, R534). Log entry 95 (DEDUCED). -/
def modReset (s : State) : State :=
  if s.drain.isSome || !fbit s F.MOD_MSTATUS_HS_ON || !cool s then modRefused s
  else
    let cold := decide (devState s = dsCold)
    let s := coreOff (if cold then s else bookFlush (bookStop s 2)) false
    let s := { s with mmc := { s.mmc with resetting := true, cut := false } }
    if cold then s else modeTo s dsStart 8

/-- The rails come on again 100 ms after a reset. -/
def resetRailsOn (s : State) : State := { s with mmc := { s.mmc with resetting := false } }

/-- LOCATE (R470). -/
def modLocate (s : State) (on : Bool) : State := showInd (fsetb s F.MOD_CTL_LOCATE 0 on)

/-- A coolant warning (R463). -/
def coolantWarning (s : State) (hot low : Bool) : State :=
  let s := if hot then fset s F.MOD_COOLANT_HOT_INLET 0 1 else s
  let s := if low then fset s F.MOD_COOLANT_LOW_FLOW 0 1 else s
  if hot || low then emitLim s .up unitMod 0x0A09 0 (10000 * ms) [] else s

/-- A flow below 0.9 L/min for 100 ms (R463). -/
def flowFault (s : State) (flow : Nat) : State :=
  let s := fset s F.MOD_COOLANT_FLOW 0 flow
  if 90 ≤ flow || !fbit s F.MOD_MSTATUS_HS_ON then s
  else
    let s := railsOff (deviceFault s) true
    emit { s with mmc := { s.mmc with flowCut := true } } .up unitMod 0x0A0A []

/-- One second later the switch opens. Log entry 93 (DEDUCED). -/
def flowSwitch (s : State) : State :=
  if s.mmc.flowCut then { hotSwapFault s 4 with mmc := {} } else s

/-! ## I3C addressing (R471) -/

/-- The dynamic address is assigned by ENTDAA or, from the static address 0x3A, by SETDASA: only where none is held. Log entry 97 (DEDUCED). -/
def i3cAssign (s : State) (a : Nat) : State := if fget s F.MOD_I3C_DA = 0 then fset s F.MOD_I3C_DA 0 a else s

/-- STANDBY_POWER_UP (R453). -/
def execStandbyPowerUp (s : State) : Res := .next (standbyUp s)

/-- PRESENCE_DEBOUNCED (R457, R458). -/
def execPresenceDebounced (slot : BitVec 7) (autoOn : Bool) (vin : BitVec 10) (flow : BitVec 12) (s : State) : Res :=
  .next (presenceDebounced s slot.toNat autoOn vin.toNat flow.toNat)

/-- PRESENCE_CONTACT_BREAK (R459). -/
def execPresenceContactBreak (b : Bool) (s : State) : Res := .next (contactBreak s b)

/-- HOT_SWAP_FAULT (R454). -/
def execHotSwapFault (cause : Fin 3) (s : State) : Res := .next (hotSwapFault s (cause.val + 1))

/-- MOD_POWER_ON (R458). -/
def execModPowerOn (s : State) : Res := .next (modPowerOn s)

/-- MOD_POWER_OFF (R492). -/
def execModPowerOff (s : State) : Res := .next (modPowerOff s)

/-- MOD_RESET (R492). -/
def execModReset (s : State) : Res := .next (modReset s)

/-- RESET_RAILS_ON (R492). -/
def execResetRailsOn (s : State) : Res := .next (resetRailsOn s)

/-- MOD_LOCATE (R470). -/
def execModLocate (on : Bool) (s : State) : Res := .next (modLocate s on)

/-- COOLANT_WARNING (R463). -/
def execCoolantWarning (hot low : Bool) (s : State) : Res := .next (coolantWarning s hot low)

/-- COOLANT_FLOW_FAULT (R463). -/
def execCoolantFlowFault (flow : BitVec 12) (s : State) : Res := .next (flowFault s flow.toNat)

/-- FLOW_FAULT_SWITCH_OPEN (R463). -/
def execFlowFaultSwitchOpen (s : State) : Res := .next (flowSwitch s)

/-- ENTDAA (R471): the module, holding no dynamic address, gives its provisioned ID, BCR and DCR and takes the address. The
characteristics registers' values are open. -/
def execEntdaa (addr : BitVec 7) (s : State) : Res :=
  if fget s F.MOD_I3C_DA ≠ 0 then .next s
  else .next (i3cAssign (send s (.i3c [Config.provisionedId, Config.i3cBcr, Config.i3cDcr])) addr.toNat)

/-- SETDASA to the static address (R471). Log entry 97 (DEDUCED). -/
def execSetdasa (addr : BitVec 7) (s : State) : Res := .next (i3cAssign s addr.toNat)

/-- SETNEWDA to the address held (R471). Log entry 97 (DEDUCED). -/
def execSetnewda (addr : BitVec 7) (s : State) : Res :=
  .next (if fget s F.MOD_I3C_DA = 0 then s else fset s F.MOD_I3C_DA 0 addr.toNat)

/-- RSTDAA (R471). -/
def execRstdaa (s : State) : Res := .next (fset s F.MOD_I3C_DA 0 0)

/-- ENEC for in-band interrupts (R471). -/
def execEnec (s : State) : Res := .next (fset s F.MOD_I3C_IBI 0 1)

/-- DISEC for in-band interrupts (R471). -/
def execDisec (s : State) : Res := .next (fset s F.MOD_I3C_IBI 0 0)

/-- GETPID (R471). -/
def execGetpid (s : State) : Res := .next (send s (.i3c [Config.provisionedId]))

/-- GETBCR (R471): the value is open. -/
def execGetbcr (s : State) : Res := .next (send s (.i3c [Config.i3cBcr]))

/-- GETDCR (R471): the value is open. -/
def execGetdcr (s : State) : Res := .next (send s (.i3c [Config.i3cDcr]))

/-- GETSTATUS (R471): the value is open. Log entry 9 (DESIGN CHOICE). -/
def execGetstatus (s : State) : Res :=
  let f := fresh s
  .next (send f.2 (.i3c [f.1 % 65536]))

/-- GETMWL (R471): a write is an address and 4 data bytes (R472). Log entry 98 (DESIGN CHOICE). -/
def execGetmwl (s : State) : Res := .next (send s (.i3c [8]))

/-- GETMRL (R471): a read is 4 bytes (R472). Log entry 98 (DESIGN CHOICE). -/
def execGetmrl (s : State) : Res := .next (send s (.i3c [4]))

end Sys2Proof.Machine
end

