-- ==== Sys2Proof/Machine/Security.lean ====
section
/-!
DEFINITION. The security core (R499 to R513): staged objects, updates, owner keys, live load and attestation.
-/

namespace Sys2Proof.Machine

/-- A refused security register write (R526). -/
def secRefused (s : State) : State := emitLim s .up unitSec 0x0B0C 0 ms []

/-- An operation ends at once with a result other than OK (R530). -/
def secResult (s : State) (op r : Nat) : State :=
  emit (fset (fset s F.SEC_UPD_STATUS_OP 0 op) F.SEC_UPD_STATUS_RESULT 0 r) .up unitSec 0x0B09 [(r, 4)]

/-- Where the staged object lies, and its bytes (R527). -/
def stageBase (s : State) : Nat := fget s F.SEC_STAGE_ADDR * 64
def stageLen (s : State) : Nat := fget s F.SEC_STAGE_LINES * 64

/-- The staged object is read line by line (R156, R162, R169): its bytes, where every line can be read. Log entry 151 (DESIGN
CHOICE). -/
def stageRead (s : State) : State × Option (Nat → Nat) :=
  let b := stageBase s; let n := stageLen s
  if n = 0 ∨ depotSize < b + n then (s, none)
  else
    let r := (List.range (fget s F.SEC_STAGE_LINES)).foldl
      (fun (a : State × Bool) i => let x := unitRead a.1 (b / 64 + i); (x.1, a.2 && x.2.isSome)) (s, true)
    (r.1, guardOpt r.2 (fun a => (mget r.1.dep.mem (b + a) 0).toNat))

/-- The bytes of a reader as flash contents. -/
def flashMem (rd : Nat → Nat) (n : Nat) : Mem := (List.range n).foldl (fun m a => mput m a (BitVec.ofNat 8 (rd a)) 0) []

/-! ## Banks (R511) and configuration slots (R506, R508) -/

/-- The bank that is not active. -/
def otherBank (s : State) : Nat := 1 - s.flash.active % 2

/-- A second operation 1 or 4 while one is in progress (R513, R526). -/
def secBusy (s : State) : State := emit (secRefused s) .up unitSec 0x0B09 [(fget s F.SEC_UPD_STATUS_RESULT, 4)]

/-- SEC_CTL operation 1: verify the staged bank image and begin to write it. Log entries 127 (DEDUCED), 128 (DEDUCED). -/
def secBank (s : State) : State :=
  if fbit s F.SEC_UPD_STATUS_BUSY then secBusy s
  else if !lysOn s 5 then secResult s 1 5
  else if fget s F.SEC_BOOT_STAGE ≠ 5 then secResult s 1 6
  else
    match stageRead s with
    | (s, none) => secResult s 1 1
    | (s, some rd) =>
      match verifyBank rd (stageLen s) s.flash.ctr0 with
      | .error r => secResult s 1 r
      | .ok _ =>
        let b := otherBank s
        let s := fset (fset (fset s F.SEC_UPD_STATUS_BUSY 0 1) F.SEC_UPD_STATUS_OP 0 1) F.SEC_UPD_STATUS_RESULT 0 0
        { setBank s b [] with sec := { s.sec with write := some (b, flashMem rd (stageLen s)) } }

/-- The bank is written, read back and verified again, or was not. -/
def updateDone (s : State) (ok : Bool) : State :=
  match s.sec.write with
  | none => s
  | some (b, m) =>
    let s := fset { s with sec := { s.sec with write := none } } F.SEC_UPD_STATUS_BUSY 0 0
    if !ok then secResult s 1 4
    else
      let s := setBank s b m
      match flashBank s b with
      | .error _ => secResult s 1 4
      | .ok _ => writeDir s (fun f => { f with pend := some b, tries := 0 })

/-- The size of a configuration slot. -/
def cfgSize : Nat := 0x100000

/-- A configuration image (R506): its header and body, or why it is refused: 1 signature or digest, 2 below the floor, 3 form. -/
def cfgImage (s : State) (rd : Nat → Nat) (limit : Nat) : Except Nat (List Nat × List Nat) :=
  let h := bytesFrom rd 0 256
  let n := 16 * leAt h 12 4 + 2 * leAt h 16 2
  if leAt h 0 4 ≠ 0x48553243 ∨ zerosAt h 9 3 = false ∨ zerosAt h 18 46 = false ∨ zerosAt h 160 96 = false
    ∨ 16384 < leAt h 12 4 ∨ 1024 < leAt h 16 2 ∨ limit < 256 + n then .error 3
  else
    let body := bytesFrom rd 256 n
    let key := mget s.sec.keys (leAt h 8 1) 0
    if sha256 body ≠ (h.drop 64).take 32 then .error 1
    else if !s.sec.keys.isEmpty && (key == 0 || !ecdsaOk (leBytes key 64) (h.take 96) ((h.drop 96).take 64)) then .error 1
    else if leAt h 4 4 < s.flash.ctr1 then .error 2
    else .ok (h, body)

/-- SEC_CTL operation 2: write the configuration slot not applied at this start. Log entries 127 (DEDUCED), 128 (DEDUCED). -/
def secConfig (s : State) : State :=
  if fbit s F.SEC_UPD_STATUS_BUSY then secRefused s
  else if fget s F.SEC_BOOT_STAGE ≠ 5 then secResult s 2 6
  else
    match stageRead s with
    | (s, none) => secResult s 2 1
    | (s, some rd) =>
      match cfgImage s rd (min cfgSize (stageLen s)) with
      | .error r => secResult s 2 (if r = 3 then 1 else r)
      | .ok (_, body) =>
        let m := flashMem rd (256 + body.length)
        let f := if fbit s F.SEC_BOOT_CFG_SLOT then { s.flash with cfg0 := m } else { s.flash with cfg1 := m }
        fset (fset { s with flash := f } F.SEC_UPD_STATUS_OP 0 2) F.SEC_UPD_STATUS_RESULT 0 0

/-! ## Owner keys (R508) -/

/-- Show which owner slots are enrolled. -/
def showOwners (s : State) : State :=
  fsetb (fset s F.SEC_OWNERS_SLOTS 0 ((s.sec.keys.map (fun k => 2 ^ k.1)).sum)) F.SEC_BOOT_UNOWNED 0 s.sec.keys.isEmpty

/-- The key that authorises a record: a release key of the bank that runs, or an enrolled owner key. -/
def enrolKey (s : State) (auth signer : Nat) : Option (List Nat) :=
  if auth = 0 then (manifest (memRd (bankMem s (fget s F.SEC_BOOT_BANK))) bankSize).bind (fun m => releaseKey m signer)
  else guardOpt (mget s.sec.keys signer 0 != 0) (leBytes (mget s.sec.keys signer 0) 64)

/-- Why an enrolment record is refused: 1 another device, 2 signature, 3 empty slot, 4 the last owner key, 5 form. Log entry 127 (DEDUCED). -/
def enrolBad (s : State) (r : List Nat) : Option Nat :=
  let op := leAt r 4 1; let slot := leAt r 5 1; let auth := leAt r 6 1; let signer := leAt r 7 1
  if leAt r 0 4 ≠ 0x4855324B ∨ op = 0 ∨ 3 ≤ op ∨ 4 ≤ slot ∨ 2 ≤ auth ∨ 4 ≤ signer ∨ zerosAt r 104 32 = false
    ∨ (op = 2 ∧ zerosAt r 40 64 = false) then some 5
  else if ofBe ((r.drop 8).take 32) ≠ Config.identityHash then some 1
  else
    match enrolKey s auth signer with
    | none => some (if auth = 1 then 3 else 2)
    | some k =>
      if !ecdsaOk k (r.take 136) ((r.drop 136).take 64) then some 2
      else if op = 2 ∧ auth = 1 ∧ s.sec.keys.map (·.1) = [slot] then some 4
      else none

/-- An enrolment record refused, with its cause. -/
def enrolRefuse (s : State) (c : Nat) : State :=
  emit (fset (fset s F.SEC_UPD_STATUS_OP 0 3) F.SEC_UPD_STATUS_RESULT 0 (if c = 4 then 6 else 1)) .up unitSec 0x0B0A [(c, 4)]

/-- SEC_CTL operation 3: the staged enrolment record. Log entry 127 (DEDUCED). -/
def secEnrol (s : State) : State :=
  if fbit s F.SEC_UPD_STATUS_BUSY then secRefused s
  else
    match stageRead s with
    | (s, none) => enrolRefuse s 5
    | (s, some rd) =>
      let r := bytesFrom rd 0 200
      match enrolBad s r with
      | some c => enrolRefuse s c
      | none =>
        let slot := leAt r 5 1
        let key := if leAt r 4 1 = 1 then ofLe ((r.drop 40).take 64) else 0
        let s := showOwners { s with sec := { s.sec with keys := mput s.sec.keys slot key 0 } }
        let s := bookCompact (bookSeal s 0x14 slot [(slot, 2), (key, 512)])
        let s := fset (fset s F.SEC_UPD_STATUS_OP 0 3) F.SEC_UPD_STATUS_RESULT 0 0
        emit s .up unitSec 0x0B0A [(0, 4)]

/-! ## Live load (R512, R513) -/

/-- The image type of core n in the order of R512, and its half. -/
def coreType (n : Nat) : Nat := if n < 64 then 4 else if n < 80 then 5 else if n < 82 then 3 else if n < 84 then 2 else 1
def coreHalf (n : Nat) : Half :=
  if n < 64 then Half.ofNum (n / 32) else if n < 80 then Half.ofNum ((n - 64) / 8) else if n < 84 then (if n % 2 = 0 then .down else .up) else .up

/-- The image of type t that the most cores run. -/
def mainImage (s : State) (t : Nat) : Option Image :=
  let is := ((List.range 85).filter (fun n => coreType n == t)).filterMap (fun n => (s.sec.cores.find? (fun c => c.1 == n)).map (·.2))
  is.foldl (fun (b : Option Image) i => match b with
    | none => some i
    | some j => if (is.filter (· == j)).length < (is.filter (· == i)).length then some i else some j) none

/-- `SEC_FW` shows, for each type, the image that the most cores run. -/
def showFw (s : State) : State :=
  [1, 2, 3, 4, 5].foldl (fun s t => match mainImage s t with
    | some i => fset (fset s F.SEC_FW_SVN (t - 1) i.svn) F.SEC_FW_BUILD (t - 1) i.build
    | none => s) s

/-- SEC_CTL operation 4. Log entry 127 (DEDUCED). -/
def secLive (s : State) : State :=
  if fbit s F.SEC_UPD_STATUS_BUSY then secBusy s
  else if !lysOn s 5 then secResult s 4 5
  else if devState s ≠ dsService then secResult s 4 3
  else
    match s.flash.pend with
    | none => secResult s 4 6
    | some b =>
      match flashBank s b with
      | .error r => secResult s 4 r
      | .ok is =>
        if is.all (fun i => match s.sec.runs.find? (fun r => r.typ == i.typ) with
            | some r => decide (i.handMin ≤ r.hand)
            | none => false) then
          let s := fset (fset (fset s F.SEC_UPD_STATUS_BUSY 0 1) F.SEC_UPD_STATUS_OP 0 4) F.SEC_UPD_STATUS_RESULT 0 0
          fset { s with sec := { s.sec with load := some is } } F.SEC_UPD_STATUS_PROGRESS 0 0
        else secResult s 4 3

/-- A core's reload ends; the load stops with result 4 where the core did not start. It waits for a half in partial reset, and a
device fault leaves the pending bank to the next start (R513). -/
def coreDone (s : State) (ok : Bool) : State :=
  match s.sec.load with
  | none => s
  | some is =>
    let n := fget s F.SEC_UPD_STATUS_PROGRESS
    if inPreset s (coreHalf n) || fbit s F.MOD_STATUS_DEV_FAULT then s
    else
      match is.find? (fun i => i.typ == coreType n) with
      | none => s
      | some i =>
        if !ok then secResult (fset { s with sec := { s.sec with load := none } } F.SEC_UPD_STATUS_BUSY 0 0) 4 4
        else
          let cs := s.sec.cores.map (fun c => if c.1 = n then (n, i) else c)
          let s := showFw { s with sec := { s.sec with cores := cs } }
          let s := emit (fset s F.SEC_UPD_STATUS_PROGRESS 0 (n + 1)) .up unitSec 0x0B08 [(n, 7), (i.svn, 16)]
          if n + 1 < 85 then s
          else
            let s := fset { s with sec := { s.sec with load := none, runs := is } } F.SEC_UPD_STATUS_BUSY 0 0
            let s := writeDir s (fun f => { f with active := f.pend.getD f.active, pend := none, tries := 0 })
            raiseCtr s 0 (is.foldl (fun m x => min m x.svn) i.svn)

/-! ## Attestation (R510) -/

/-- `SEC_ATT.GO`: the nonce is taken; one whose line cannot be read is an open value. Log entries 9 (DESIGN CHOICE), 151 (DESIGN
CHOICE). -/
def secAttest (s : State) : State :=
  let a := fget s F.SEC_ATT_ADDR * 64
  if fbit s F.SEC_ATT_BUSY || decide (depotSize < a + 392) then secRefused s
  else
    let r := unitRead s (a / 64)
    let f : Nat × State := match r.2 with
      | some l => (lb l 0 256, r.1)
      | none => let f := fresh r.1; (f.1 % 2 ^ 256, f.2)
    fset { f.2 with sec := { f.2.sec with nonce := f.1 } } F.SEC_ATT_BUSY 0 1

/-- The report's signed bytes. -/
def attBody (s : State) : List Nat :=
  leBytes 1 4 ++ leBytes (deviceId s) 2 ++ [devState s, 0] ++ leBytes s.sec.nonce 32 ++ beBytes Config.identityHash 32
    ++ leBytes s.flash.ctr0 4 ++ leBytes s.flash.ctr1 4 ++ leBytes s.flash.ctr2 4 ++ leBytes 0 4
    ++ [1, 2, 3, 4, 5].flatMap (fun t => leBytes (((mainImage s t).map (·.digest)).getD 0) 32)
    ++ leBytes s.sec.cfgDig 32
    ++ sha256 ((List.range 4).flatMap (fun k => leBytes (mget s.sec.keys k 0) 64))
    ++ leBytes (fget s F.LOG_BOOK_SEQ) 4 ++ leBytes s.flash.ctr2 4 ++ leBytes (poweredSec s) 4 ++ leBytes 0 4

/-- The report is written through its home slices; its signature is an open value. The security core waits while it is itself reloaded. Log entries 9 (DESIGN CHOICE), 129 (DESIGN CHOICE). -/
def attestDone (s : State) : State :=
  if !fbit s F.SEC_ATT_BUSY then s
  else
    let a := fget s F.SEC_ATT_ADDR * 64
    let f := fresh s
    let v := ofLe (attBody s) + f.1 % 2 ^ 512 * 2 ^ (8 * 328)
    let s := (List.range 7).foldl (fun s i => unitStore s (a + 64 * i) (v / 2 ^ (512 * i) % 2 ^ 512) (min 64 (392 - 64 * i))) f.2
    emitLim (fset s F.SEC_ATT_BUSY 0 0) .up unitSec 0x0B0B 0 ms []

end Sys2Proof.Machine
end

