-- ==== Sys2Proof/Machine/Boot.lean ====
section
/-!
DEFINITION. The start of one module (R410, R502 to R508, R521): bank, logbook, configuration image, depot training and zero
fill, self-test.
-/

namespace Sys2Proof.Machine

/-! ## Values out of range (R14) -/

/-- The event of a register write or a configuration value out of range, under its own limit (R14). -/
def rangeEvent (s : State) (r : Reg) (i : Nat) : State :=
  let n := r.ctorIdx
  let among := fun (a b : Reg) => decide (a.ctorIdx ≤ n) && decide (n ≤ b.ctorIdx)
  if among .DEP_STATUS .DEP_CH_CORR || among .DEP_SHN_STATUS .DEP_SHN_LAST_ERR then
    emitLim s (Half.ofNum i) unitDep 0x020B (i % 2) ms []
  else if among .WIN_CFG .WIN_LAST_REFUSAL then emitLim s .up unitFab 0x0304 0 ms []
  else if among .CUE_CFG .STM_LATE then
    emitLim s (if r = .CUE_JOB ∨ among .STM_CFG .STM_LATE then slotHalf i else .up) unitCue 0x040D 0 ms
      [(if r = .CUE_JOB ∨ among .STM_CFG .STM_LATE then slotJob s i else 0, 12)]
  else if among .LAS_CFG .LAS_LASER then emitLim s (chipHalf i) unitOpt 0x0510 0 ms [(i, 2)]
  else if among .PORT_CFG .LAS_LASER then emitLim s (portHalf i) unitOpt 0x0510 0 ms [(i, 6)]
  else if among .FAB_CFG .FAB_PORT_QUEUE then emitLim s .up unitRoute 0x060A 0 ms []
  else if among .ILK_CFG .ILK_SPORT_TX then ilkRefused s
  else if among .BRG_CFG .BRG_FLITS_DU then emitLim s .up unitBrg 0x080B 0 ms [(0, 1)]
  else if among .PWR_CFG .THM_BLK then emitLim s .up unitPwr 0x090A 0 ms [(0, 1)]
  else if among .SEC_BOOT .SEC_RCV_CTL then secRefused s
  else if among .LOG_STATUS .LOG_BOOK_BUDGET then emitLim s .up unitSec 0x0C05 0 ms []
  else if among .MODE_STATE .MODE_ARB then modeRange s
  else modRefused s

/-! ## The configuration image (R507) -/

/-- Fields that a settings entry sets, by register. -/
def cfgFields : Reg → List Fld
  | .DEP_CFG => [F.DEP_CFG_ERASE_THR, F.DEP_CFG_SCRUB_H, F.DEP_CFG_QWAYS, F.DEP_CFG_STRICT]
  | .WIN_CFG => [F.WIN_CFG_RETX, F.WIN_CFG_TIMEOUT]
  | .WIN_GW_CFG => [F.WIN_GW_CFG_GATEWAY, F.WIN_GW_CFG_NGW, F.WIN_GW_CFG_DELAY]
  | .WIN_GW_LIST => [F.WIN_GW_LIST_GW0, F.WIN_GW_LIST_GW1, F.WIN_GW_LIST_GW2, F.WIN_GW_LIST_GW3]
  | .CUE_CFG => [F.CUE_CFG_CLOSE_TO]
  | .CUE_STORE_BASE => [F.CUE_STORE_BASE_ADDR]
  | .CUE_MBOX_BASE => [F.CUE_MBOX_BASE_ADDR]
  | .DEP_SHN_QBASE => [F.DEP_SHN_QBASE_ADDR]
  | .PORT_CFG => [F.PORT_CFG_ENABLE, F.PORT_CFG_MODE, F.PORT_CFG_REHEARSE, F.PORT_CFG_MIN_WIDTH, F.PORT_CFG_FIBRE_DEF]
  | .LAS_CFG => [F.LAS_CFG_AUTO, F.LAS_CFG_DEFER]
  | .FAB_CFG => [F.FAB_CFG_ADAPT, F.FAB_CFG_FWD, F.FAB_CFG_LINK_RTO, F.FAB_CFG_THR_HI, F.FAB_CFG_THR_LO]
  | .FAB_ARB => [F.FAB_ARB_WREQ, F.FAB_ARB_WCOLL, F.FAB_ARB_WBULK]
  | .FAB_CREDIT => [F.FAB_CREDIT_DED]
  | .ILK_DISTRICT => [F.ILK_DISTRICT_DISTRICT, F.ILK_DISTRICT_NEXP]
  | .BRG_CFG => [F.BRG_CFG_ERASE_THR]
  | .MOD_CFG => [F.MOD_CFG_DRAIN_WAIT]
  | .LYS_CFG => [F.LYS_CFG_RECALL_US]
  | .LOG_RING_BASE => [F.LOG_RING_BASE_ADDR]
  | .LOG_TRACE_BASE => [F.LOG_TRACE_BASE_ADDR, F.LOG_TRACE_BASE_SIZE]
  | .SEC_FW_AREA => [F.SEC_FW_AREA_ADDR]
  | .MODE_CFG => [F.MODE_CFG_POWER, F.MODE_CFG_TRACE]
  | .FAB_FIBRE_EXP => Reg.FAB_FIBRE_EXP.fields.filter (·.acc == .rw)
  | .FAB_ROUTE_MEMBER => Reg.FAB_ROUTE_MEMBER.fields.filter (·.acc == .rw)
  | .FAB_ROUTE_DIST => Reg.FAB_ROUTE_DIST.fields.filter (·.acc == .rw)
  | .FAB_PORT_CFG => Reg.FAB_PORT_CFG.fields.filter (·.acc == .rw)
  | .ILK_CFG => Reg.ILK_CFG.fields.filter (·.acc == .rw)
  | .ILK_CKPT => Reg.ILK_CKPT.fields.filter (·.acc == .rw)
  | .ILK_MARGIN => Reg.ILK_MARGIN.fields.filter (·.acc == .rw)
  | .PWR_CFG => Reg.PWR_CFG.fields.filter (·.acc == .rw)
  | .THM_CFG => Reg.THM_CFG.fields.filter (·.acc == .rw)
  | .LOG_RETIRE_CFG => Reg.LOG_RETIRE_CFG.fields.filter (·.acc == .rw)
  | _ => []

/-- The ranges of fields that only the configuration image sets; the others' stand in their field maps. Log entries 133 (DEDUCED), 149 (DESIGN CHOICE). -/
def cfgRange (f : Fld) : Nat × Nat :=
  if f = F.DEP_CFG_QWAYS then (1, 4) else if f = F.WIN_GW_CFG_NGW then (0, 4) else if f = F.ILK_DISTRICT_DISTRICT then (0, 255)
  else if f = F.ILK_DISTRICT_NEXP then (1, 64) else if f = F.LOG_TRACE_BASE_SIZE then (1, 256) else (f.vmin, f.vmax)

/-- The largest value of a field of register `i`: MIN_WIDTH of a signal port is 0 or 1 (R326). -/
def cfgMax (f : Fld) (i : Nat) : Nat := if f = F.PORT_CFG_MIN_WIDTH ∧ isSig i then 1 else (cfgRange f).2

/-- Set one field from a settings entry, or its default where the value is out of range (R14). -/
def cfgField (i v : Nat) (s : State) (f : Fld) : State :=
  let x := bitsAt v f.lo f.width
  if (cfgRange f).1 ≤ x ∧ x ≤ cfgMax f i then fset s f i x else rangeEvent (fset s f i (f.reset i)) f.reg i

/-- The registers that a configuration image sets. -/
def cfgRegs : List Reg :=
  [.DEP_CFG, .WIN_CFG, .WIN_GW_CFG, .WIN_GW_LIST, .CUE_CFG, .CUE_STORE_BASE, .CUE_MBOX_BASE, .DEP_SHN_QBASE, .PORT_CFG, .LAS_CFG,
    .FAB_CFG, .FAB_ARB, .FAB_CREDIT, .ILK_DISTRICT, .BRG_CFG, .MOD_CFG, .LYS_CFG, .LOG_RING_BASE, .LOG_TRACE_BASE, .SEC_FW_AREA,
    .MODE_CFG, .FAB_FIBRE_EXP, .FAB_ROUTE_MEMBER, .FAB_ROUTE_DIST, .FAB_PORT_CFG, .ILK_CFG, .ILK_CKPT, .ILK_MARGIN, .PWR_CFG, .THM_CFG,
    .LOG_RETIRE_CFG]

/-- Every field that a configuration image sets takes its default (R14); the image's entries then set what they name. -/
def cfgDefaults (s : State) : State :=
  let mine := (cfgRegs.flatMap cfgFields).map (fun f => f.reg.ctorIdx * 64 + f.lo)
  { s with regs := s.regs.filter (fun e => !mine.contains (e.1 / 65536)) }

/-- Apply one settings entry. Log entry 149 (DESIGN CHOICE). -/
def cfgEntry (s : State) (e : List Nat) : State :=
  let v := ofLe e
  let addr := bitsAt v 0 32; let w := bitsAt v 32 32
  let refuse := emitLim s .up unitSec 0x0B06 0 ms [(addr, 32)]
  match regAt addr with
  | some (r, i, 0) =>
    let fs := cfgFields r
    if fs.isEmpty ∨ w ≠ (if r.wide then 1 else 0) then refuse else fs.foldl (cfgField i (bitsAt v 64 64)) s
  | _ => refuse

/-- `DEP_CFG.QWAYS` fixes the space of every port's queues (R355, R371): (QWAYS × 8 MiB − 4 MiB) / 32, in flits. Log entry 149
(DESIGN CHOICE). -/
def queueSpace (s : State) : State := fset s F.FAB_CREDIT_SPACE 0 (4096 * fget s F.DEP_CFG_QWAYS - 2048)

/-- Apply every entry in order; THR_LO is judged against THR_HI last. Log entry 149 (DESIGN CHOICE). -/
def cfgApply (s : State) (nset : Nat) (body : List Nat) : State :=
  let s := queueSpace <| (List.range nset).foldl (fun s n => cfgEntry s ((body.drop (16 * n)).take 16)) s
  if fget s F.FAB_CFG_THR_LO < fget s F.FAB_CFG_THR_HI then s
  else rangeEvent (fset s F.FAB_CFG_THR_LO 0 (F.FAB_CFG_THR_LO.reset 0)) .FAB_CFG 0

/-- The hall's gateway list by district (R413, R506). -/
def hallList (ids : List Nat) : NMap (List Nat) :=
  ids.foldl (fun m d => mput m (districtOf d) (mget m (districtOf d) [] ++ [d]) []) []

/-- Judge a configuration slot; an image that does not hold is logged with its cause (0x0B05). Log entry 133 (DEDUCED). -/
def cfgSlot (s : State) (k : Nat) : State × Option (List Nat × List Nat) :=
  let m := if k = 0 then s.flash.cfg0 else s.flash.cfg1
  if m.isEmpty then (s, none)
  else
    match cfgImage s (memRd m) cfgSize with
    | .ok x => (s, some x)
    | .error c => (emit s .up unitSec 0x0B05 [(k, 1), (c, 2)], none)

/-- Choose and apply the configuration image (R507, R508); none where an owned device has no image. -/
def cfgStart (s : State) : Option State :=
  let a := cfgSlot s 0
  let b := cfgSlot a.1 1
  let s := fsetb b.1 F.SEC_BOOT_UNOWNED 0 b.1.sec.keys.isEmpty
  let pick := match a.2, b.2 with
    | some x, some y => if leAt x.1 4 4 < leAt y.1 4 4 then some (1, y) else some (0, x)
    | some x, none => some (0, x)
    | none, some y => some (1, y)
    | none, none => none
  let s := cfgDefaults s
  match pick with
  | none => if s.sec.keys.isEmpty then some (fset s F.SEC_BOOT_CFG_DEFAULT 0 1) else none
  | some (k, h, body) =>
    let n := leAt h 12 4; let g := leAt h 16 2
    let s := cfgApply (fset s F.SEC_BOOT_CFG_SLOT 0 k) n body
    let ids := (List.range g).map (fun i => leAt body (16 * n + 2 * i) 2)
    some { s with
      sec := { s.sec with cfgDig := leAt h 64 32, cfgVer := leAt h 4 4 }
      fab := { s.fab with hallGw := hallList ids } }

/-! ## The bank (R502) -/

/-- The bank a start uses, with its images: a pending bank on its first or second try, else the active one, else the other. -/
def pickBank (s : State) : State × Option (Nat × List Image) :=
  let active := fun (s : State) =>
    match flashBank s s.flash.active, flashBank s (otherBank s) with
    | .ok is, _ => (s, some (s.flash.active % 2, is))
    | .error _, .ok is => (writeDir s (fun f => { f with active := otherBank s }), some (otherBank s, is))
    | .error _, .error _ => (s, none)
  match s.flash.pend with
  | none => active s
  | some b =>
    let drop := fun (s : State) => emit (writeDir s (fun f => { f with pend := none, tries := 0 })) .up unitSec 0x0B02 []
    if 2 ≤ s.flash.tries then active (drop s)
    else
      let s := writeDir s (fun f => { f with tries := f.tries + 1 })
      match flashBank s b with
      | .ok is => (fset s F.SEC_BOOT_PENDING_TRY 0 1, some (b, is))
      | .error _ => active (drop s)

/-! ## The logbook at start (R519, R521, R524) -/

/-- Scan the journal: records with a bad seal are discarded, and so is a torn one at the head. Log entry 116 (DESIGN CHOICE). -/
def bookScan (s : State) (torn : Bool) (bad : List Nat) : State :=
  let n := s.flash.book.length
  let lost := (List.range n).filter (fun i => bad.contains i)
  let keep := (List.range n).filter (fun i => !bad.contains i)
  let s := { s with flash := { s.flash with book := keep.filterMap (fun i => s.flash.book[i]?) } }
  let s := lost.foldl (fun s _ => emit s .up unitSec 0x0C04 []) s
  let s := if torn then emit s .up unitSec 0x0C01 [] else s
  let s := fset s F.LOG_BOOK_SEQ 0 ((s.flash.book.getLast?.map (·.seq)).getD (2 ^ 32 - 1))
  bookAccount (fset s F.LOG_BOOK_STATE 0 1) 0

/-- The owner keys that the logbook holds. -/
def bookKeys (s : State) : NMap Nat :=
  (List.range 4).foldl (fun m k => match bookItem s 0x14 k with | some e => mput m k (e.arg 1) 0 | none => m) []

/-- The start record (R519): starts, resets, power cuts and drains. A last start without a clean stop was cut (R524). -/
def bookStart (s : State) : State :=
  let prev := bookItem s 0x15 0
  let after := match s.flash.book.reverse.findIdx? (fun e => e.typ == 0x15) with
    | some k => s.flash.book.reverse.take k
    | none => s.flash.book
  let stops := (after.filter (fun e => e.typ == 0x16)).map (·.arg 0)
  let cut := prev.isSome && stops.isEmpty
  let old := fun n => ((prev.map (·.arg n)).getD 0)
  let cuts := satAdd (old 2) (if cut then 1 else 0) 16
  let drains := satAdd (old 3) (stops.filter (· == 0)).length 16
  let s := fset (fset s F.MOD_HISTORY_CUTS 0 cuts) F.MOD_HISTORY_DRAINS 0 drains
  let s := if cut then emit s .up unitMod 0x0A11 [] else s
  bookA s 0x15 0 [(old 0 + 1, 32), (old 1 + (stops.filter (· == 2)).length, 32), (cuts, 16), (drains, 16)]

/-- What the logbook holds of tiles, lasers, expulsions, matched delays and bridge lanes comes back into force (R519). Log entry 70
(DEDUCED). -/
def bookRestore (s : State) : State :=
  let s := (List.range 64).foldl (fun s b => match bookItem s 0x12 b with
    | some e =>
      let s := fset (fset s F.BLK_RETIRED_MAP b (e.arg 1)) F.BLK_STATUS_RETIRED_CNT b (popcount (e.arg 1) 64)
      (List.range 4096).foldl (fun s t => let ti := tget s t
        tset s t { ti with retired := mput ti.retired b (BitVec.ofNat 64 (e.arg 1)) 0 }) s
    | none => s) s
  let s := (List.range 96).foldl (fun s i => match bookItem s 0x13 i with
    | some e =>
      let s := if 4 ≤ e.arg 2 then fset s F.LAS_LASER_STATE i (e.arg 2) else s
      let s := if 16 ≤ i % 24 ∧ (4 ≤ e.arg 2 ∨ e.arg 3 ≠ 0) then
          fset s F.LAS_STATUS_UND_FREE (i / 24) (setBit (fget s F.LAS_STATUS_UND_FREE (i / 24)) (lasWl i) false)
        else s
      { s with opt := { s.opt with serves := mput s.opt.serves i (e.arg 3) 0 } }
    | none => s) s
  let s := { s with ilk := { s.ilk with
    expelAt := (((s.flash.book.filter (fun e => e.typ == 0x17 && e.arg 2 == 1)).map (fun e => (e.arg 1, e.arg 3))).eraseDups).map (·.2) } }
  let s := (List.range 320).foldl (fun s k => match bookItem s 0x22 k with
    | some e =>
      let x := blkGet s (k / 5)
      blkSet s (k / 5) { x with delay := mput x.delay (k % 5) (e.arg 2) 0 }
    | none => s) s
  (List.range 136).foldl (fun s k => match bookItem s 0x11 k with
    | some e => setGrp s (k / 68) (k % 68) { grp s (k / 68) (k % 68) with
        erase := guardOpt (e.arg 1 != 0) (e.arg 1 - 1), st := if e.arg 2 = 1 then 3 else 0 }
    | none => s) s

/-! ## Depot training and zero fill (R158, R159) -/

/-- One channel trains: its spare map and erasure list come from the logbook, and vias that fail the test are added. -/
def trainChannel (s : State) (c : Nat) (vias : List Nat) : State :=
  let s := match bookItem s 0x10 c with
    | none => s
    | some e =>
      let s := (List.range 4).foldl (fun s n =>
        let s := fset (fset s (spareVia n) c (e.arg (1 + 4 * n))) (spareValid n) c (e.arg (2 + 4 * n))
        fset (fset s (eraseVia n) c (e.arg (3 + 4 * n))) (eraseValid n) c (e.arg (4 + 4 * n))) s
      let s := fset s F.DEP_CH_STATUS_SPARES_USED c ((List.range 4).filter (fun n => fbit s (spareValid n) c)).length
      fset s F.DEP_CH_STATUS_ERASED c ((List.range 4).filter (fun n => fbit s (eraseValid n) c)).length
  let known := fun (s : State) v => (List.range 4).any (fun n =>
    (fbit s (spareValid n) c && fget s (spareVia n) c == v) || (fbit s (eraseValid n) c && fget s (eraseVia n) c == v))
  let new := vias.filter (fun v => !known s v)
  let s := new.foldl (fun s v =>
    if known s v || fbit s F.DEP_CH_STATUS_FAILED c then s
    else if fget s F.DEP_CH_STATUS_SPARES_USED c < 4 then useSpare s c v
    else if fget s F.DEP_CH_STATUS_ERASED c < 4 then useErasure s c v
    else emit (fset (fset s F.DEP_CH_STATUS_FAILED c 1) F.DEP_STATUS_FAILED (c / 192) 1) (chanHalf c) unitDep 0x0205 (chanArgs c)) s
  let s := if new.isEmpty then s else bookChannel s c
  let s := if 0 < fget s F.DEP_CH_STATUS_ERASED c then fset s F.DEP_STATUS_DEGRADED (c / 192) 1 else s
  if fbit s F.DEP_CH_STATUS_FAILED c then s else fset s F.DEP_CH_STATUS_TRAINED c 1

/-- Every channel trains, then every line is written with zeros. -/
def depotStart (s : State) (vias : List (Fin 384 × List (Fin 72))) : State :=
  let s := { s with dep := {} }
  let s := (List.range 384).foldl (fun s c =>
    trainChannel s c ((vias.filter (fun v => v.1.val == c)).flatMap (fun v => v.2.map (·.val)))) s
  let s := [Half.up, .down].foldl (fun s h => bandAtTraining s h.num (hottest s h)) s
  [0, 1].foldl (fun s h => if fbit s F.DEP_STATUS_FAILED h then s else fset s F.DEP_STATUS_READY h 1) s

/-! ## The start -/

/-- Recovery (R503): only BOOT_RECOVERY is offered. Log entry 131 (DEDUCED). -/
def recovery (s : State) : State :=
  let s := fset (startFail s 4 unitSec) F.SEC_BOOT_STAGE 0 6
  emit (fset s F.LYS_FEAT_DEV_BITS 0 0x10) .up unitSec 0x0B03 []

/-- Identity, ports, power and modes as the configuration image leaves them. Log entries 80 (DESIGN CHOICE), 132 (DEDUCED). -/
def unitsStart (s : State) : State :=
  let s := fset s F.MOD_DEVICE_ID_ID 0 (fget s F.ILK_DISTRICT_DISTRICT * 64 + fget s F.MOD_MSTATUS_SLOT)
  let f := fresh s
  let s := fset f.2 F.ILK_INST_INST 0 f.1
  let s := (List.range 32).foldl (fun s p => fset s F.PORT_STEER_CUR p (fget s F.PORT_CFG_FIBRE_DEF p)) s
  let s := powerStart (fset s F.MODE_STATE_POWER 0 (fget s F.MODE_CFG_POWER))
  if traceBad s then emit (fset (fset s F.MODE_CFG_TRACE 0 0) F.MODE_STATE_TRACE 0 0) .up unitMode 0x0D05 []
  else fset s F.MODE_STATE_TRACE 0 (fget s F.MODE_CFG_TRACE)

/-- The start, up to the tests (R504). Log entries 132 (DEDUCED), 146 (DESIGN CHOICE). -/
def boot (s : State) (b : BootIn) : State :=
  let s := fset (fset s F.SEC_BOOT_STAGE 0 0) F.SEC_BOOT_FAIL 0 0
  if b.noFlash then startFail s 1 unitSec
  else if b.noCtr then startFail s 2 unitSec
  else if b.noPuf then startFail s 3 unitSec
  else
    let s := { s with flash := { s.flash with keyed := true } }
    let s := fset (fset (fset s F.SEC_CTR0_VALUE 0 s.flash.ctr0) F.SEC_CTR1_VALUE 0 s.flash.ctr1) F.SEC_CTR2_VALUE 0 s.flash.ctr2
    match pickBank s with
    | (s, none) => recovery s
    | (s, some (k, is)) =>
      let cores := (List.range 85).filterMap (fun n => (is.find? (fun i => i.typ == coreType n)).map (fun i => (n, i)))
      let s := showFw { fset (fset s F.SEC_BOOT_BANK 0 k) F.SEC_BOOT_STAGE 0 1 with sec := { s.sec with runs := is, cores := cores } }
      let s := bookScan (fset s F.SEC_BOOT_STAGE 0 2) b.torn (b.bad.map (·.toNat))
      let s := showOwners { s with sec := { s.sec with keys := bookKeys s } }
      match cfgStart s with
      | none => startFail s 5 unitSec
      | some s =>
        let s := bookStart (bookRestore (unitsStart (fset s F.SEC_BOOT_STAGE 0 3)))
        let s := depotStart s b.vias
        let s := { s with logw := { s.logw with ringOpen := true } }
        if fbit s F.DEP_STATUS_FAILED 0 || fbit s F.DEP_STATUS_FAILED 1 then startFail s 6 unitDep
        else
          match b.core with
          | some n => startFail s 8 n.val
          | none =>
            let s := fset (fset s F.CUE_STATUS_READY 0 1) F.DEP_SHN_STATUS_READY 0 1
            brgStart (fset s F.SEC_BOOT_STAGE 0 4) 5

/-- POWER_GOOD (R534): the core rails are good and the start begins. -/
def powerGood (s : State) (b : BootIn) : State :=
  if fbit s F.MOD_MSTATUS_PGOOD || !fbit s F.MOD_MSTATUS_HS_ON || s.mmc.resetting || s.mmc.cut then s
  else
    let s := fset s F.MOD_MSTATUS_PGOOD 0 1
    boot (if devState s = dsCold then modeTo s dsStart 1 else s) b

/-- The self-test is complete (R465, R504): tiles that failed are retired, both halves report ready. -/
def selfTestComplete (s : State) (failed : List Nat) : State :=
  if fget s F.SEC_BOOT_STAGE ≠ 4 || !fbit s F.BRG_STATUS_UP || !fbit s F.LYS_STATUS_FEAT_DONE || fbit s F.MOD_STATUS_DEV_FAULT then s
  else
    let s := failed.foldl thresholdCrossed s
    let s := fset (fset s F.MOD_STATUS_UP_READY 0 1) F.MOD_STATUS_DOWN_READY 0 1
    fset { s with ilk := { s.ilk with selfchk := true } } F.SEC_BOOT_STAGE 0 5

/-- Switch discovery ends (R410): forming heartbeats begin, and a device that expects no other proposes at once (R411). -/
def discoveryDone (s : State) : State :=
  if devState s ≠ dsStart || fget s F.SEC_BOOT_STAGE ≠ 5 || fbit s F.ILK_STATUS_FORMED then s
  else
    let s := { s with ilk := { s.ilk with forming := true } }
    if fget s F.ILK_DISTRICT_NEXP ≤ (heard s).length then formPropose s else s

/-- A recovery chunk (R503): it is programmed into bank A, and after the last one the bank is verified and the start runs. Log entry 131 (DEDUCED). -/
def recoveryChunk (s : State) (chunk : Nat) (last : Bool) (b : BootIn) : State :=
  if fget s F.SEC_BOOT_STAGE ≠ 6 then s
  else if 192 ≤ chunk ∨ lysOn s 4 = false then secRefused s
  else
    let s := fset (fsetb s F.SEC_RCV_CTL_LAST 0 last) F.SEC_RCV_CTL_CHUNK 0 chunk
    let m := (List.range 0x10000).foldl (fun m a => mput m (0x10000 * chunk + a) (mget s.sec.rcv a 0) 0) s.flash.bankA
    let s := setBank s 0 m
    if !last then s
    else
      match flashBank s 0 with
      | .error _ => emit s .up unitSec 0x0B03 []
      | .ok _ =>
        let s := writeDir s (fun f => { f with active := 0, pend := none, tries := 0 })
        boot (fset (lysDown (emit s .up unitSec 0x0B04 []) 1) F.LYS_FEAT_DEV_BITS 0 0x7F) b

/-- POWER_GOOD (R534). Log entry 2 (DESIGN CHOICE). -/
def execPowerGood (b : BootIn) (s : State) : Res := .next (powerGood s b)

/-- SELF_TEST_COMPLETE (R504). -/
def execSelfTestComplete (failed : List (BitVec 12)) (s : State) : Res := .next (selfTestComplete s (failed.map (·.toNat)))

/-- RECOVERY_CHUNK_GO (R503). Log entry 20 (DESIGN CHOICE). -/
def execRecoveryChunkGo (chunk : BitVec 8) (last : Bool) (b : BootIn) (s : State) : Res := .next (recoveryChunk s chunk.toNat last b)

/-- MODE_CTL_GO (R535). -/
def execModeCtlGo (target : BitVec 3) (s : State) : Res := .next (modeGo s target.toNat)

/-- MODE_CFG_WRITE (R541, R545). -/
def execModeCfgWrite (power : BitVec 2) (trace : Bool) (s : State) : Res := .next (modeCfg s power.toNat trace)

/-- MODE_REQUEST_COMPLETE (R535). -/
def execModeRequestComplete (s : State) : Res := .next (modeRequestComplete s)

end Sys2Proof.Machine
end

