-- ==== Sys2Proof/Machine/App.lean ====
section
/-!
DEFINITION. The application cores (R514, R515): local SRAM, the aperture, cached lines and the answers of global accesses.
-/

namespace Sys2Proof.Machine

/-- Where a 56-bit physical address leads. -/
inductive AppDst where
  | sram (a : Nat)
  | global (a : Nat)
  | fault
  deriving DecidableEq, Repr

/-- The device that an aperture entry names; 0xFFFF is this device. -/
def apertureDev (s : State) (core e : Nat) : Nat :=
  let d := mget s.app.aperture (64 * core + e) 0xFFFF
  if d = 0xFFFF then deviceId s else d

/-- R514's address map. -/
def appMap (s : State) (core pa : Nat) : AppDst :=
  if pa < 2 ^ 20 then .sram pa
  else if pa / 2 ^ 54 = 2 then .global (apertureDev s core (pa / 2 ^ 48 % 64) * 2 ^ 48 + pa % 2 ^ 48)
  else .fault

/-- The monitor's CSRs as the access finds them: job, and the aperture entry it goes through. Log entry 134 (DESIGN CHOICE). -/
def appCsrs (s : State) (core job dev pa : Nat) : State :=
  { s with app := { s.app with
    job := mput s.app.job core job 0
    aperture := if pa / 2 ^ 54 = 2 then mput s.app.aperture (64 * core + pa / 2 ^ 48 % 64) dev 0xFFFF else s.app.aperture } }

/-- The half of a core. -/
def appHalf (core : Nat) : Half := Half.ofNum (core / 8)

/-- An access fault. -/
def appFault (s : State) (core tag : Nat) : State := send s (.app core tag true 0)

/-- Whether a global address of a job lies in a window of this device that a core's cache may hold: R = 1, W = 0, A = 0. Log entries 9 (DESIGN CHOICE), 136 (DESIGN CHOICE). -/
def appCacheable (s : State) (job a : Nat) : Bool :=
  isOwn s (a / 2 ^ 48) &&
  (match jobSlot s job with
   | some k =>
     let i := 64 * k + a / 2 ^ 42 % 64
     fbit s F.WIN_PERM_VALID i && fbit s F.WIN_PERM_R i && !fbit s F.WIN_PERM_W i && !fbit s F.WIN_PERM_A i
   | none => false)

/-- The word at byte address `a` of a line. -/
def lineWord (l : Line) (a n : Nat) : Nat := bitsAt l.toNat (8 * (a % 64)) (8 * n)

/-- Who takes the answer: the row's tag, the width, the job and the address, in one number. -/
def appWho (core tag : Nat) (wide : Bool) (job a : Nat) : Who :=
  .app (core / 8) core (tag + (if wide then 2 ^ 16 else 0) + job * 2 ^ 17 + a * 2 ^ 29)

/-- A load from a global address. A line that the core's cache may hold is served from the cache, or read whole and kept, or
neither: which is open. -/
def appLoad (s : State) (core tag : Nat) (wide : Bool) (job a : Nat) : State :=
  let n := if wide then 8 else 4
  let ask := fun (s : State) => submit s { req0' with op := 1, fn := if wide then 1 else 0, job := job, addr := a } (appWho core tag wide job a)
  if !appCacheable s job a || a % n != 0 then ask s
  else
    let f := fresh s
    match f.2.app.lines.find? (fun l => l.core == core && l.job == job && l.line == a / 64) with
    | some l => if f.1 % 2 = 0 then send f.2 (.app core tag false (lineWord l.data a n)) else ask f.2
    | none =>
      if f.1 % 2 = 0 then
        let m := newMsg f.2
        let s := { m.1 with app := { m.1.app with reads := mput m.1.app.reads (65536 * core + tag) (m.1.app.gen + 1) 0 } }
        submit s { req0' with op := 4, job := job, addr := a / 64 * 64, msg := m.2, total := 1 } (appWho core tag wide job a)
      else ask f.2
where
  /-- A blank request. -/
  req0' : Req := { op := 1, fn := 0, job := 0, addr := 0, operand := 0, compare := 0, msg := 0, pkt := 0, total := 0, data := [] }

/-- A load or store of a core (R514). Log entries 135 (DEDUCED), 136 (DESIGN CHOICE). -/
def appAccess (s : State) (core job pa : Nat) (acc : AppAcc) (tag : Nat) : State :=
  match appMap s core pa, acc with
  | .fault, _ => appFault s core tag
  | .sram a, .load w =>
    let n := if w then 8 else 4
    if 2 ^ 20 < a + n then appFault s core tag else send s (.app core tag false (mreadLE s.app.sram (2 ^ 20 * core + a) n))
  | .sram a, .store w v =>
    let n := if w then 8 else 4
    if 2 ^ 20 < a + n then appFault s core tag
    else send { s with app := { s.app with sram := mwriteLE s.app.sram (2 ^ 20 * core + a) v.toNat n } } (.app core tag false 0)
  | .global a, .load w => appLoad s core tag w job a
  | .global a, .store w v =>
    submit s { appLoad.req0' with
      op := 2, fn := if w then 1 else 0, job := job, addr := a, operand := if w then v.toNat else v.toNat % 2 ^ 32 } (appWho core tag w job a)

/-- The home operation of an AMO, and its code in FN. Log entry 137 (DEDUCED). -/
def amoOp : AppAmo → Option (HomeOp × Nat)
  | .add => some (.add, 0)
  | .min => some (.min, 1)
  | .max => some (.max, 2)
  | .xor => some (.xor, 3)
  | .swap => some (.swap, 4)
  | .cas => some (.cas, 5)
  | .other => none

/-- An AMO (R515). One that R515 does not list faults on a global address; on local SRAM it concerns the core alone. Log entry 137 (DEDUCED). -/
def appAmo (s : State) (core job pa : Nat) (amo : AppAmo) (wide : Bool) (x cmp tag : Nat) : State :=
  let n := if wide then 8 else 4
  let x := x % 2 ^ (8 * n); let cmp := cmp % 2 ^ (8 * n)
  match appMap s core pa, amoOp amo with
  | .fault, _ => appFault s core tag
  | .global _, none => appFault s core tag
  | .global a, some (_, c) =>
    submit s { appLoad.req0' with
      op := 3, fn := c + (if wide then 16 else 0), job := job, addr := a, operand := x, compare := if c = 5 then cmp else 0 }
      (appWho core tag wide job a)
  | .sram _, none => s
  | .sram a, some (op, _) =>
    if 2 ^ 20 < a + n then appFault s core tag
    else
      let old := mreadLE s.app.sram (2 ^ 20 * core + a) n
      send { s with app := { s.app with sram := mwriteLE s.app.sram (2 ^ 20 * core + a) (homeNew op n old x cmp) n } } (.app core tag false old)

/-- The answer of a global access: a refusal is an access fault that leaves its status in CSR 0x7C1. A line read before a window commit
is not kept (R206). -/
def appResult (s : State) (core t st value : Nat) (data : List Line) : State :=
  let tag := t % 2 ^ 16
  let fresh_ := mget s.app.reads (65536 * core + tag) 0 == s.app.gen + 1
  let s := { s with app := { s.app with reads := mput s.app.reads (65536 * core + tag) 0 0 } }
  if st ≠ 0 then appFault { s with app := { s.app with status := mput s.app.status core st 0 } } core tag
  else
    match data with
    | [] => send s (.app core tag false value)
    | l :: _ =>
      let a := t / 2 ^ 29; let job := t / 2 ^ 17 % 2 ^ 12
      let ls := s.app.lines.filter (fun x => !(x.core == core && x.job == job && x.line == a / 64))
      let s := if fresh_ then { s with app := { s.app with lines := ls ++ [{ core := core, job := job, line := a / 64, data := l }] } } else s
      send s (.app core tag false (lineWord l a (if t / 2 ^ 16 % 2 = 1 then 8 else 4)))

end Sys2Proof.Machine
end

