-- ==== Sys2Proof/Machine/Settle.lean ====
section
/-!
DEFINITION. What follows from a command within its own step: answers reach the units that wait for them, and whatever they
release goes on, until nothing more can happen without a further command.
-/

namespace Sys2Proof.Machine

/-- The answer of a request that came over the bridge goes back as a depot response (R422, KIND 1). Log entry 83 (DESIGN CHOICE). -/
def brgAnswer (s : State) (h : Half) (tag op st value : Nat) (hseq : Option Nat) (data : List Line) : State :=
  let me := deviceId s
  if op = 4 then
    let n := data.length
    brgSend s h.other 3 (brgHead 3 n 1 0 tag (respHdr 0x81 st 0 me me 0 0 none 0 0 0 1 n 0).toNat :: data)
  else brgSend s h.other 1 [brgHead 1 0 1 0 tag (respHdr 0x80 st 0 me me 0 0 hseq 0 0 0 0 0 value).toNat]

/-- An answer reaches the unit that issued the request. -/
def deliver (s : State) (r : Result) : State :=
  match r.who with
  | .tile t op piece =>
    let ti := tget s t
    tset s t { ti with arrivals := ti.arrivals ++ [{ op := op, piece := piece, status := r.status, value := r.value, data := r.data }] }
  | .app _ core tag => appResult s core tag r.status r.value r.data
  | .lys tag mt _ => lysResult s tag mt r.status r.value r.hseq r.data
  | .cue _ id piece => cueResult s id piece r.status r.data
  | .shn _ cmd row => shnResult s cmd row r.status r.data
  | .brg h tag op => brgAnswer s (Half.ofNum h) tag op r.status r.value r.hseq r.data
  | .none => s

/-- Whether a recall waits to be sent and can be. -/
def recallWaits (s : State) : Bool :=
  s.dep.recalls.any (fun r => r.tag.isNone && recallCan s r) &&
    (!fbit s F.LYS_STATUS_UP || (List.range 4096).any (fun t => (recallBy s t).isNone))

/-- A POINTS cue steers its port (R235, R318): bits 4 to 0 of its selector name the port, bits 8 to 5 the fibre pair, and a
selector with any other bit set is an error of cause 1. Cues that fire together ask together (R319). Log entries 65 (DEDUCED), 159
(DESIGN CHOICE). -/
def startPoints (s : State) (ps : List (Nat × Nat)) : State :=
  let s := (ps.filter (fun x => decide (x.2 / 512 ≠ 0))).foldl (fun s x => runFail s x.1 1 0) s
  steerAll s ((ps.filter (fun x => decide (x.2 / 512 = 0))).map (fun x => (x.2 % 32, x.2 / 32 % 16, some x.1)))

/-- One consequence. -/
def settleStep (s : State) : Option State :=
  match fabStep s with
  | some t => some t
  | none =>
    match s.fab.results with
    | r :: rs => some (deliver { s with fab := { s.fab with results := rs } } r)
    | [] =>
      if recallWaits s then some (sendRecalls s)
      else if (readyStep s).isSome then readyStep s
      else if (shnReserved s .up).isSome then shnReserved s .up
      else if (shnReserved s .down).isSome then shnReserved s .down
      else if (shnStep s .up).isSome then shnStep s .up
      else if (shnStep s .down).isSome then shnStep s .down
      else if (lysLate s).isSome then lysLate s
      else if s.fab.stale then some (fetchAll { s with fab := { s.fab with stale := false } })
      else
        if !s.ilk.inbox.isEmpty then some (takeOwn s)
        else if !(unitView s .down).ilk.inbox.isEmpty then some (asDown s takeOwn)
        else
          match s.cue.points with
          | _ :: _ => some (startPoints { s with cue := { s.cue with points := [] } } s.cue.points)
          | [] => steerStep s

/-- Every consequence in turn. Log entry 6 (DESIGN CHOICE). -/
def settleN : Nat → State → State
  | 0, s => s
  | n + 1, s => match settleStep s with
    | some t => settleN n t
    | none => s

/-- A device fault that a lower layer declared takes effect (R397, R534). -/
def faultCheck (s : State) : State :=
  if !fbit s F.MOD_STATUS_DEV_FAULT then s
  else if devState s = dsStart then
    (if fget s F.SEC_BOOT_STAGE = 6 ∨ fget s F.SEC_BOOT_STAGE = 7 then s else fset s F.SEC_BOOT_STAGE 0 7)
  else if (devState s == dsSingle || devState s == dsService || devState s == dsDrain) && !fbit s F.ILK_STATUS_FENCED then fence s 4
  else s

/-- What else the new state brings about: threads whose wait holds go on, margins are judged, a drain and held records go on. Log entry 6 (DESIGN CHOICE). -/
def settlePost (s : State) : State := flushHeld (drainRun (marginEval (wakeAll (faultCheck s))))

/-- Everything that follows from a command, and what the links then put on their lanes. Log entry 6 (DESIGN CHOICE). -/
def settle (s : State) : State :=
  let run := settleN fabFuel
  lanesOut (lysShow (brgShow (brgShow (run (settlePost (run (settlePost (run s))))) .up) .down))

/-- A meaning's answer: the state with everything that follows. -/
def settled (s : State) : Res := .next (settle s)

end Sys2Proof.Machine
end

