-- ==== Sys2Proof/Machine/Mgmt.lean ====
section
/-!
DEFINITION. Management access (R8 to R14, R31 to R34, R72, R133, R472, R479): what an address reaches, what a read returns and
clears, and what a write sets or triggers.
-/

namespace Sys2Proof.Machine

/-! ## Reading -/

/-- A number from a truth value. -/
def bn (b : Bool) : Nat := if b then 1 else 0

/-- A map of bits from a list of their numbers. -/
def bitsOf (l : List Nat) : Nat := (l.map (2 ^ ·)).sum

/-- State of a thread as R135 numbers it. -/
def ThState.num : ThState → Nat
  | .idle => 0 | .ready => 1 | .out => 2 | .held => 3 | .faulted => 4

/-- `TILE_ARRAY_STATUS` (R67), as one number. -/
def arrayStatus (s : State) (t : Nat) : Nat :=
  let a := (tget s t).array
  bn (a.running.isSome || !(readOutGroups a).isEmpty) + 2 * bn a.openG.isSome
    + 4 * ((a.open?).map (·.owner)).getD 0 + 32 * a.queue.length + 256 * bitsOf (a.waiters.map (·.thread))
    + 65536 * bn a.latch.isSome + 131072 * bn (((a.open?).map (·.packed)).getD false)

/-- A box that is heard on a plane within three heartbeat periods (R416, R417). -/
def boxHeard (s : State) (plane : Half) (m : Nat) : Bool :=
  let x := seen s m
  match (match plane with | .up => x.onA | .down => x.onB) with
  | some t => decide (now s .up ≤ t + 3 * hbNs s)
  | none => false
def boxesHeard (s : State) (plane : Half) : List Nat :=
  let s := unitView s plane
  (List.range (fget s F.ILK_STATUS_NBOX)).filter (fun n => boxHeard s plane (fget s (boxFld n)))

/-- The half's block controllers and links run (R144, R433). -/
def blocksUp (s : State) (b : Nat) : Bool :=
  (fget s F.SEC_BOOT_STAGE == 4 || fget s F.SEC_BOOT_STAGE == 5) && !inPreset s (blkHalf b)

/-- The group that `BRG_GROUP_SEL` selects. -/
def selGroup (s : State) : BrgGroup := grp s (fget s F.BRG_GROUP_SEL_DIR) (fget s F.BRG_GROUP_SEL_GROUP)

/-- Lines of a half that the companion's directory lists (R492). -/
def dirLines (s : State) (h : Half) : Nat := (s.dep.dir.filter (fun e => lineHalf e.line == h)).length

/-- Fields whose value other state determines. Log entry 15 (DEDUCED). -/
def derived (s : State) (f : Fld) (i : Nat) : Option Nat :=
  match f.reg with
  | .TILE_ARRAY_STATUS => some (bitsAt (arrayStatus s i) f.lo f.width)
  | .TILE_THREAD_STATE => some ((tget s i).th (f.lo / 4)).st.num
  | .TILE_OUTSTANDING => some (outstanding s i)
  | .BLK_STATUS => if f.lo < 2 then some (bn (blocksUp s i)) else none
  | .DEP_HOT_STATUS =>
    let n := hotInUse s (Half.ofNum i)
    some (if f.lo = 0 then n else max n (fget s f i))
  | .DEP_SCRUB => if f.lo = 16 then some (mget s.dep.scrub i 0 * 256 / halfLines) else none
  | .WIN_STATUS =>
    if f.lo = 8 then some (((List.range 64).filter (fun k => fbit s F.WIN_JOB_BOUND k)).length)
    else if f.lo = 16 then some (fget s F.WIN_GW_CFG_GATEWAY) else none
  | .WIN_INFLIGHT => some ((s.fab.prog.filter (fun p => p.slot == i)).length)
  | .CUE_STATUS => if f.lo = 1 then some s.cue.armed.length else if f.lo = 16 then some s.cue.held.length else none
  | .DEP_SHN_STATUS => if f.lo = 8 then some (shnPending s .up) else if f.lo = 20 then some (shnPending s .down) else none
  | .FAB_PORT_QUEUE => some (if f.lo = 0 then (lget s i).unsent else (lget s i).unackedFlits)
  | .ILK_STATUS =>
    if f.lo = 26 then some (bn (!(boxesHeard s .up).isEmpty)) else if f.lo = 27 then some (bn (!(boxesHeard s .down).isEmpty)) else none
  | .ILK_HEALTH => some (healthWord s)
  | .ILK_SPORT_STATUS =>
    let l := boxesHeard s (Half.ofNum i)
    some (if f.lo = 0 then bn (!l.isEmpty) else bitsOf l)
  | .BRG_GROUP_INFO =>
    let g := selGroup s
    some (if f.lo = 0 then g.erase.getD 0 else if f.lo = 7 then bn g.erase.isSome else if f.lo = 8 then min g.corr 65535 else g.st)
  | .MOD_INPUT => if f.lo = 16 then some (min 4095 (fget s F.PWR_DEVICE_INPUT * 100 / fget s F.MOD_INPUT_VIN)) else none
  | .LYS_DIR => some (dirLines s (if f.lo = 0 then .up else .down) / 32)
  | .MODE_PORTS =>
    some (bitsOf ((List.range 32).filter (fun p => fbit s F.PORT_CFG_MODE p || (f.lo != 0 && fbit s F.PORT_CFG_REHEARSE p))))
  | .PORT_RXPWR_LO | .PORT_FARPWR_LO => if isSig i && decide (32 ≤ f.lo) then some 0 else none
  | .MODE_ARB =>
    if f.lo = 0 then some (bitsOf ((List.range 4).filter (fun c => (rehActive s c).isSome)))
    else if f.lo = 8 then some (min 512 s.logw.queue.length) else none
  | _ => none

/-- What a field reads as (R8). Log entries 14 (DESIGN CHOICE), 15 (DEDUCED). -/
def fieldRead (s : State) (f : Fld) (i : Nat) : Nat := if f.acc = .wo then 0 else ((derived s f i).getD (fget s f i)) % 2 ^ f.width

/-- What a register reads as; reserved bits read 0 (R10). -/
def regRead (s : State) (r : Reg) (i : Nat) : Nat := (r.fields.map (fun f => fieldRead s f i * 2 ^ f.lo)).sum

/-- A read clears the RC fields it returns (R8); a PEAK begins again at the queues now in use (R189). Log entries 22 (DESIGN CHOICE), 139 (DEDUCED). -/
def clearRead (s : State) (r : Reg) (i b n : Nat) : State :=
  (r.fields.filter (fun f => f.acc == .rc && decide (8 * b ≤ f.lo) && decide (f.lo < 8 * (b + n)))).foldl (fun s f =>
    if f = F.DEP_HOT_STATUS_PEAK then fset s f i (hotInUse s (Half.ofNum i))
    else if f = F.BRG_GROUP_INFO_CORR then setGrp s (fget s F.BRG_GROUP_SEL_DIR) (fget s F.BRG_GROUP_SEL_GROUP) { selGroup s with corr := 0 }
    else fset s f i 0) s

/-! ## What an address reaches -/

/-- What an access reaches: nothing (R11, R33), nothing because the core is off, a half that does not answer (R34), the window of
a retired tile (R72), the recovery buffer (R503), or a register with its index and the byte in it. -/
inductive MgmtAt where
  | bad | off | gone (h : Half) | zero | buf (o : Nat) | reg (r : Reg) (i b : Nat)
  deriving DecidableEq, Repr

/-- The half whose control, block and depot registers or ports an address belongs to (R31, R32). -/
def addrHalf (a : Nat) : Option Half :=
  if a < 0x1000000 then none
  else if a < 0x1800000 then some .up
  else if a < 0x2000000 then some .down
  else if a < 0x2200000 then some (Half.ofNum (a / 0x100000))
  else if a < 0x2220000 then some (Half.ofNum (a / 0x10000))
  else none

/-- Whether a half's registers do not answer (R34): it is in partial reset, or the bridge, which is as much the up half's as the
down half's, is retraining. Its first training, at start, is none. Log entries 18 (DEDUCED), 19 (DEDUCED). -/
def halfGone (s : State) (h : Half) : Bool :=
  inPreset s h || (fbit s F.BRG_STATUS_TRAINING && ((s.brg.train.map (·.cause)).getD 0 != 5))

/-- The tile whose register window an address lies in. -/
def tileWindow (a : Nat) : Option Nat :=
  let o := a % 0x800000
  if a < 0x1000000 ∨ 0x2000000 ≤ a ∨ o < 0x100000 ∨ 0x180000 ≤ o ∨ o % 0x4000 < 0x2000 then none
  else some (a / 0x800000 % 2 * 2048 + (o - 0x100000) / 0x4000 * 64 + o % 0x2000 / 0x80)

/-- The registers of recovery exist only there (R526). Log entry 18 (DEDUCED). -/
def inRecovery (s : State) : Bool := fget s F.SEC_BOOT_STAGE == 6

/-- Place an access of 4 or 8 bytes. Log entries 18 (DEDUCED), 148 (DESIGN CHOICE). -/
def mgmtAt (s : State) (a : Nat) (wide : Bool) : MgmtAt :=
  let gone := match addrHalf a with | some h => halfGone s h | none => false
  if a % (if wide then 8 else 4) ≠ 0 then .bad
  else if devState s == dsCold && !(decide (0x7000000 ≤ a) && decide (a < 0x7001000)) then .off
  else if !gone && (match tileWindow a with | some t => tileRetired s t | none => false) then .zero
  else if inRecovery s && decide (0x5010000 ≤ a) && decide (a < 0x5020000) then .buf (a - 0x5010000)
  else
    match regAt a with
    | none => .bad
    | some (r, i, b) =>
      if wide && (!r.wide || b != 0) then .bad
      else if r = .SEC_RCV_CTL ∧ inRecovery s = false then .bad
      else if gone then .gone ((addrHalf a).getD .up)
      else .reg r i b

/-- An access that is not supported, and one to a half that does not answer. -/
def mgmtBad (s : State) : State := emitLim s .up unitLys 0x0A01 0 ms []
def mgmtGone (s : State) (h : Half) : State := emitLim s .up unitLys 0x0A02 h.num ms []

/-- A management read: its value, or none where it is not supported. -/
def mgmtRead (s : State) (a : Nat) (wide : Bool) : State × Option Nat :=
  let n := if wide then 8 else 4
  match mgmtAt s a wide with
  | .bad => (mgmtBad s, none)
  | .off => (s, none)
  | .gone h => (mgmtGone s h, some (2 ^ (8 * n) - 1))
  | .zero => (s, some 0)
  | .buf _ => (s, some 0)
  | .reg r i b => (clearRead s r i b n, some (bitsAt (regRead s r i) (8 * b) (8 * n)))

/-! ## Writing -/

/-- What a register holds for writing: its RW fields, the written bytes laid over them. -/
def merged (s : State) (r : Reg) (i b n v : Nat) : Nat :=
  setBits ((r.fields.filter (·.acc == .rw)).map (fun f => fget s f i * 2 ^ f.lo)).sum (8 * b) (8 * n) v

/-- Whether the merged value is out of range in a field that the write touches (R14), or against another field. Log entry 16 (DEDUCED). -/
def outOfRange (s : State) (r : Reg) (i b n m : Nat) : Bool :=
  let g := fun (f : Fld) => bitsAt m f.lo f.width
  let touched := fun (f : Fld) => decide (f.lo < 8 * (b + n)) && decide (8 * b < f.lo + f.width)
  let plain := r.fields.any (fun f => f.acc == .rw && touched f && f.reg != .CUE_MAP && f.reg != .SEC_RCV_CTL &&
    (decide (g f < f.vmin) || decide (f.vmax < g f)))
  plain ||
    (match r with
     | .CUE_JOB => decide (4096 < g F.CUE_JOB_CTR_BASE + g F.CUE_JOB_CTR_CNT) || decide (512 * 2 ^ g F.CUE_JOB_BK < 64 * 2 ^ g F.CUE_JOB_K)
     | .CUE_MAP => g F.CUE_MAP_VALID == 1 && !(decide (1 ≤ g F.CUE_MAP_N) && decide (g F.CUE_MAP_N ≤ 16384))
     | .FAB_CFG => decide (g F.FAB_CFG_THR_HI ≤ g F.FAB_CFG_THR_LO)
     | .PORT_CFG => decide (2 ≤ g F.PORT_CFG_MIN_WIDTH) && isSig i
     | .LOG_RING_READ => seqNewer (g F.LOG_RING_READ_INDEX) (fget s F.LOG_RING_HEAD_INDEX)
     | .LOG_TRACE_READ => seqNewer (g F.LOG_TRACE_READ_INDEX) (fget s F.LOG_TRACE_HEAD_INDEX)
     | _ => false)

/-- Set the fields of a register by their access codes (R8). -/
def setFields (s : State) (r : Reg) (i m : Nat) : State :=
  r.fields.foldl (fun s f =>
    let x := bitsAt m f.lo f.width
    match f.acc with
    | .rw => fset s f i x
    | .w1c => fset s f i (Nat.land (fget s f i) (2 ^ f.width - 1 - x))
    | _ => s) s

/-- The operation of `SEC_CTL` (R527). Log entry 20 (DESIGN CHOICE). -/
def secCtl (s : State) (op : Nat) : State :=
  if op = 1 then secBank s else if op = 2 then secConfig s else if op = 3 then secEnrol s else if op = 4 then secLive s else s

/-- A commit (R225): the fields of `WIN_COMMIT` change only where it is taken. -/
def winCommit (s : State) (m : Nat) : State :=
  let k := bitsAt m 0 6
  let t :=
    match bitsAt m 12 2 with
    | 0 => winWrite s k (bitsAt m 6 6)
    | 1 => winBind s k (bitsAt m 14 12)
    | 2 => winUnbind s k
    | _ => winRefused s (fget s F.WIN_JOB_JOB k)
  if fbit s F.WIN_STATUS_BUSY || !fbit t F.WIN_STATUS_BUSY then t else setFields t .WIN_COMMIT 0 m

/-- Apply `f` where bit `n` of the merged value is 1. -/
def onBit (m n : Nat) (f : State → State) (s : State) : State := if bitAt m n then f s else s

/-- A start that meets nothing: what `SEC_RCV_CTL` finds where no row says more. Log entry 20 (DESIGN CHOICE). -/
def cleanBoot : BootIn := { noFlash := false, noCtr := false, noPuf := false, torn := false, bad := [], vias := [], core := none }

/-- The Lysdex link is taken down and trained (R492). Log entry 21 (DEDUCED). -/
def lysRetrain (s : State) : State := lysDown s 4

/-- The effect of a write to register `r` with the merged value `m`, in range. Where several bits trigger, the lower acts first, but
for `TILE_CTL`, whose ABORT comes before START (R134). Log entries 17 (DEDUCED), 139 (DEDUCED). -/
def regWrite (s : State) (r : Reg) (i m : Nat) : State :=
  match r with
  | .TILE_CTL =>
    onBit m 1 (tileStart · i) (onBit m 2 (tileAbortAll · i) (onBit m 3 (tileCntClr · i) (tileRun s i (bitAt m 0))))
  | .TILE_ARRAY_CTL => onBit m 0 (tileArrayCntClr · i) s
  | .TILE_LOGICAL | .TILE_JOB | .TILE_JOB_SEED | .TILE_STEP | .TILE_ENTRY =>
    if allIdle (tget s i) then setFields s r i m else tileRefused s i
  | .BLK_CTL => onBit m 6 (requestRetire · (64 * i + bitsAt m 0 6)) (setFields s r i m)
  | .DEP_CTL => onBit m 1 (scrubNow · (Half.ofNum i)) (onBit m 0 (depCntClr · (Half.ofNum i)) s)
  | .DEP_CH_CTL => onBit m 0 (startRetrain · i) s
  | .WIN_COMMIT => if bitAt m 31 then winCommit s m else setFields s r i m
  | .CUE_CTL => onBit m 8 (cueAbort · (bitsAt m 2 6)) (onBit m 0 (fset · F.CUE_FIRED_COUNT 0 0) (setFields s r i m))
  | .STM_CFG =>
    let t := setFields s r i m
    let t := if fbit s F.STM_CFG_REPLAY i && !bitAt m 2 then replayOff t i else t
    if bitAt m 0 && !fbit s F.STM_CFG_ENABLE i then stmStart t i else t
  | .STM_STEP => stmJobStep (setFields s r i m) i
  | .CUE_MAP => setFields (mapWritten s i) r i m
  | .DEP_SHN_CTL => onBit m 0 shnCntClr s
  | .PORT_CFG =>
    let t := setFields s r i m
    announcing t (fun t => portGo (if fbit s F.PORT_CFG_ENABLE i == bitAt m 0 then t else portEnable t i) i)
  | .PORT_CTL => portRelock (onBit m 1 (fun s => announcing s (portRetrain · i)) (onBit m 0 (portCntClr · i) s)) i (bitsAt m 8 8)
  | .PORT_STEER => onBit m 31 (steer · i (bitsAt m 0 4) none) (setFields s r i m)
  | .LAS_CTL => if bitAt m 8 then lasChange s i (bitsAt m 0 4) else setFields s r i m
  | .FAB_ROUTE_MEMBER => routeWritten (setFields s r i m) false i
  | .FAB_ROUTE_DIST => routeWritten (setFields s r i m) true i
  | .FAB_PORT_CTL => onBit m 0 (fun s => fset (fset s F.FAB_PORT_TX_FLITS i 0) F.FAB_PORT_RX_FLITS i 0) s
  | .ILK_CTL => if bitAt m 31 then ilkCtl s (bitsAt m 16 2) (bitsAt m 0 16) (bitsAt m 18 12) else setFields s r i m
  | .BRG_CTL =>
    onBit m 3 (fun s => fset (fset s F.BRG_FLITS_UD_COUNT 0 0) F.BRG_FLITS_DU_COUNT 0 0)
      (onBit m 2 (presetRequest · .down 1) (onBit m 1 (presetRequest · .up 1) (onBit m 0 (brgRetrain · 1) s)))
  | .MOD_CTL =>
    let s := modLocate s (bitAt m 4)
    onBit m 3 modReset (onBit m 2 (drainRequest · 1) (onBit m 1 modPowerOff (onBit m 0 modPowerOn s)))
  | .LYS_CTL => onBit m 1 lysCntClr (onBit m 0 lysRetrain s)
  | .SEC_CTL => onBit m 31 (secCtl · (bitsAt m 0 3)) (setFields s r i m)
  | .SEC_ATT => onBit m 63 secAttest (setFields s r i m)
  | .SEC_RCV_CTL => if bitAt m 31 then recoveryChunk s (bitsAt m 0 8) (bitAt m 8) cleanBoot else setFields s r i m
  | .PWR_CFG => rateWritten (fget s F.PWR_CFG_RATE) (setFields s r i m)
  | .MODE_CFG => modeCfg s (bitsAt m 0 2) (bitAt m 2)
  | .MODE_CTL => if bitAt m 31 then modeGo s (bitsAt m 0 3) else setFields s r i m
  | _ => setFields s r i m

/-- A management write; whether it was supported. -/
def mgmtWrite (s : State) (a : Nat) (wide : Bool) (v : Nat) : State × Bool :=
  let n := if wide then 8 else 4
  match mgmtAt s a wide with
  | .bad => (mgmtBad s, false)
  | .off => (s, false)
  | .gone h => (mgmtGone s h, true)
  | .zero => (s, true)
  | .buf o => ({ s with sec := { s.sec with rcv := mwriteLE s.sec.rcv o v n } }, true)
  | .reg r i b =>
    let m := merged s r i b n v
    (if outOfRange s r i b n m then rangeEvent s r i else regWrite s r i m, true)

/-- A management access to the down half crosses the bridge and its answer comes back (R22). Log entry 81 (DESIGN CHOICE). -/
def mgmtCross (s : State) (a : Nat) : State :=
  if addrHalf a = some .down ∧ brgOpen s then brgCount (brgCount s .up 1) .down 1 else s

/-- MGMT_REGISTER_WRITE (R8). -/
def execMgmtRegisterWrite (addr : BitVec 32) (wide : Bool) (value : BitVec 64) (s : State) : Res :=
  settled (mgmtWrite (mgmtCross s addr.toNat) addr.toNat wide value.toNat).1

/-! ## I3C (R472) -/

/-- Whether an I3C access reaches its register. -/
def i3cReach (s : State) (a : Nat) (write : Bool) : Bool :=
  (decide (0x7000000 ≤ a) && decide (a < 0x7001000)) ||
    (!write && fbit s F.MOD_MSTATUS_PGOOD && (decide (a < 0x100) || (decide (0x4000000 ≤ a) && decide (a < 0x4030000))))

/-- A refused access. -/
def i3cRefused (s : State) : State := emitLim (fcount s F.MOD_I3C_REFUSED 0 1) .up unitMod 0x0A10 0 ms []

/-- I3C_PRIVATE_WRITE; a drain requested here has I3C as its source (R466). -/
def execI3cPrivateWrite (addr : BitVec 32) (value : BitVec 32) (s : State) : Res :=
  let a := addr.toNat; let v := value.toNat
  if !i3cReach s a true || a % 4 ≠ 0 then settled (i3cRefused s)
  else if a = 0x7000004 ∧ bitAt v 2 then settled (mgmtWrite (drainRequest s 2) a false (v - 4)).1
  else settled (mgmtWrite s a false v).1

/-- I3C_PRIVATE_READ; the data of a read that reaches no register is open. Log entry 9 (DESIGN CHOICE). -/
def execI3cPrivateRead (addr : BitVec 32) (s : State) : Res :=
  let a := addr.toNat
  let bytes := fun (v : Nat) => leBytes v 4
  if !i3cReach s a false || a % 4 ≠ 0 then settled (send (i3cRefused s) (.i3c (bytes 0xFFFFFFFF)))
  else
    match mgmtRead s a false with
    | (s, some v) => settled (send s (.i3c (bytes v)))
    | (s, none) => let f := fresh s; settled (send f.2 (.i3c (bytes (f.1 % 2 ^ 32))))

/-! ## The Lysdex link (R479, R480) -/

/-- The answer to a management message. -/
def mgmtResp (s : State) (tag st value : Nat) : State := lysSend s 0 [mkSlot [(0, 8, 0x84), (8, 12, tag), (20, 8, st), (64, 64, value)]]

/-- Take a MGMT_RD. -/
def lysMgmtRd (s : State) (h : BitVec 128) : State :=
  let s := lysTake s [h]
  if lysReserved h ≠ 0 then mgmtResp (mgmtBad s) (sb h 8 12) 1 0
  else
    let r := mgmtRead (mgmtCross s (sb h 48 64)) (sb h 48 64) (sb h 46 1 == 1)
    match r.2 with
    | some v => mgmtResp r.1 (sb h 8 12) 0 v
    | none => mgmtResp r.1 (sb h 8 12) 1 0

/-- Take a MGMT_WR; its operand slot holds the value in its low bits. -/
def lysMgmtWr (s : State) (h : BitVec 128) (p : List (BitVec 128)) : State :=
  let s := lysTake s (h :: p)
  if lysReserved h ≠ 0 then mgmtResp (mgmtBad s) (sb h 8 12) 1 0
  else
    let r := mgmtWrite (mgmtCross s (sb h 48 64)) (sb h 48 64) (sb h 46 1 == 1) (sb (p.getD 0 0) 0 64)
    mgmtResp r.1 (sb h 8 12) (if r.2 then 0 else 1) 0

/-- LYS_MGMT_RD (R479). -/
def execLysMgmtRd (hdr : BitVec 128) (s : State) : Res := if fbit s F.LYS_STATUS_UP then settled (lysMgmtRd s hdr) else .next s

/-- LYS_MGMT_WR (R479). -/
def execLysMgmtWr (hdr : BitVec 128) (payload : List (BitVec 128)) (s : State) : Res :=
  if fbit s F.LYS_STATUS_UP then settled (lysMgmtWr s hdr payload) else .next s

end Sys2Proof.Machine
end

