-- ==== Sys2Proof/Machine/BrgCmd.lean ====
section
/-!
DEFINITION. The bridge's commands (R420 to R435): flits, training messages, partial resets and the loss of the clock.
-/

namespace Sys2Proof.Machine

/-- The packet in a bridge packet's data flits (R422, kinds 2 and 3): its head's fields, header and data. -/
def brgInner (data : List Line) : Option Pkt :=
  match data with
  | [] => none
  | f :: rest =>
    let v := f.toNat
    some {
      half := .up, tc := bitsAt v 2 2, dst := bitsAt v 32 16, ad := bitAt v 5, hops := bitsAt v 14 4, ring := none, mine := false,
      hdr := BitVec.ofNat 448 (v / 2 ^ 64), data := rest }

/-- A management access over the bridge is answered (R422, kinds 4 and 5). -/
def brgMgmt (s : State) (h : Half) (tag body : Nat) : State :=
  let reply := fun (s : State) (st v : Nat) => brgSend s h 4 [brgHead 4 0 5 0 tag (v % 2 ^ 64 + st * 2 ^ 64)]
  let a := bitsAt body 0 64; let d := bitsAt body 64 64; let wide := bitAt body 129
  if body / 2 ^ 130 ≠ 0 ∨ 2 ^ 32 ≤ a then reply (mgmtBad s) 1 0
  else if bitAt body 128 then
    match mgmtWrite s a wide d with
    | (s, ok) => reply s (if ok then 0 else 1) 0
  else
    match mgmtRead s a wide with
    | (s, some v) => reply s 0 v
    | (s, none) => reply s 1 0

/-- A whole bridge packet reaches its unit (R422), by its KIND. Log entries 81 (DESIGN CHOICE), 83 (DESIGN CHOICE), 85 (DEDUCED). -/
def brgDispatch (s : State) (h : Half) (hd : Line) (data : List Line) : State :=
  let v := hd.toNat
  let tag := bitsAt v 32 32; let unit := bitsAt v 16 16; let body := v / 2 ^ 64
  match bitsAt v 12 4 with
  | 0 =>
    let hdr := BitVec.ofNat 448 body
    let r := reqOf hdr data
    if 1 ≤ r.op ∧ r.op ≤ 5 then submit s r (.brg h.other.num tag r.op)
    else brgAnswer s h.other tag r.op stBadOp 0 none []
  | 2 =>
    match brgInner data with
    | some k => if unit < 32 then enterEgress s unit { k with half := portHalf unit } else s
    | none => s
  | 3 =>
    match brgInner data with
    | some k => packetIn s h.other none k.hdr k.data
    | none => s
  | 4 => brgMgmt s h tag body
  | 6 => powerMessage s h (BitVec.ofNat 448 body)
  | _ => s

/-- The packets that arrived whole, in order. -/
def brgRelease (s : State) : State :=
  s.brg.arrived.foldl (fun s a => brgDispatch s a.1 a.2.1 a.2.2) { s with brg := { s.brg with arrived := [] } }

/-- BRG_CONTROL_FLIT (R423 to R425): an uncorrectable one is lost. -/
def execBrgControlFlit (h : Half) (flit : BitVec 512) (err : Damage) (s : State) : Res :=
  match decodeBlock 4 [] err with
  | .clean x | .corrected x => settled (brgControlIn s h (flit ^^^ x))
  | .uncorrectable => .next s

/-- BRG_PACKET (R421, R422, R425). Log entry 81 (DESIGN CHOICE). -/
def execBrgPacket (h : Half) (seq : BitVec 32) (flits : List (BitVec 512 × Damage)) (s : State) : Res :=
  settled (brgRelease (brgFlits h flits seq.toNat s))

/-- BRG_POWER_MESSAGE (R437, R438). -/
def execBrgPowerMessage (h : Half) (body : BitVec 448) (s : State) : Res := settled (powerMessage s h body)

/-- BRG_RETRY_TIMEOUT (R425). -/
def execBrgRetryTimeout (h : Half) (s : State) : Res := settled (brgTimeout s h)

/-! ## Training (R427 to R430) -/

/-- BRG_TRAIN_START (R428 step 2). -/
def execBrgTrainStart (msg : BitVec 256) (s : State) : Res := settled (trainStart s msg)

/-- BRG_PRBS_DONE (R428 steps 2 and 3). -/
def execBrgPrbsDone (h : Half) (failed : List (BitVec 7 × BitVec 7)) (s : State) : Res :=
  settled (prbsDone s h (failed.map (fun f => (f.1.toNat, f.2.toNat))))

/-- BRG_TRAIN_MAP (R428 step 4). -/
def execBrgTrainMap (msg : BitVec 256) (s : State) : Res := settled (trainMap s msg)

/-- BRG_TRAIN_AGREE (R428 step 5). -/
def execBrgTrainAgree (msg : BitVec 256) (s : State) : Res := settled (trainAgree s msg)

/-- BRG_TRAIN_ECHO (R428 step 6, R429). -/
def execBrgTrainEcho (msg : BitVec 256) (s : State) : Res := settled (trainEcho s msg)

/-- BRG_TRAIN_REFUSE (R429): a REFUSE of the training in progress starts the next one. The up half's own REFUSE names an epoch
that its restart has already left behind. Log entry 86 (DEDUCED). -/
def execBrgTrainRefuse (msg : BitVec 256) (s : State) : Res :=
  match s.brg.train with
  | some t =>
    if trainOk msg 5 && tmBits msg 32 32 == t.tepoch then
      let n := s.brg.refused + 1
      let s := { s with brg := { s.brg with refused := n } }
      settled (if 3 ≤ n then brgFail s else brgStart s t.cause)
    else .next s
  | none => .next s

/-- BRG_ECHO_TIMEOUT (R429). -/
def execBrgEchoTimeout (s : State) : Res := settled (trainRefuse s false)

/-- BRG_RETRAIN (R430). -/
def execBrgRetrain (s : State) : Res := settled (brgRetrain s 1)

/-! ## Partial resets and the clock (R431 to R435, R449) -/

/-- BRG_PRESET_UP (R402, R432). -/
def execBrgPresetUp (s : State) : Res := settled (presetRequest s .up 1)

/-- BRG_PRESET_DOWN (R402, R432). -/
def execBrgPresetDown (s : State) : Res := settled (presetRequest s .down 1)

/-- BRG_CNT_CLR (R449). -/
def execBrgCntClr (s : State) : Res := .next (fset (fset s F.BRG_FLITS_UD_COUNT 0 0) F.BRG_FLITS_DU_COUNT 0 0)

/-- WATCHDOG_EXPIRY (R432, cause 3). -/
def execWatchdogExpiry (h : Half) (s : State) : Res := settled (presetRequest s h 3)

/-- BLOCK_LINK_STALL (R432, cause 4). -/
def execBlockLinkStall (block : BitVec 6) (s : State) : Res := settled (presetRequest s (blkHalf block.toNat) 4)

/-- FW_STORE_UNCORR (R432, cause 5). -/
def execFwStoreUncorr (h : Half) (s : State) : Res := settled (presetRequest s h 5)

/-- PRESET_RETURN (R433). -/
def execPresetReturn (h : Half) (s : State) : Res := settled (presetReturn s h)

/-- PRESET_HOLD_EXPIRY (R433, R368). -/
def execPresetHoldExpiry (h : Half) (s : State) : Res := settled (presetLate s h)

/-- CLOCK_LOSS (R435). -/
def execClockLoss (s : State) : Res := settled (clockLoss s)

/-- CRYSTAL_LOSS (R435, R475): with the crystal the Lysdex link loses its reference. -/
def execCrystalLoss (s : State) : Res := settled (lysDown (crystalLoss s) 5)

end Sys2Proof.Machine
end

