-- ==== Sys2Proof/Machine/CueCmd.lean ====
section
/-!
DEFINITION. The commands of chapters 07 and 08: cues, mailbox records, collectives, the stationmaster, and the shunter.
-/

namespace Sys2Proof.Machine

/-! ## Cues (R235) -/

/-- CUE_NOP (R235). -/
def execCueNop (slot : BitVec 14) (s : State) : Res := settled (fireNop s slot.toNat)

/-- CUE_SHIFT (R235). -/
def execCueShift (slot : BitVec 14) (s : State) : Res := settled (fireShift s slot.toNat)

/-- CUE_PERMUTE (R235). -/
def execCuePermute (slot : BitVec 14) (s : State) : Res := settled (firePermute s slot.toNat)

/-- CUE_INC (R235). -/
def execCueInc (slot : BitVec 14) (s : State) : Res := settled (fireInc s slot.toNat)

/-- CUE_CLOSE (R235, R245). -/
def execCueClose (slot : BitVec 14) (s : State) : Res := settled (fireClose s slot.toNat)

/-- CUE_READY (R235, R256). -/
def execCueReady (slot : BitVec 14) (s : State) : Res := settled (fireReady s slot.toNat)

/-- CUE_POINTS (R235, R318). -/
def execCuePoints (slot : BitVec 14) (s : State) : Res := settled (firePoints s slot.toNat)

/-! ## Mailbox records (R240): the record's TYPE decides -/

/-- MBOX_ANNOUNCE (R236). -/
def execMboxAnnounce (slot : BitVec 6) (record : BitVec 512) (s : State) : Res := settled (mboxRecord s slot.toNat [record])

/-- MBOX_INC (R240). -/
def execMboxInc (slot : BitVec 6) (record : BitVec 512) (s : State) : Res := settled (mboxRecord s slot.toNat [record])

/-- MBOX_ARM (R235). -/
def execMboxArm (slot : BitVec 6) (record : BitVec 512) (s : State) : Res := settled (mboxRecord s slot.toNat [record])

/-- MBOX_ARMC (R241). -/
def execMboxArmc (slot : BitVec 6) (record : BitVec 512) (s : State) : Res := settled (mboxRecord s slot.toNat [record])

/-- MBOX_DONE (R245). -/
def execMboxDone (slot : BitVec 6) (record : BitVec 512) (s : State) : Res := settled (mboxRecord s slot.toNat [record])

/-- MBOX_COMMIT (R245). -/
def execMboxCommit (slot : BitVec 6) (record : BitVec 512) (s : State) : Res := settled (mboxRecord s slot.toNat [record])

/-- MBOX_ABORT (R246). -/
def execMboxAbort (slot : BitVec 6) (record : BitVec 512) (s : State) : Res := settled (mboxRecord s slot.toNat [record])

/-- MBOX_ACCEPT (R254). -/
def execMboxAccept (slot : BitVec 6) (record : BitVec 512) (s : State) : Res := settled (mboxRecord s slot.toNat [record])

/-- MBOX_READY (R257). -/
def execMboxReady (slot : BitVec 6) (record : BitVec 512) (s : State) : Res := settled (mboxRecord s slot.toNat [record])

/-- MBOX_NOT_YET (R265). -/
def execMboxNotYet (slot : BitVec 6) (record : BitVec 512) (s : State) : Res := settled (mboxRecord s slot.toNat [record])

/-- MBOX_POISON (R257). -/
def execMboxPoison (slot : BitVec 6) (record : BitVec 512) (s : State) : Res := settled (mboxRecord s slot.toNat [record])

/-- MBOX_STEP_OPEN (R257). -/
def execMboxStepOpen (slot : BitVec 6) (record : BitVec 512) (s : State) : Res := settled (mboxRecord s slot.toNat [record])

/-- MBOX_CONSIST (R255, R260). -/
def execMboxConsist (slot : BitVec 6) (record : List (BitVec 512)) (s : State) : Res := settled (mboxRecord s slot.toNat record)

/-- MBOX_TAKEOVER (R265). -/
def execMboxTakeover (slot : BitVec 6) (record : BitVec 512) (s : State) : Res := settled (mboxRecord s slot.toNat [record])

/-! ## Messages, collectives and steps -/

/-- CONSIST_STANDBY_ACK (R259). -/
def execConsistStandbyAck (slot : BitVec 6) (s : State) : Res := settled (standbyAck s slot.toNat)

/-- CUE_MESSAGE_COMPLETE (R236). -/
def execCueMessageComplete (src : BitVec 16) (job : BitVec 12) (msg : BitVec 16) (s : State) : Res :=
  settled (messageComplete s src.toNat job.toNat msg.toNat)

/-- CLOSE_ROUND_TIMEOUT (R245). -/
def execCloseRoundTimeout (coll : BitVec 10) (s : State) : Res := settled (closeTimeout s coll.toNat)

/-- STEP_DEADLINE (R257). -/
def execStepDeadline (slot : BitVec 6) (s : State) : Res := settled (deadlineEvent s slot.toNat)

/-- STEP_BACKSTOP (R261). -/
def execStepBackstop (slot : BitVec 6) (s : State) : Res := settled (backstopEvent s slot.toNat)

/-- TAKEOVER_WAIT_EXPIRY (R265). -/
def execTakeoverWaitExpiry (slot : BitVec 6) (s : State) : Res := settled (takeoverProceed s slot.toNat)

/-- STM_REPLAY_OFF (R262). -/
def execStmReplayOff (slot : BitVec 6) (s : State) : Res := settled (replayOff s slot.toNat)

/-- CUE_CTL_ABORT (R267): SLOT is set and acted on. -/
def execCueCtlAbort (slot : BitVec 6) (s : State) : Res := settled (cueAbort (fset s F.CUE_CTL_SLOT 0 slot.toNat) slot.toNat)

/-- CUE_CTL_CNT_CLR (R267). -/
def execCueCtlCntClr (s : State) : Res := settled (fset s F.CUE_FIRED_COUNT 0 0)

/-! ## The shunter (R280 to R289): the command's OP decides -/

/-- SHN_GATHER (R284). -/
def execShnGather (h : Half) (slot : BitVec 6) (job : BitVec 12) (cmd : BitVec 512) (s : State) : Res :=
  settled (shnTake s h slot.toNat job.toNat cmd)

/-- SHN_GATHER_RANGE (R281). -/
def execShnGatherRange (h : Half) (slot : BitVec 6) (job : BitVec 12) (cmd : BitVec 512) (s : State) : Res :=
  settled (shnTake s h slot.toNat job.toNat cmd)

/-- SHN_SCATTER (R285). -/
def execShnScatter (h : Half) (slot : BitVec 6) (job : BitVec 12) (cmd : BitVec 512) (s : State) : Res :=
  settled (shnTake s h slot.toNat job.toNat cmd)

/-- SHN_COMMAND_COMPLETE (R284). -/
def execShnCommandComplete (h : Half) (s : State) : Res := settled (shnComplete s h)

/-- SHN_CNT_CLR (R289). -/
def execShnCntClr (s : State) : Res := settled (shnCntClr s)

end Sys2Proof.Machine
end

