-- ==== Sys2Proof/Machine/DepotCmd.lean ====
section
/-!
DEFINITION. The commands of chapter 05: operations at the home slices, fills, hot lines, closures, channels, scrub and refresh.
-/

namespace Sys2Proof.Machine

/-! ## Home operations (R151, R173, R175, R176) -/

/-- The width of a home load or store in bytes. -/
def homeBytes : HomeWidth → Nat
  | .w4 => 4 | .w8 => 8 | .line => 64

/-- An operation of `width` bytes at depot address `a` on behalf of a row: outside the depot there is no home (R151), and a
misaligned one is refused. Log entries 10 (DEDUCED), 43 (DEDUCED), 44 (DEDUCED). -/
def homeRow (s : State) (op : HomeOp) (a width operand compare tag : Nat) : Res :=
  if depotSize ≤ a then .fault .depotAddress
  else if a % width ≠ 0 then settled (send s (.home tag ⟨stMisaligned, 0, none, 0⟩))
  else
    settled (arrive s {
      op := op, addr := a, width := width, operand := operand, compare := compare, alloc := true, stream := none, origin := 0,
      rp := false, who := .row tag })

/-- The width of a word operation. -/
def wordBytes (wide : Bool) : Nat := if wide then 8 else 4

/-- HOME_LOAD (R173): `cerr` is what has come to be damaged in a cached copy, which the next operation that reads the copy meets
(R171). Log entry 151 (DESIGN CHOICE). -/
def execHomeLoad (addr : BitVec 36) (w : HomeWidth) (tag : BitVec 16) (cerr : Damage) (s : State) : Res :=
  homeRow (hitCopy s (addr.toNat / 64) cerr) .load addr.toNat (homeBytes w) 0 0 tag.toNat

/-- HOME_STORE (R173). -/
def execHomeStore (addr : BitVec 36) (w : HomeWidth) (data : BitVec 512) (tag : BitVec 16) (s : State) : Res :=
  homeRow s .store addr.toNat (homeBytes w) data.toNat 0 tag.toNat

/-- HOME_ADD (R173). -/
def execHomeAdd (addr : BitVec 36) (wide : Bool) (operand : BitVec 64) (tag : BitVec 16) (s : State) : Res :=
  homeRow s .add addr.toNat (wordBytes wide) operand.toNat 0 tag.toNat

/-- HOME_MIN (R173). -/
def execHomeMin (addr : BitVec 36) (wide : Bool) (operand : BitVec 64) (tag : BitVec 16) (s : State) : Res :=
  homeRow s .min addr.toNat (wordBytes wide) operand.toNat 0 tag.toNat

/-- HOME_MAX (R173). -/
def execHomeMax (addr : BitVec 36) (wide : Bool) (operand : BitVec 64) (tag : BitVec 16) (s : State) : Res :=
  homeRow s .max addr.toNat (wordBytes wide) operand.toNat 0 tag.toNat

/-- HOME_XOR (R173). -/
def execHomeXor (addr : BitVec 36) (wide : Bool) (operand : BitVec 64) (tag : BitVec 16) (s : State) : Res :=
  homeRow s .xor addr.toNat (wordBytes wide) operand.toNat 0 tag.toNat

/-- HOME_SWAP (R173). -/
def execHomeSwap (addr : BitVec 36) (wide : Bool) (operand : BitVec 64) (tag : BitVec 16) (s : State) : Res :=
  homeRow s .swap addr.toNat (wordBytes wide) operand.toNat 0 tag.toNat

/-- HOME_COMPARE_AND_SWAP (R173, R175). -/
def execHomeCompareAndSwap (addr : BitVec 36) (wide : Bool) (operand compare : BitVec 64) (tag : BitVec 16) (s : State) : Res :=
  homeRow s .cas addr.toNat (wordBytes wide) operand.toNat compare.toNat tag.toNat

/-- HOME_EXACT_INT32_ACCUMULATE (R176). -/
def execHomeExactInt32Accumulate (addr : BitVec 36) (operand : BitVec 32) (tag : BitVec 16) (s : State) : Res :=
  homeRow s .acc addr.toNat 4 operand.toNat 0 tag.toNat

/-- HOME_FP32_ADD (R173). -/
def execHomeFp32Add (addr : BitVec 36) (operand : BitVec 32) (tag : BitVec 16) (s : State) : Res :=
  homeRow s .fadd addr.toNat 4 operand.toNat 0 tag.toNat

/-! ## Fills, hot lines and closures -/

/-- DEPOT_FILL_COMPLETE (R156, R169). -/
def execDepotFillComplete (line : BitVec 30) (err1 err2 evictErr : Damage) (s : State) : Res :=
  settled (fillDone s line.toNat err1 err2 evictErr)

/-- HOT_LINE_SLOT (R178). -/
def execHotLineSlot (line : BitVec 30) (s : State) : Res := settled (hotSlot s line.toNat)

/-- HOT_QUEUE_RELEASE (R177). -/
def execHotQueueRelease (line : BitVec 30) (s : State) : Res := settled (hotRelease s line.toNat)

/-- CLOSURE_RECORD_MOVE (R180). -/
def execClosureRecordMove (h : Half) (s : State) : Res := settled (closureMove s h)

/-! ## Channels, scrub and refresh -/

/-- DEP_CH_RETRAIN (R161, R192). -/
def execDepChRetrain (h : Half) (stack : Fin 12) (ch : BitVec 4) (s : State) : Res :=
  settled (startRetrain s (chanIdx h stack.val ch.toNat))

/-- CHANNEL_RETRAIN_DONE (R161). -/
def execChannelRetrainDone (h : Half) (stack : Fin 12) (ch : BitVec 4) (failed : List (Fin 76)) (s : State) : Res :=
  settled (retrainDone s (chanIdx h stack.val ch.toNat) (failed.map (·.val)))

/-- DEP_SCRUB_NOW (R163, R186). -/
def execDepScrubNow (h : Half) (s : State) : Res := settled (scrubNow s h)

/-- DEP_CNT_CLR (R186). -/
def execDepCntClr (h : Half) (s : State) : Res := settled (depCntClr s h)

/-- SCRUB_ACCESS (R163). -/
def execScrubAccess (h : Half) (err1 err2 : Damage) (s : State) : Res := settled (scrubAccess s h err1 err2)

/-- REFRESH_TIMER (R165, R546). Refresh keeps the contents of the stacks as they are. -/
def execRefreshTimer (h : Half) (_stack : Fin 12) (s : State) : Res := settled (refresh s h)

end Sys2Proof.Machine
end

