-- ==== Sys2Proof/Machine/DrainCmd.lean ====
section
/-!
DEFINITION. The drain's commands (R466, R467).
-/

namespace Sys2Proof.Machine

/-- MOD_DRAIN (R466), over the Lysdex link or I3C. Log entry 99 (DEDUCED). -/
def execModDrain (i3c : Bool) (s : State) : Res := settled (drainRequest s (if i3c then 2 else 1))

/-- REMOVAL_BUTTON (R466). -/
def execRemovalButton (s : State) : Res := settled (drainRequest s 3)

/-- DRAIN_RELEASE (R467 step 2). -/
def execDrainRelease (s : State) : Res := settled (drainRelease s)

/-- DRAIN_WAIT_EXPIRY (R467 step 2). -/
def execDrainWaitExpiry (s : State) : Res := settled (drainExpiry s)

end Sys2Proof.Machine
end

