-- ==== Sys2Proof/Machine/FabCmd.lean ====
section
/-!
DEFINITION. The commands of chapter 06: packets as they arrive, stream timers, window and job commits, the tiles' remote
accesses and transfers, and the application cores' accesses (R514, R515).
-/

namespace Sys2Proof.Machine

/-! ## Arrivals (R201, R205 to R221) -/

/-- A packet that arrived at a fabric port reaches the receiving side; its header decides. The ports of a half in partial reset
take nothing (R433), and a request not yet admitted to its ingress waits (R352). Log entry 54 (DESIGN CHOICE). -/
def ingressRow (s : State) (p : BitVec 5) (hdr : BitVec 448) (data : List Line) : Res :=
  if inPreset s (portHalf p.toNat) || (lget s p.toNat).held.any (fun i => i.hdr == hdr && i.data == data) then .next s
  else settled (arriveAt s p.toNat hdr data)

/-- INGRESS_LOAD (R201). -/
def execIngressLoad (port : BitVec 5) (hdr : BitVec 448) (data : List (BitVec 512)) (s : State) : Res := ingressRow s port hdr data

/-- INGRESS_STORE (R201). -/
def execIngressStore (port : BitVec 5) (hdr : BitVec 448) (data : List (BitVec 512)) (s : State) : Res := ingressRow s port hdr data

/-- INGRESS_ATOMIC (R201). -/
def execIngressAtomic (port : BitVec 5) (hdr : BitVec 448) (data : List (BitVec 512)) (s : State) : Res := ingressRow s port hdr data

/-- INGRESS_READ (R205, R218). -/
def execIngressRead (port : BitVec 5) (hdr : BitVec 448) (data : List (BitVec 512)) (s : State) : Res := ingressRow s port hdr data

/-- INGRESS_WRITE (R218). -/
def execIngressWrite (port : BitVec 5) (hdr : BitVec 448) (data : List (BitVec 512)) (s : State) : Res := ingressRow s port hdr data

/-- INGRESS_BATCH (R221). -/
def execIngressBatch (port : BitVec 5) (hdr : BitVec 448) (data : List (BitVec 512)) (s : State) : Res := ingressRow s port hdr data

/-- INGRESS_ACK (R212). -/
def execIngressAck (port : BitVec 5) (hdr : BitVec 448) (data : List (BitVec 512)) (s : State) : Res := ingressRow s port hdr data

/-- INGRESS_TAKEN (R211). -/
def execIngressTaken (src : BitVec 16) (job : BitVec 12) (s : State) : Res := settled (takeWaiting s src.toNat job.toNat)

/-- RESPONSE_ARRIVAL (R208). -/
def execResponseArrival (port : BitVec 5) (hdr : BitVec 448) (s : State) : Res := ingressRow s port hdr []

/-- READ_DATA_ARRIVAL (R218). -/
def execReadDataArrival (port : BitVec 5) (hdr : BitVec 448) (data : List (BitVec 512)) (s : State) : Res := ingressRow s port hdr data

/-! ## Stream timers (R212 to R214, R220, R363, R364) -/

/-- Entry `seq` of a sending stream. -/
def sentEntry (s : State) (dst job seq : Nat) : Option Sent := (txGet s dst job).sent.find? (fun e => e.seq == seq)

/-- Change entry `seq` of a sending stream. -/
def setSent (s : State) (dst job seq : Nat) (f : Sent → Sent) : State :=
  let t := txGet s dst job
  txSet s { t with sent := t.sent.map (fun e => if e.seq = seq then f e else e) }

/-- RETRANSMIT_TIMER (R214). Where no listed gateway is a member any more, the sender answers the request itself (R219). Log entries 4
(DESIGN CHOICE), 55 (DEDUCED). -/
def retransmit (s : State) (dst job seq : Nat) : State :=
  match sentEntry s dst job seq with
  | none => s
  | some e =>
    if e.answered.isSome || e.abandoned || isOwn s dst || !mayOriginate s then s
    else
      match senderStatus s job dst with
      | (s, some st) => takeAnswer (noteRefusal s st (deviceId s) job e.req.addr) dst job seq st 0 none []
      | (s, none) =>
        let s := setSent s dst job seq (fun e => { e with last := now s (whoHalf e.who) })
        sendTo (fset s F.WIN_RETX_COUNT 0 (fget s F.WIN_RETX_COUNT + 1)) (whoHalf e.who) e.who dst true e.hdr e.req.data

/-- The status with which the sender itself ends an abandoned request: a tile and the shunter know it as abandoned; the status
that another unit is given is open. Log entries 9 (DESIGN CHOICE), 56 (DESIGN CHOICE). -/
def abandonStatus (s : State) : Who → State × Nat
  | .tile .. => (s, stAbandoned)
  | .shn .. => (s, stAbandoned)
  | _ =>
    let f := fresh s
    (f.2, [stNoJob, stNoWindow, stRange, stPerm, stMisaligned, stUncorr, stStale, stUnreachable, stSeqWindow, stBadOp].getD (f.1 % 10) stUnreachable)

/-- REQUEST_TIMEOUT (R214): a request in the delay list leaves it; one still on its way stays known, so that its late answer is
discarded. Log entries 4 (DESIGN CHOICE), 55 (DEDUCED). -/
def requestTimeout (s : State) (dst job seq : Nat) : State :=
  match sentEntry s dst job seq with
  | none => s
  | some e =>
    if e.abandoned || (e.answered.isSome && e.answered != some stRetry) then s
    else
      let t := txGet s dst job
      let sent := if e.answered.isSome then t.sent.filter (fun x => x.seq != seq)
        else t.sent.map (fun x => if x.seq = seq then { x with abandoned := true } else x)
      let s := txSet s { t with sent := sent }
      let s := fcount (emit s (whoHalf e.who) unitFab 0x0302 [(job, 12), (dst, 16), (seq, 32)]) F.WIN_TIMEOUTS_COUNT 0 1
      let s := if e.delayed then fillDelayList s (whoHalf e.who) else s
      let r := abandonStatus s e.who
      result r.1 ⟨e.who, r.2, 0, none, []⟩

/-- RETRY_DELAY_EXPIRY (R213, R364): the request leaves the delay list and is due; one that still waits for a place in the list is due
when it gets one. -/
def retryDue (s : State) (dst job seq : Nat) : State :=
  match sentEntry s dst job seq with
  | none => s
  | some e =>
    if e.answered = some stRetry ∧ e.delayed = true then
      fillDelayList (setSent s dst job seq (fun e => { e with delayed := false, due := true })) (whoHalf e.who)
    else if e.answered = some stRetry ∧ e.due = false then setSent s dst job seq (fun e => { e with late := true })
    else s

/-- IDLE_ACK_TIMER (R212): an ACK packet where responses are held that no request has covered yet. Log entry 57 (DEDUCED). -/
def idleAck (s : State) (dst job : Nat) : State :=
  if isOwn s dst || !mayOriginate s || !s.fab.tx.any (fun t => t.dst == dst && t.job == job) then s
  else
    let t := txGet s dst job
    if t.respAck = t.acked then s
    else sendTo (txSet s { t with acked := t.respAck }) .up .none dst false (reqHdr (deviceId s) dst 0 (epoch s) (req0 7 job 0) false 0 t.respAck) []

/-- RETRANSMIT_TIMER (R214). -/
def execRetransmitTimer (dst : BitVec 16) (job : BitVec 12) (seq : BitVec 32) (s : State) : Res :=
  settled (retransmit s dst.toNat job.toNat seq.toNat)

/-- REQUEST_TIMEOUT (R214). -/
def execRequestTimeout (dst : BitVec 16) (job : BitVec 12) (seq : BitVec 32) (s : State) : Res :=
  settled (requestTimeout s dst.toNat job.toNat seq.toNat)

/-- RETRY_DELAY_EXPIRY (R364). -/
def execRetryDelayExpiry (dst : BitVec 16) (job : BitVec 12) (seq : BitVec 32) (s : State) : Res :=
  settled (retryDue s dst.toNat job.toNat seq.toNat)

/-- IDLE_ACK_TIMER (R212). -/
def execIdleAckTimer (dst : BitVec 16) (job : BitVec 12) (s : State) : Res := settled (idleAck s dst.toNat job.toNat)

/-- GATEWAY_BATCH_DELAY (R220). -/
def execGatewayBatchDelay (district : BitVec 10) (s : State) : Res := settled (flushBatch s district.toNat)

/-- THROTTLE_RELEASE (R363): the queue is below THR_LO sixteenths of E; what was held at its source goes on. -/
def execThrottleRelease (port : BitVec 5) (s : State) : Res :=
  let p := port.toNat
  if 16 * (lget s p).unsent < fget s F.FAB_CFG_THR_LO * fget s F.FAB_CREDIT_SPACE then
    settled (fset s F.FAB_STATUS_THROTTLED 0 (setBit (fget s F.FAB_STATUS_THROTTLED) p false))
  else .next s

/-! ## Commits (R203, R204, R225) -/

/-- The value of `WIN_COMMIT` that a row stands for; a field that the row does not name keeps its value. -/
def commitWord (s : State) (slot op : Nat) (window job : Option Nat) : Nat :=
  slot + 2 ^ 6 * (window.getD (fget s F.WIN_COMMIT_WINDOW) % 64) + 2 ^ 12 * op + 2 ^ 14 * (job.getD (fget s F.WIN_COMMIT_JOB) % 4096)

/-- WIN_WRITE_WINDOW (R225, OP 0). -/
def execWinWriteWindow (slot window : BitVec 6) (s : State) : Res :=
  settled (winCommit s (commitWord s slot.toNat 0 (some window.toNat) none))

/-- WIN_BIND_JOB (R204, OP 1). -/
def execWinBindJob (slot : BitVec 6) (job : BitVec 12) (s : State) : Res :=
  settled (winCommit s (commitWord s slot.toNat 1 none (some job.toNat)))

/-- WIN_UNBIND_JOB (R204, OP 2). -/
def execWinUnbindJob (slot : BitVec 6) (s : State) : Res := settled (winCommit s (commitWord s slot.toNat 2 none none))

/-- WIN_COMMIT_COMPLETE (R203). -/
def execWinCommitComplete (s : State) : Res := if fbit s F.WIN_STATUS_BUSY then settled (winComplete s) else .next s

/-! ## The tiles' remote accesses and transfers (R100, R121 to R123) -/

/-- An instruction whose issue sends something: what follows from it happens with it. -/
def issueRemote (x : Issue) (s : State) (body : State → Nat → Nat → IRes) : Res :=
  match issue x s body with
  | .next t => settled t
  | r => r

/-- XGET (R121). -/
def execXget (x : Issue) (f : BitVec 56) (s : State) : Res := issueRemote x s (bodyGet false f)

/-- XPUT (R121). -/
def execXput (x : Issue) (f : BitVec 56) (s : State) : Res := issueRemote x s (bodyPut f)

/-- XGETP (R121). -/
def execXgetp (x : Issue) (f : BitVec 56) (s : State) : Res := issueRemote x s (bodyGet true f)

/-- XWAIT (R122). -/
def execXwait (x : Issue) (f : BitVec 56) (s : State) : Res := issueRemote x s (bodyXwait f)

/-- FENCE (R122). -/
def execFence (x : Issue) (f : BitVec 56) (s : State) : Res := issueRemote x s (bodyFence f)

/-- LDG (R123). -/
def execLdg (x : Issue) (f : BitVec 56) (s : State) : Res := issueRemote x s (bodyLdg f)

/-- STG (R123). -/
def execStg (x : Issue) (f : BitVec 56) (s : State) : Res := issueRemote x s (bodyStg f)

/-- AMO (R123). -/
def execAmo (x : Issue) (f : BitVec 56) (s : State) : Res := issueRemote x s (bodyAmo f)

/-- REMOTE_RESPONSE_ARRIVAL (R100). -/
def execRemoteResponseArrival (tile : BitVec 12) (s : State) : Res := settled (takeArrival s tile.toNat)

/-- TILE_CTL_ABORT (R134, R287). Log entry 28 (DEDUCED). -/
def execTileCtlAbort (tile : BitVec 12) (s : State) : Res := settled (tileAbortAll s tile.toNat)

/-! ## Application cores (R514, R515) -/

/-- APP_CORE_GLOBAL_ACCESS (R514). The cores of a half in partial reset do nothing. Log entry 134 (DESIGN CHOICE). -/
def execAppCoreGlobalAccess (core : BitVec 4) (job : BitVec 12) (dev : BitVec 16) (pa : BitVec 56) (acc : AppAcc) (tag : BitVec 16)
    (s : State) : Res :=
  if inPreset s (appHalf core.toNat) then .next s
  else settled (appAccess (appCsrs s core.toNat job.toNat dev.toNat pa.toNat) core.toNat job.toNat pa.toNat acc tag.toNat)

/-- APP_CORE_AMO (R515). -/
def execAppCoreAmo (core : BitVec 4) (job : BitVec 12) (dev : BitVec 16) (pa : BitVec 56) (amo : AppAmo) (wide : Bool)
    (operand compare : BitVec 64) (tag : BitVec 16) (s : State) : Res :=
  if inPreset s (appHalf core.toNat) then .next s
  else
    settled (appAmo (appCsrs s core.toNat job.toNat dev.toNat pa.toNat) core.toNat job.toNat pa.toNat amo wide operand.toNat compare.toNat
      tag.toNat)

end Sys2Proof.Machine
end

