-- ==== Sys2Proof/Machine/IlkCmd.lean ====
section
/-!
DEFINITION. The commands of chapter 11: records as they arrive on the signal planes and fabric ports, the interlocking unit's
timers, and what software asks of it.
-/

namespace Sys2Proof.Machine

/-! ## Records (R377 to R394, R411 to R413) -/

/-- A record arrives on a signal plane; its KIND decides. Log entry 54 (DESIGN CHOICE). -/
def recordRow (s : State) (plane : Half) (rec : BitVec 448) : Res := settled (ilkIn s plane rec)

/-- ILK_HEARTBEAT (R381, R382). -/
def execIlkHeartbeat (plane : Half) (rec : BitVec 448) (s : State) : Res := recordRow s plane rec

/-- ILK_PROBE (R383). -/
def execIlkProbe (plane : Half) (rec : BitVec 448) (s : State) : Res := recordRow s plane rec

/-- ILK_ANSWER (R383). -/
def execIlkAnswer (plane : Half) (rec : BitVec 448) (s : State) : Res := recordRow s plane rec

/-- ILK_REQUEST (R386, R388). -/
def execIlkRequest (plane : Half) (rec : BitVec 448) (s : State) : Res := recordRow s plane rec

/-- ILK_PROPOSE (R389). -/
def execIlkPropose (plane : Half) (rec : BitVec 448) (s : State) : Res := recordRow s plane rec

/-- ILK_VOTE (R389). -/
def execIlkVote (plane : Half) (rec : BitVec 448) (s : State) : Res := recordRow s plane rec

/-- EPOCH_RECORD (R391 to R394, R397). -/
def execEpochRecord (plane : Half) (rec : BitVec 448) (s : State) : Res := recordRow s plane rec

/-- ILK_EPOCH_ACK (R393). -/
def execIlkEpochAck (plane : Half) (rec : BitVec 448) (s : State) : Res := recordRow s plane rec

/-- ILK_FETCH (R393, R397). -/
def execIlkFetch (plane : Half) (rec : BitVec 448) (s : State) : Res := recordRow s plane rec

/-- ILK_VERDICT (R390). -/
def execIlkVerdict (plane : Half) (rec : BitVec 448) (s : State) : Res := recordRow s plane rec

/-- ILK_HALL (R413). -/
def execIlkHall (plane : Half) (rec : BitVec 448) (s : State) : Res := recordRow s plane rec

/-- ILK_PORTCHECK (R380). -/
def execIlkPortcheck (port : BitVec 5) (rec : BitVec 448) (s : State) : Res := settled (takePortcheck s port.toNat rec)

/-! ## Timers (R380 to R399, R411, R413) -/

/-- HEARTBEAT_SEND_TIMER (R381). -/
def execHeartbeatSendTimer (s : State) : Res := settled (bothUnits s heartbeat)

/-- SUSPICION_TIMEOUT (R382). -/
def execSuspicionTimeout (member : BitVec 6) (s : State) : Res := settled (bothUnits s (suspect · member.toNat))

/-- PROBE_REPEAT (R383). -/
def execProbeRepeat (member : BitVec 6) (s : State) : Res := settled (bothUnits s (probeAgain · member.toNat))

/-- PROBE_CONFIRM_TIMEOUT (R383). -/
def execProbeConfirmTimeout (member : BitVec 6) (s : State) : Res := settled (bothUnits s (probeLate · member.toNat))

/-- CHAIR_HANDOVER_TIMEOUT (R386). -/
def execChairHandoverTimeout (op : BitVec 4) (subj : BitVec 16) (s : State) : Res := settled (bothUnits s (handover · op.toNat subj.toNat))

/-- VOTE_TIMEOUT (R389). -/
def execVoteTimeout (s : State) : Res := settled (bothUnits s voteLate)

/-- REQUEST_RESEND (R389, R399). -/
def execRequestResend (member : BitVec 6) (s : State) : Res := settled (bothUnits s (requestAgain · member.toNat))

/-- EPOCH_RESEND_TIMER (R393). -/
def execEpochResendTimer (s : State) : Res := settled (bothUnits s epochAgain)

/-- EPOCH_COMPLETE_TIMEOUT (R393). -/
def execEpochCompleteTimeout (s : State) : Res := settled (bothUnits s epochLate)

/-- EPOCH_LOGBOOK_TIMER (R393). -/
def execEpochLogbookTimer (s : State) : Res := settled (epochBook s)

/-- PORTCHECK_SEND_TIMER (R380). -/
def execPortcheckSendTimer (s : State) : Res := settled (portchecks s)

/-- PORTCHECK_MISSING (R380). -/
def execPortcheckMissing (port : BitVec 5) (s : State) : Res := settled (portcheckLate s port.toNat)

/-- FETCH_RETRY (R397). -/
def execFetchRetry (s : State) : Res := settled (bothUnits s (fun s => if s.ilk.fetching then fetchAll s else s))

/-- BOX_SILENCE_FENCE (R397): a device of a formed district that has a box other than itself. Log entry 79 (DESIGN CHOICE). -/
def execBoxSilenceFence (s : State) : Res :=
  settled (if fbit s F.ILK_STATUS_FORMED && (boxList s).any (fun m => memberDev s m != deviceId s) then fence s 3 else s)

/-- SELF_CHECK_DONE (R399). -/
def execSelfCheckDone (passed : Bool) (s : State) : Res := settled (selfCheckDone s passed)

/-- SWITCH_DISCOVERY_DONE (R410, R411). -/
def execSwitchDiscoveryDone (s : State) : Res := settled (discoveryDone s)

/-- FORM_WAIT_EXPIRY (R411). -/
def execFormWaitExpiry (s : State) : Res := settled (formPropose s)

/-- HALL_WAIT_EXPIRY (R413): counted from the device's own formation. Log entry 79 (DESIGN CHOICE). -/
def execHallWaitExpiry (s : State) : Res := settled (if fbit s F.ILK_STATUS_FORMED then hallDone s else s)

/-! ## Commands (R388, R390, R399, R401, R402) -/

/-- ILK_CTL_EXPEL (R390). -/
def execIlkCtlExpel (subj : BitVec 16) (job : BitVec 12) (s : State) : Res := settled (ilkCtl s 1 subj.toNat job.toNat)

/-- ILK_CTL_LEAVE (R388). -/
def execIlkCtlLeave (s : State) : Res := settled (ilkCtl s 2 0 0)

/-- ILK_CTL_READMIT (R399). -/
def execIlkCtlReadmit (s : State) : Res := settled (ilkCtl s 3 0 0)

/-- PARTNER_COPY_DONE (R401). -/
def execPartnerCopyDone (slot : BitVec 6) (pos : BitVec 14) (s : State) : Res := settled (copyDone s slot.toNat pos.toNat)

/-- DISTRICT_CHANGE_END (R402). -/
def execDistrictChangeEnd (s : State) : Res := settled (changeEnd s)

end Sys2Proof.Machine
end

