-- ==== Sys2Proof/Machine/LightCmd.lean ====
section
/-!
DEFINITION. The commands of chapter 09: light, rings, lasers, training, rehearsal and points.
-/

namespace Sys2Proof.Machine

/-- A change of what a port carries: the peers are told what it cut off or made reachable (R362), and everything follows. -/
def lightly (s : State) (f : State → State) : Res := settled (announcing s f)

/-- MARKER_RECEIVED (R297 to R300, R303, R366, R368). Log entry 62 (DESIGN CHOICE). -/
def execMarkerReceived (port : PortId) (lane : BitVec 3) (marker : BitVec 72) (whole : Bool) (s : State) : Res :=
  lightly s (fun s => takeMarker s port.idx lane.toNat marker whole)

/-- LANE_RESTORE_TIMER (R298): 1 ms without a condition; a lane that failed rehearsal waits for the next training. -/
def execLaneRestoreTimer (port : PortId) (lane : BitVec 3) (s : State) : Res :=
  let p := port.idx; let n := lane.toNat
  let l := laneOf s p n
  if 2 ≤ l.why ∧ l.why < 16 ∧ l.miss = 0 ∧ bitAt (fget s F.PORT_RING_LOCKED p) n = true then settled (restoreLane s p n) else .next s

/-- WIDTH_CHANGE_EFFECT (R299, R300): the announced set of a direction takes effect. -/
def execWidthChangeEffect (port : PortId) (tx : Bool) (s : State) : Res :=
  let p := port.idx
  let o := oget s p
  if fbit s F.PORT_STATUS_TRAINING p || !o.trained then .next s
  else
    match if tx then o.txNext else o.rxNext with
    | none => .next s
    | some m =>
      lightly s (fun s =>
        let s := oset s p (if tx then { o with txNext := none } else { o with rxNext := none })
        let s := portGo (announceTx (setLive s p tx m) p) p
        if isSig p then s else coAll s (p / 8))

/-- RING_LOOP_UPDATE (R301): the loop sets the ring's heater. -/
def execRingLoopUpdate (port : PortId) (tx : Bool) (lane : BitVec 3) (heater : BitVec 16) (s : State) : Res :=
  let k := port.idx * 16 + (if tx then 8 else 0) + lane.toNat
  settled { s with opt := { s.opt with heater := mput s.opt.heater k heater.toNat 0 } }

/-- RING_RELOCK_DONE (R303): the sweep stopped at the matching resonance, and the heater setting for the chiplet's band goes to the
logbook, at most once per ring per day; or it found none, and the lane stays excluded. Log entry 158 (DESIGN CHOICE). -/
def execRingRelockDone (port : PortId) (lane : BitVec 3) (found : Bool) (heater : BitVec 16) (s : State) : Res :=
  let p := port.idx; let n := lane.toNat
  if !bitAt (fget s F.PORT_RING_RELOCKING p) n then .next s
  else
    let s := laneBit s F.PORT_RING_RELOCKING p n false
    let s := setLaneRx s p n { laneOf s p n with noMatch := !found }
    if found then
      let k := p * 16 + n
      let s := { s with opt := { s.opt with heater := mput s.opt.heater k heater.toNat 0 } }
      let s := laneBit s F.PORT_RING_LOCKED p n true
      let b := chipBand s (chipletOf p)
      settled (bookDaily s 0x21 k (heaterItem k b) [(p, 6), (n, 3), (b, 3), (heater.toNat, 16)])
    else
      let s := if (laneOf s p n).why = 0 then excludeLane s p n 1 else s
      settled (emitLim s (portHalf p) unitOpt 0x0505 (p * 8 + n) (10000 * ms) [(p, 6), (n, 3)])

/-- RING_RESWEEP_TIMER (R303): a ring without a match is swept again. -/
def execRingResweepTimer (port : PortId) (lane : BitVec 3) (s : State) : Res :=
  let p := port.idx; let n := lane.toNat
  settled (if (laneOf s p n).noMatch then laneBit s F.PORT_RING_RELOCKING p n true else s)

/-- LASER_BIAS_LOOP (R305, R306, R308). Lasers 24 and 25 are the two bonded on the chiplet for its signal port. -/
def execLaserBiasLoop (chiplet : BitVec 2) (laser : Fin 26) (bias : BitVec 10) (mon : BitVec 16) (onGrid : Bool) (s : State) : Res :=
  settled (biasLoop s chiplet.toNat laser.val bias.toNat mon.toNat onGrid)

/-- LASER_BIAS_DAILY (R305): the bank's biases go to the logbook. -/
def execLaserBiasDaily (chiplet : BitVec 2) (s : State) : Res :=
  settled (bookB s 0x20 chiplet.toNat ((chiplet.toNat, 2) :: (List.range 24).map (fun n => (fget s F.LAS_LASER_BIAS (24 * chiplet.toNat + n), 10))))

/-- CHANGEOVER_START (R306): the group is quiet; a marked changeover starts, and one that a steer made wait goes on. -/
def execChangeoverStart (chiplet : BitVec 2) (laser : BitVec 4) (s : State) : Res :=
  let i := 24 * chiplet.toNat + laser.toNat
  settled (coResume (startChangeover s i) i)

/-- CHANGEOVER_DEFER_EXPIRY (R306): the changeover runs as soon as no port of the group steers. -/
def execChangeoverDeferExpiry (chiplet : BitVec 2) (laser : BitVec 4) (s : State) : Res :=
  let i := 24 * chiplet.toNat + laser.toNat
  let s := { s with opt := { s.opt with marks := s.opt.marks.map (fun k => if k.laser = i then { k with due := true } else k) } }
  settled (coResume (startChangeover (coMap s i (fun x => { x with due := true })) i) i)

/-- UNDERSTUDY_ON_GRID (R307, R308). -/
def execUnderstudyOnGrid (chiplet : BitVec 2) (wl : BitVec 3) (s : State) : Res :=
  let u := 24 * chiplet.toNat + 16 + wl.toNat
  match s.opt.changes.find? (fun x => undOf x.laser == u && x.phase == .warming) with
  | none => .next s
  | some x => if lasState s u = 1 then settled (coProceed (coSet s x.laser .waiting) x.laser) else .next s

/-- LASER_FAILURE (R308, R311). -/
def execLaserFailure (chiplet : BitVec 2) (laser : Fin 26) (s : State) : Res :=
  settled (if laser.val < 24 then failLaser s (24 * chiplet.toNat + laser.val) else failSigLaser s chiplet.toNat (laser.val - 24))

/-- LAS_CTL_CHANGE (R309, R340). -/
def execLasCtlChange (chiplet : BitVec 2) (laser : BitVec 4) (s : State) : Res := settled (lasChange s chiplet.toNat laser.toNat)

/-- PRESENCE_SEEN (R322). -/
def execPresenceSeen (ferr : Half) (s : State) : Res :=
  settled ((ferrule ferr).foldl (fun s c => fset s F.LAS_STATUS_PRESENCE c 1) s)

/-- PRESENCE_LOST (R322). -/
def execPresenceLost (ferr : Half) (s : State) : Res :=
  lightly s (fun s => if fbit s F.LAS_STATUS_PRESENCE (2 * ferr.num) then
      (ferrule ferr).foldl (fun s c => emit s ferr unitOpt 0x050D [(c, 2)]) ((ferrule ferr).foldl bankDark s)
    else s)

/-- BANK_LIGHT_UP (R324). -/
def execBankLightUp (chiplet : BitVec 2) (s : State) : Res := lightly s (bankUp · chiplet.toNat)

/-- PORT_TRAINING_COMPLETE (R324). -/
def execPortTrainingComplete (port : PortId) (s : State) : Res := lightly s (trainingDone · port.idx)

/-- PORT_CTL_RETRAIN (R329). -/
def execPortCtlRetrain (port : PortId) (s : State) : Res := lightly s (portRetrain · port.idx)

/-- PORT_CTL_RELOCK (R329). -/
def execPortCtlRelock (port : PortId) (rings : BitVec 8) (s : State) : Res := settled (portRelock s port.idx rings.toNat)

/-- PORT_CTL_CNT_CLR (R329). -/
def execPortCtlCntClr (port : PortId) (s : State) : Res := settled (portCntClr s port.idx)

/-- REHEARSAL_DWELL (R315). -/
def execRehearsalDwell (port : BitVec 5) (errors : BitVec 32) (bytes : BitVec 32) (s : State) : Res :=
  lightly s (dwell · port.toNat errors.toNat bytes.toNat)

/-- REHEARSAL_NO_PATTERN (R316). -/
def execRehearsalNoPattern (port : BitVec 5) (s : State) : Res := lightly s (noPattern · port.toNat)

/-- PORT_STEER_GO (R319, R331). -/
def execPortSteerGo (port : BitVec 5) (fibre : BitVec 4) (s : State) : Res :=
  settled (steer (fset s F.PORT_STEER_FIBRE port.toNat fibre.toNat) port.toNat fibre.toNat none)

/-- CONVERTER_SAMPLE (R542). -/
def execConverterSample (chiplet : BitVec 2) (value : BitVec 16) (s : State) : Res := settled (sample s chiplet.toNat value.toNat)

/-- LOSS_OF_LIGHT (R298, R543). -/
def execLossOfLight (port : PortId) (lane : BitVec 3) (s : State) : Res :=
  settled (if lane.toNat < laneCount port.idx then excludeLane s port.idx lane.toNat 2 else s)

/-- STEER_SWITCH_DONE (R320): the marker is the first one the port takes on the new fibre. -/
def execSteerSwitchDone (port : BitVec 5) (marker : BitVec 72) (s : State) : Res := lightly s (steerDone · port.toNat marker)

/-- STEER_TIMEOUT (R321). -/
def execSteerTimeout (port : BitVec 5) (s : State) : Res := lightly s (steerLate · port.toNat)

end Sys2Proof.Machine
end

