-- ==== Sys2Proof/Machine/LinkCmd.lean ====
section
/-!
DEFINITION. The commands of chapter 10: flits as they arrive, the link level and its timers.
-/

namespace Sys2Proof.Machine

/-- HEAD_FLIT_RECEIVED (R344). -/
def execHeadFlitReceived (port : PortId) (flit : BitVec 512) (err : Damage) (s : State) : Res :=
  settled (receive port flit err s takeHead)

/-- DATA_FLIT_RECEIVED (R344). -/
def execDataFlitReceived (port : PortId) (flit : BitVec 512) (err : Damage) (s : State) : Res :=
  settled (receive port flit err s takeData)

/-- IDLE_FLIT_RECEIVED (R343, R354): its ACK and one credit count. -/
def execIdleFlitReceived (port : PortId) (flit : BitVec 512) (err : Damage) (s : State) : Res :=
  settled (receive port flit err s (fun s p f =>
    let h := f.toNat
    pump (takeCredit (takeAck s p (bitsAt h 48 16)) p (bitsAt h 18 4) (bitsAt h 22 10)) p))

/-- CONTROL_FLIT_RECEIVED (R346). In the discard state only a REPLAY in slot 1 with the expected SEQ and no reserved bit is
looked at (R348). -/
def execControlFlitReceived (port : PortId) (flit : BitVec 512) (slot1 : Bool) (err : Damage) (s : State) : Res :=
  let p := port.idx
  if !canTake s p then .next s
  else
    let s := if fbit s F.FAB_PORT_STATUS_HELD p then releaseHold s p else s
    let s := noteSlotCorr s p (match decodeBlock 4 [] err with | .corrected _ => err | _ => 0)
    match slotRead flit err with
    | none => settled (if fbit s F.FAB_PORT_STATUS_DISCARD p then s else enterDiscard s p)
    | some f =>
      let h := f.toNat
      if fbit s F.FAB_PORT_STATUS_DISCARD p then
        if slot1 && bitAt h 353 && bitsAt h 357 11 == 0 && bitsAt h 400 112 == 0 && bitsAt h 368 16 == (lget s p).rxExp then
          settled (takeControl s p f)
        else .next s
      else settled (takeControl s p f)

/-- LINK_NAK (R348). -/
def execLinkNak (port : PortId) (seq : BitVec 16) (s : State) : Res :=
  settled (if canTake s port.idx then takeNak s port.idx seq.toNat else s)

/-- LINK_REPLAY (R348). -/
def execLinkReplay (port : PortId) (seq : BitVec 16) (s : State) : Res :=
  settled (if canTake s port.idx then takeReplay s port.idx seq.toNat else s)

/-- MISS_NOTICE (R362). -/
def execMissNotice (port : BitVec 5) (district : Bool) (again : Bool) (id : BitVec 16) (s : State) : Res :=
  settled (takeMiss s port.toNat district again id.toNat)

/-- LINK_RTO_EXPIRY (R349): replays from the oldest unacknowledged flit; the 9th replay in a row without progress takes the
link down. A held link suspends the timeout (R368). -/
def execLinkRtoExpiry (port : PortId) (s : State) : Res :=
  let p := port.idx
  let l := lget s p
  if !canSend s p then .next s
  else
    match l.unacked with
    | [] => .next s
    | _ => settled (tryReplay s p l.oldest)

/-- CREDIT_REPORT_TIMER (R354): a control flit reports every cumulative count. -/
def execCreditReportTimer (port : PortId) (s : State) : Res :=
  let p := port.idx
  settled (if canSend s p then send s (.flits p [controlFlit (lget s p) false false 0]) else s)

end Sys2Proof.Machine
end

