-- ==== Sys2Proof/Machine/LysCmd.lean ====
section
/-!
DEFINITION. The Lysdex link's commands (R474 to R490), management apart.
-/

namespace Sys2Proof.Machine

/-- A message of the companion is taken; its header decides. With the link down nothing arrives. Log entries 54 (DESIGN CHOICE), 110 (DEDUCED). -/
def lysRow (s : State) (hdr : BitVec 128) (payload : List (BitVec 128)) : Res :=
  if fbit s F.LYS_STATUS_UP then settled (lysInOrder (lysTake s (hdr :: payload)) hdr payload) else .next s

/-- LRST_N (R476). -/
def execLrstN (low : Bool) (s : State) : Res := settled (lysReset s low)

/-- LYS_LINK_UP (R475, R488). -/
def execLysLinkUp (x16 : Bool) (s : State) : Res := settled (lysUp s x16)

/-- LYS_TRAIN_RETRY (R475). -/
def execLysTrainRetry (s : State) : Res := settled (lysTrainRetry s)

/-- LYS_FEATURE_TIMEOUT (R488). -/
def execLysFeatureTimeout (s : State) : Res := settled (lysFeatureTimeout s)

/-- LYS_FLIT (R477, R478). Log entry 103 (DESIGN CHOICE). -/
def execLysFlit (flit : BitVec 2000) (corrected : Bool) (s : State) : Res := settled (lysFlitIn s flit corrected)

/-- LYS_REPLAY_TIMEOUT (R478). -/
def execLysReplayTimeout (s : State) : Res := settled (lysReplayTimeout s)

/-- LYS_FEATURE (R488). -/
def execLysFeature (hdr : BitVec 128) (s : State) : Res := lysRow s hdr []

/-- LYS_LOAD (R482). -/
def execLysLoad (hdr : BitVec 128) (s : State) : Res := lysRow s hdr []

/-- LYS_STORE (R482). -/
def execLysStore (hdr : BitVec 128) (payload : List (BitVec 128)) (s : State) : Res := lysRow s hdr payload

/-- LYS_ATOMIC (R482). -/
def execLysAtomic (hdr : BitVec 128) (payload : List (BitVec 128)) (s : State) : Res := lysRow s hdr payload

/-- LYS_READ (R482). -/
def execLysRead (hdr : BitVec 128) (s : State) : Res := lysRow s hdr []

/-- LYS_WRITE (R482). -/
def execLysWrite (hdr : BitVec 128) (payload : List (BitVec 128)) (s : State) : Res := lysRow s hdr payload

/-- LYS_READ_SHARED (R483). -/
def execLysReadShared (hdr : BitVec 128) (s : State) : Res := lysRow s hdr []

/-- LYS_READ_OWN (R483). -/
def execLysReadOwn (hdr : BitVec 128) (s : State) : Res := lysRow s hdr []

/-- LYS_EVICT (R485). -/
def execLysEvict (hdr : BitVec 128) (s : State) : Res := lysRow s hdr []

/-- LYS_WRITEBACK (R485, R486). -/
def execLysWriteback (hdr : BitVec 128) (payload : List (BitVec 128)) (s : State) : Res := lysRow s hdr payload

/-- LYS_RECALL_ACK (R485, R486). -/
def execLysRecallAck (hdr : BitVec 128) (payload : List (BitVec 128)) (s : State) : Res := lysRow s hdr payload

/-- LYS_CREDIT (R481). -/
def execLysCredit (hdr : BitVec 128) (s : State) : Res := lysRow s hdr []

/-- LYS_RESERVED_MT (R480). -/
def execLysReservedMt (hdr : BitVec 128) (s : State) : Res := lysRow s hdr []

/-- RECALL_TIMEOUT (R486). -/
def execRecallTimeout (tag : BitVec 12) (s : State) : Res := settled (recallTimeout s tag.toNat)

/-- LYS_CTL_RETRAIN (R490, R492). -/
def execLysCtlRetrain (s : State) : Res := settled (lysDown s 4)

/-- LYS_CTL_CNT_CLR (R492). -/
def execLysCtlCntClr (s : State) : Res := settled (lysCntClr s)

end Sys2Proof.Machine
end

