-- ==== Sys2Proof/Machine/Matrix.lean ====
section
/-!
DEFINITION. Matrix instructions and read-out (R41, R42, R110 to R114).
-/

namespace Sys2Proof.Machine

/-- A thread held at an opener (R41): it joins the held openers, once. Log entry 25 (DEDUCED). -/
def holdOpener (s : State) (t : Nat) (o : Opener) : IRes :=
  let a := (tget s t).array
  if a.waiters.any (fun w => w.thread == o.thread) then .hold s else .hold (setArray s t { a with waiters := a.waiters ++ [o] })

/-- A matrix instruction of opcode `op` (R110): an opener closes its own thread's open group first (R42), waits for another
thread's, and else opens its group; a member joins the open group of its thread, or is a sequence error. -/
def mmaIssue (op : Nat) (x : Issue) (f : BitVec 56) (s : State) : Res :=
  issue x s fun s t h =>
    let th := (tget s t).th h
    let r : Nat → Nat := fun n => (th.sreg n).toNat
    let o : Opener := { thread := h, word := f.toNat * 256 + op, sa := r (wf f 8 5), sb := r (wf f 13 5), ss := r (wf f 42 5) }
    let a := (tget s t).array
    if wf f 47 17 ≠ 0 then .fault s cIllegal 0
    else if wb f 20 then
      match a.open? with
      | some g =>
        if g.owner = h then
          let s := seqError (setArray s t a.closeOpen) t
          if (tget s t).array.full then holdOpener s t o else .go (admitOpener s t o)
        else holdOpener s t o
      | none =>
        if a.full || !a.waiters.isEmpty then holdOpener s t o else .go (admitOpener s t o)
    else
      match a.open? with
      | some g =>
        if g.owner ≠ h then .go (seqError s t)
        else if a.full then .hold s
        else .go (enqueue s t g o)
      | none => .go (seqError s t)

/-- MMA4, opcode 0x40 (R110). -/
def execMma4 (x : Issue) (f : BitVec 56) (s : State) : Res := mmaIssue 0x40 x f s

/-- MMA8, opcode 0x41 (R110). -/
def execMma8 (x : Issue) (f : BitVec 56) (s : State) : Res := mmaIssue 0x41 x f s

/-- MMA16, opcode 0x42 (R110). -/
def execMma16 (x : Issue) (f : BitVec 56) (s : State) : Res := mmaIssue 0x42 x f s

/-- The read-out an `mrd` issues, with seed, logical tile number and step as they stand (R113, R114). -/
def readOutOf (s : State) (t h : Nat) (f : BitVec 56) : ReadOut :=
  let th := (tget s t).th h
  { thread := h, desc := (th.sreg (wf f 8 5)).toNat, fmt := wf f 13 2, sr := wb f 15,
    stream := (th.sreg (wf f 16 5)).toNat % 2 ^ 32, pitch := wf f 21 4, seed := fget s F.TILE_JOB_SEED_SEED t,
    ltn := fget s F.TILE_LOGICAL_LTN t, step := fget s F.TILE_STEP_STEP t }

/-- MRD, opcode 0x48 (R113): closes the open group and issues its read-out; a thread that owns no open group makes a
sequence error (R42). -/
def execMrd (x : Issue) (f : BitVec 56) (s : State) : Res :=
  issue x s fun s t h =>
    let a := (tget s t).array
    if wf f 25 39 ≠ 0 then .fault s cIllegal 0
    else
      match a.open? with
      | some g =>
        if g.owner ≠ h then .go (seqError s t)
        else .go (setArray s t { a.setGrp { g with readOut := some (readOutOf s t h f) } with openG := none })
      | none => .go (seqError s t)

end Sys2Proof.Machine
end

