-- ==== Sys2Proof/Machine/PwrCmd.lean ====
section
/-!
DEFINITION. The commands of power and heat (R436 to R448).
-/

namespace Sys2Proof.Machine

/-- POWER_MESSAGE_TIMER (R437). Log entry 90 (DESIGN CHOICE). -/
def execPowerMessageTimer (h : Half) (meas pkg input : BitVec 16) (below : Bool) (s : State) : Res :=
  settled (powerTimer s h meas.toNat pkg.toNat input.toNat below)

/-- GRANT_EFFECT (R437, R438). Log entry 5 (DEDUCED). -/
def execGrantEffect (h : Half) (s : State) : Res := settled (grantEffect s h)

/-- SLOW_CONTROL_TICK (R439). -/
def execSlowControlTick (h : Half) (mean : BitVec 16) (s : State) : Res := settled (slowControl s h mean.toNat)

/-- FAST_TRIP (R439). -/
def execFastTrip (h : Half) (s : State) : Res := settled (fastTrip s h)

/-- FAST_TRIP_END (R439): slow control takes over from the cut target. -/
def execFastTripEnd (h : Half) (s : State) : Res := settled (fset s F.PWR_STATUS_FAST h.num 0)

/-- ADAPTIVE_LOOP_TICK (R440, R442). Log entry 91 (DEDUCED). -/
def execAdaptiveLoopTick (block : BitVec 6) (waves : BitVec 12) (slack : BitVec 7) (s : State) : Res :=
  settled (adaptive1 s block.toNat waves.toNat slack.toNat)

/-- THERMAL_MODEL_UPDATE (R443 to R447). Log entry 90 (DESIGN CHOICE). -/
def execThermalModelUpdate (h : Half) (fast : Bool) (inlet outlet : BitVec 12) (power : List (BitVec 6 × BitVec 16)) (s : State) : Res :=
  settled (thermalUpdate s h fast inlet.toNat outlet.toNat (power.map (fun p => (p.1.toNat, p.2.toNat))))

/-- T4_THROTTLE_STEP (R446). -/
def execT4ThrottleStep (block : BitVec 6) (s : State) : Res := settled (t4Step s block.toNat)

/-- CALIBRATION (R444). Log entry 90 (DESIGN CHOICE). -/
def execCalibration (h : Half) (offsets : List (BitVec 6 × BitVec 16)) (diode : BitVec 12) (s : State) : Res :=
  settled (calibrate s h (offsets.map (fun o => (o.1.toNat, o.2.toInt))) diode.toNat)

end Sys2Proof.Machine
end

