-- ==== Sys2Proof/Machine/Scalar.lean ====
section
/-!
DEFINITION. Scalar arithmetic, local loads and stores, and branches (R106 to R109).
-/

namespace Sys2Proof.Machine

/-- A scalar operation of format S (R105, R106): FN must be 0. -/
def scalarOp (x : Issue) (f : BitVec 56) (s : State) (op : W64 → W64 → W64) : Res :=
  issue x s fun s t h =>
    let th := (tget s t).th h
    if opFn f ≠ 0 then .fault s cIllegal 0 else goS s t h (opD f) (op (th.sreg (opA f)) (op2 th f))

/-- R106: sd = sa + op2, wrapping. -/
def aluAdd (a b : W64) : W64 := a + b

/-- R106: sd = sa − op2, wrapping. -/
def aluSub (a b : W64) : W64 := a - b

/-- R106: bitwise and. -/
def aluAnd (a b : W64) : W64 := a &&& b

/-- R106: bitwise or. -/
def aluOr (a b : W64) : W64 := a ||| b

/-- R106: bitwise exclusive or. -/
def aluXor (a b : W64) : W64 := a ^^^ b

/-- R106: shift left by op2[5:0]. -/
def aluShl (a b : W64) : W64 := a <<< (b.toNat % 64)

/-- R106: shift right by op2[5:0], filling with 0. -/
def aluShr (a b : W64) : W64 := a >>> (b.toNat % 64)

/-- R106: shift right by op2[5:0], filling with the sign. -/
def aluSra (a b : W64) : W64 := a.sshiftRight (b.toNat % 64)

/-- R106: the low 64 bits of the product. -/
def aluMul (a b : W64) : W64 := a * b

/-- R106: the high 64 bits of the signed product. -/
def aluMulh (a b : W64) : W64 := BitVec.ofInt 64 (a.toInt * b.toInt / 2 ^ 64)

/-- R106: signed minimum. -/
def aluMin (a b : W64) : W64 := if b.toInt < a.toInt then b else a

/-- R106: signed maximum. -/
def aluMax (a b : W64) : W64 := if a.toInt < b.toInt then b else a

/-- R106: 1 where sa < op2, signed. -/
def aluSlt (a b : W64) : W64 := if a.toInt < b.toInt then 1 else 0

/-- R106: 1 where sa < op2, unsigned. -/
def aluSltu (a b : W64) : W64 := if a.toNat < b.toNat then 1 else 0

/-- R106, R107: signed quotient toward zero; all ones for a divisor of 0; −2^63 by −1 wraps to −2^63. -/
def aluDiv (a b : W64) : W64 := if b = 0 then BitVec.allOnes 64 else BitVec.ofInt 64 (a.toInt.tdiv b.toInt)

/-- R106, R107: unsigned quotient; all ones for a divisor of 0. -/
def aluDivu (a b : W64) : W64 := if b = 0 then BitVec.allOnes 64 else a / b

/-- R106, R107: remainder with the sign of sa; sa for a divisor of 0. -/
def aluRem (a b : W64) : W64 := if b = 0 then a else BitVec.ofInt 64 (a.toInt.tmod b.toInt)

/-- R106, R107: unsigned remainder; sa for a divisor of 0. -/
def aluRemu (a b : W64) : W64 := if b = 0 then a else a % b

/-- ADD, opcode 0x00 (R106). -/
def execAdd (x : Issue) (f : BitVec 56) (s : State) : Res := scalarOp x f s aluAdd

/-- SUB, opcode 0x01 (R106). -/
def execSub (x : Issue) (f : BitVec 56) (s : State) : Res := scalarOp x f s aluSub

/-- AND, opcode 0x02 (R106). -/
def execAnd (x : Issue) (f : BitVec 56) (s : State) : Res := scalarOp x f s aluAnd

/-- OR, opcode 0x03 (R106). -/
def execOr (x : Issue) (f : BitVec 56) (s : State) : Res := scalarOp x f s aluOr

/-- XOR, opcode 0x04 (R106). -/
def execXor (x : Issue) (f : BitVec 56) (s : State) : Res := scalarOp x f s aluXor

/-- SHL, opcode 0x05 (R106). -/
def execShl (x : Issue) (f : BitVec 56) (s : State) : Res := scalarOp x f s aluShl

/-- SHR, opcode 0x06 (R106). -/
def execShr (x : Issue) (f : BitVec 56) (s : State) : Res := scalarOp x f s aluShr

/-- SRA, opcode 0x07 (R106). -/
def execSra (x : Issue) (f : BitVec 56) (s : State) : Res := scalarOp x f s aluSra

/-- MUL, opcode 0x08 (R106). -/
def execMul (x : Issue) (f : BitVec 56) (s : State) : Res := scalarOp x f s aluMul

/-- MULH, opcode 0x09 (R106). -/
def execMulh (x : Issue) (f : BitVec 56) (s : State) : Res := scalarOp x f s aluMulh

/-- MIN, opcode 0x0A (R106). -/
def execMin (x : Issue) (f : BitVec 56) (s : State) : Res := scalarOp x f s aluMin

/-- MAX, opcode 0x0B (R106). -/
def execMax (x : Issue) (f : BitVec 56) (s : State) : Res := scalarOp x f s aluMax

/-- SLT, opcode 0x0C (R106). -/
def execSlt (x : Issue) (f : BitVec 56) (s : State) : Res := scalarOp x f s aluSlt

/-- SLTU, opcode 0x0D (R106). -/
def execSltu (x : Issue) (f : BitVec 56) (s : State) : Res := scalarOp x f s aluSltu

/-- DIV, opcode 0x0E (R106). -/
def execDiv (x : Issue) (f : BitVec 56) (s : State) : Res := scalarOp x f s aluDiv

/-- DIVU, opcode 0x0F (R106). -/
def execDivu (x : Issue) (f : BitVec 56) (s : State) : Res := scalarOp x f s aluDivu

/-- REM, opcode 0x10 (R106). -/
def execRem (x : Issue) (f : BitVec 56) (s : State) : Res := scalarOp x f s aluRem

/-- REMU, opcode 0x11 (R106). -/
def execRemu (x : Issue) (f : BitVec 56) (s : State) : Res := scalarOp x f s aluRemu

/-- LUI, opcode 0x12 (R106): sd = IMM << 32; I must be 1. -/
def execLui (x : Issue) (f : BitVec 56) (s : State) : Res :=
  issue x s fun s t h =>
    if opFn f ≠ 0 ∨ opI f = false then .fault s cIllegal 0 else goS s t h (opD f) (opImm f <<< 32)

/-- Width in bytes of a `ld` or `st` (FN[1:0]). -/
def ldWidth (f : BitVec 56) : Nat := 2 ^ (opFn f % 4)

/-- LD, opcode 0x20 (R106, R108): sd = the bytes at sa + IMM, zero- or sign-extended. -/
def execLd (x : Issue) (f : BitVec 56) (s : State) : Res :=
  issue x s fun s t h =>
    let th := (tget s t).th h
    let a := (th.sreg (opA f) + opImm f).toNat
    let n := ldWidth f
    if 8 ≤ opFn f ∨ opI f = false then .fault s cIllegal 0
    else if a % n ≠ 0 ∨ 0x80000 ≤ a then .fault s cAddress (faultBlk a)
    else if blockPending (tget s t) (a / 64) then .hold s
    else
      let r := readBlock s t (a / 64)
      match r.2 with
      | none => .fault r.1 cLocalUncorr (a / 64)
      | some v =>
        let w := blockBytes v (a % 64) n
        goS r.1 t h (opD f) (if bitAt (opFn f) 2 then BitVec.ofInt 64 (sext w (8 * n)) else BitVec.ofNat 64 w)

/-- ST, opcode 0x21 (R106, R108): the low bytes of sb at sa + IMM, merged into the corrected block. -/
def execSt (x : Issue) (f : BitVec 56) (s : State) : Res :=
  issue x s fun s t h =>
    let th := (tget s t).th h
    let a := (th.sreg (opA f) + opImm f).toNat
    let n := ldWidth f
    if 4 ≤ opFn f ∨ opI f = false then .fault s cIllegal 0
    else if a % n ≠ 0 ∨ 0x80000 ≤ a then .fault s cAddress (faultBlk a)
    else if blockPending (tget s t) (a / 64) then .hold s
    else
      let r := readBlock s t (a / 64)
      match r.2 with
      | none => .fault r.1 cLocalUncorr (a / 64)
      | some v => .go (writeBlock r.1 t (a / 64) (mergeBytes v (a % 64) n (th.sreg (opB f)).toNat))

/-- A taken branch (R109): a target outside 0 to 0x7FF8, or not a multiple of 8, faults. -/
def branchTo (s : State) (target : Int) : IRes :=
  if target < 0 ∨ 0x7FF8 < target ∨ target % 8 ≠ 0 then .fault s cAddress 0 else .jump s target.toNat

/-- The condition CC of `b` between two registers; none for a reserved code (R109). -/
def branchCond (cc : Nat) (a b : W64) : Option Bool :=
  match cc with
  | 0 => some (a == b)
  | 1 => some (a != b)
  | 2 => some (decide (a.toInt < b.toInt))
  | 3 => some (decide (b.toInt ≤ a.toInt))
  | 4 => some (decide (a.toNat < b.toNat))
  | 5 => some (decide (b.toNat ≤ a.toNat))
  | 6 => some true
  | _ => none

/-- Reserved bits of format B, with CC where the instruction gives it no use (R105). -/
def bResOk (f : BitVec 56) (useCc : Bool) : Bool := wf f 23 1 == 0 && wf f 28 4 == 0 && (useCc || opCc f == 0)

/-- B, opcode 0x30 (R109). -/
def execB (x : Issue) (f : BitVec 56) (s : State) : Res :=
  issue x s fun s t h =>
    let th := (tget s t).th h
    match branchCond (opCc f) (th.sreg (opA f)) (th.sreg (opB f)) with
    | none => .fault s cIllegal 0
    | some c =>
      if !bResOk f true then .fault s cIllegal 0
      else if c then branchTo s (th.pc + opOff8 f) else .go s

/-- BCF, opcode 0x31 (R109): branches when the condition field ANDed with sa is not zero. -/
def execBcf (x : Issue) (f : BitVec 56) (s : State) : Res :=
  issue x s fun s t h =>
    let th := (tget s t).th h
    if !bResOk f false then .fault s cIllegal 0
    else if Nat.land th.cond (th.sreg (opA f)).toNat ≠ 0 then branchTo s (th.pc + opOff8 f) else .go s

/-- JAL, opcode 0x32 (R109): sd receives the program counter + 8. -/
def execJal (x : Issue) (f : BitVec 56) (s : State) : Res :=
  issue x s fun s t h =>
    let th := (tget s t).th h
    if !bResOk f false then .fault s cIllegal 0
    else
      match branchTo s (th.pc + opOff8 f) with
      | .jump s pc => .jump (setThread s t h (th.setS (opD f) (BitVec.ofNat 64 (th.pc + 8)))) pc
      | r => r

/-- JR, opcode 0x33 (R109): jumps to sa + OFF × 8, a 64-bit sum that wraps. Log entry 140 (DEDUCED). -/
def execJr (x : Issue) (f : BitVec 56) (s : State) : Res :=
  issue x s fun s t h =>
    let th := (tget s t).th h
    if !bResOk f false then .fault s cIllegal 0 else branchTo s (th.sreg (opA f) + BitVec.ofInt 64 (opOff8 f)).toNat

end Sys2Proof.Machine
end

