-- ==== Sys2Proof/Machine/SecCmd.lean ====
section
/-!
DEFINITION. The commands of the security core (R508 to R513) and of the log writer (R517, R518, R544).
-/

namespace Sys2Proof.Machine

/-- SEC_WRITE_BANK (R511). -/
def execSecWriteBank (s : State) : Res := settled (secBank s)

/-- SEC_WRITE_CONFIG (R508, R527). -/
def execSecWriteConfig (s : State) : Res := settled (secConfig s)

/-- SEC_ENROL (R508). -/
def execSecEnrol (s : State) : Res := settled (secEnrol s)

/-- SEC_LIVE_LOAD (R512). -/
def execSecLiveLoad (s : State) : Res := .next (secLive s)

/-- SEC_UPDATE_DONE (R511). Log entry 5 (DEDUCED). -/
def execSecUpdateDone (ok : Bool) (s : State) : Res := .next (updateDone s ok)

/-- LIVE_LOAD_CORE_DONE (R512). -/
def execLiveLoadCoreDone (ok : Bool) (s : State) : Res := .next (coreDone s ok)

/-- SEC_ATTEST (R510). -/
def execSecAttest (s : State) : Res := settled (secAttest s)

/-- ATTEST_DONE (R510). -/
def execAttestDone (s : State) : Res := settled (attestDone s)

/-- LOG_RECORD_WRITE (R544). -/
def execLogRecordWrite (s : State) : Res := settled (logWrite s false)

/-- CUE_POINT_WRITE (R544). -/
def execCuePointWrite (s : State) : Res := settled (logWrite s true)

end Sys2Proof.Machine
end

