-- ==== Sys2Proof/Machine/Vector.lean ====
section
/-!
DEFINITION. The vector unit (R94, R115 to R120): every operation is a function of lanes, applied to all 64.
-/

namespace Sys2Proof.Machine

/-- The condition bits of lane results (R128). -/
def condOf (l : List VRes) : Nat :=
  flagOr (if l.any (·.vnan) then cVnan else 0) (if l.any (·.vovf) then cVovf else 0)

/-- A plain lane result, raising nothing. -/
def plain (c : Nat) : VRes := ⟨c, false, false⟩

/-- Write 64 lane results to vector register vd and raise their condition bits. -/
def goLanes (s : State) (t h vd : Nat) (l : List VRes) : IRes :=
  let th := (tget s t).th h
  let th := l.zipIdx.foldl (fun th p => th.setLane vd p.2 (BitVec.ofNat 32 p.1.code)) th
  .go (setThread s t h { th with cond := flagOr th.cond (condOf l) })

/-- The lanes of a vector register. -/
def lanes (th : Thread) (r : Nat) : List Nat := (List.range 64).map (fun l => (th.lane r l).toNat)

/-- An operation of va, vb, vc and the old vd, lane by lane; `ok` says whether FN is a defined function value. -/
def laneOp (x : Issue) (f : BitVec 56) (s : State) (ok : Nat → Bool) (op : Nat → Nat → Nat → Nat → Nat → VRes) : Res :=
  issue x s fun s t h =>
    let th := (tget s t).th h
    if !vResOk f false false || !ok (vFn f) then .fault s cIllegal 0
    else
      goLanes s t h (vD f) ((List.range 64).map (fun l =>
        op (vFn f) (th.lane (vA f) l).toNat (th.lane (vB f) l).toNat (th.lane (vC f) l).toNat (th.lane (vD f) l).toNat))

/-- Every function value. -/
def anyFn (_ : Nat) : Bool := true

/-- VADD, opcode 0x53 (R115): vd = va + vb. -/
def execVadd (x : Issue) (f : BitVec 56) (s : State) : Res := laneOp x f s (anyFn) (fun _ a b _ _ => plain (fAdd a b))

/-- VSUB, opcode 0x54 (R115): vd = va − vb. -/
def execVsub (x : Issue) (f : BitVec 56) (s : State) : Res := laneOp x f s (anyFn) (fun _ a b _ _ => plain (fSub a b))

/-- VMUL, opcode 0x55 (R115): vd = va × vb. -/
def execVmul (x : Issue) (f : BitVec 56) (s : State) : Res := laneOp x f s (anyFn) (fun _ a b _ _ => plain (fMul a b))

/-- VFMA, opcode 0x56 (R115): vd = va × vb + vc, one rounding. -/
def execVfma (x : Issue) (f : BitVec 56) (s : State) : Res := laneOp x f s (anyFn) (fun _ a b c _ => plain (fFma a b c))

/-- VFMA2, opcode 0x57 (R115): vd = vd × va + vb × vc, one rounding. -/
def execVfma2 (x : Issue) (f : BitVec 56) (s : State) : Res := laneOp x f s (anyFn) (fun _ a b c d => plain (fFma2 d a b c))

/-- VMIN, opcode 0x58 (R115): IEEE minimum. -/
def execVmin (x : Issue) (f : BitVec 56) (s : State) : Res := laneOp x f s (anyFn) (fun _ a b _ _ => plain (fMin a b))

/-- VMAX, opcode 0x59 (R115): IEEE maximum. -/
def execVmax (x : Issue) (f : BitVec 56) (s : State) : Res := laneOp x f s (anyFn) (fun _ a b _ _ => plain (fMax a b))

/-- VCMP, opcode 0x5A (R115): all ones where the relation of FN holds. -/
def execVcmp (x : Issue) (f : BitVec 56) (s : State) : Res := laneOp x f s (fun n => decide (n < 4)) (fun n a b _ _ => plain (if fCmp n a b then 0xFFFFFFFF else 0))

/-- VSEL, opcode 0x5B (R115): vd = va where vc is not 0, else vb. -/
def execVsel (x : Issue) (f : BitVec 56) (s : State) : Res := laneOp x f s (anyFn) (fun _ a b c _ => plain (if c ≠ 0 then a else b))

/-- VDIV, opcode 0x5C (R115): vd = va / vb (R119). -/
def execVdiv (x : Issue) (f : BitVec 56) (s : State) : Res := laneOp x f s (anyFn) (fun _ a b _ _ => fDiv a b)

/-- VRSQ, opcode 0x5D (R115): vd = 1 / √va (R119). -/
def execVrsq (x : Issue) (f : BitVec 56) (s : State) : Res := laneOp x f s (anyFn) (fun _ a _ _ _ => fRsqrt a)

/-- VEXP2, opcode 0x5E (R115): vd = 2^va (R119). -/
def execVexp2 (x : Issue) (f : BitVec 56) (s : State) : Res := laneOp x f s (anyFn) (fun _ a _ _ _ => fExp2 a)

/-- VSEXP, opcode 0x5F (R115): vd = 2^(va − vb) (R118). -/
def execVsexp (x : Issue) (f : BitVec 56) (s : State) : Res := laneOp x f s (anyFn) (fun _ a b _ _ => fSexp a b)

/-- VABS, opcode 0x63 (R115): vd = |va|. Log entry 30 (DEDUCED). -/
def execVabs (x : Issue) (f : BitVec 56) (s : State) : Res := laneOp x f s (anyFn) (fun _ a _ _ _ => plain (if fp32 a = .nan then nan32 else a % 2 ^ 31))

/-- VIADD, opcode 0x64 (R115): 32-bit integer sum. -/
def execViadd (x : Issue) (f : BitVec 56) (s : State) : Res := laneOp x f s (anyFn) (fun _ a b _ _ => plain ((a + b) % 2 ^ 32))

/-- VAND, opcode 0x65 (R115): bitwise and. -/
def execVand (x : Issue) (f : BitVec 56) (s : State) : Res := laneOp x f s (anyFn) (fun _ a b _ _ => plain (Nat.land a b))

/-- VOR, opcode 0x66 (R115): bitwise or. -/
def execVor (x : Issue) (f : BitVec 56) (s : State) : Res := laneOp x f s (anyFn) (fun _ a b _ _ => plain (Nat.lor a b))

/-- VXOR, opcode 0x67 (R115): bitwise exclusive or. -/
def execVxor (x : Issue) (f : BitVec 56) (s : State) : Res := laneOp x f s (anyFn) (fun _ a b _ _ => plain (Nat.xor a b))

/-- VBC, opcode 0x52 (R115): sa[31:0] in every lane. -/
def execVbc (x : Issue) (f : BitVec 56) (s : State) : Res :=
  issue x s fun s t h =>
    if !vResOk f false false then .fault s cIllegal 0
    else goLanes s t h (vD f) (List.replicate 64 (plain ((((tget s t).th h).sreg (vSA f)).toNat % 2 ^ 32)))

/-- VLANE, opcode 0x68 (R115): the scalar register SA receives lane OFF[5:0] of va, zero-extended. -/
def execVlane (x : Issue) (f : BitVec 56) (s : State) : Res :=
  issue x s fun s t h =>
    let th := (tget s t).th h
    if !vResOk f false false then .fault s cIllegal 0
    else goS s t h (vSA f) ((th.lane (vA f) (wf f 44 6)).setWidth 64)

/-- Blocks that a vector memory type moves (R116). -/
def vBlocks (ty : Nat) : Nat := if ty = 1 then 2 else if ty = 3 then 1 else 4

/-- Lane width in bytes of a vector memory type. -/
def vBytes (ty : Nat) : Nat := if ty = 1 then 2 else if ty = 3 then 1 else 4

/-- A loaded lane (R116): FP32 and INT32 as they are, BF16 and FP8 widened exactly. -/
def vldLane (ty fn v : Nat) : Nat :=
  if ty = 1 then widen 8 v else if ty = 3 then widen (if bitAt fn 0 then 3 else 2) v else v

/-- Read `n` blocks from block b on; stops at the first uncorrectable one. -/
def readBlocks (s : State) (t b : Nat) : Nat → State × List Line × Option Nat
  | 0 => (s, [], none)
  | n + 1 =>
    let r := readBlock s t b
    match r.2 with
    | none => (r.1, [], some b)
    | some v =>
      let q := readBlocks r.1 t (b + 1) n
      (q.1, v :: q.2.1, q.2.2)

/-- The address of `vld` or `vst`, a 64-bit sum that wraps, checked (R116). Log entry 140 (DEDUCED). -/
def vAddr (th : Thread) (f : BitVec 56) : Nat × Bool :=
  let a := (th.sreg (vSA f) + BitVec.ofInt 64 (vOff f)).toNat
  (a, decide (a % 64 = 0 ∧ a + vBlocks (vTy f) * 64 ≤ 0x80000))

/-- VLD, opcode 0x50 (R116). -/
def execVld (x : Issue) (f : BitVec 56) (s : State) : Res :=
  issue x s fun s t h =>
    let th := (tget s t).th h
    let ty := vTy f; let n := vBlocks ty
    let a := vAddr th f; let b := a.1 / 64
    if !vResOk f true false then .fault s cIllegal 0
    else if !a.2 then .fault s cAddress (b % 8192)
    else if (List.range n).any (fun k => blockPending (tget s t) (b + k)) then .hold s
    else
      let r := readBlocks s t b n
      match r.2.2 with
      | some e => .fault r.1 cLocalUncorr e
      | none =>
        let w := vBytes ty
        goLanes r.1 t h (vD f) ((List.range 64).map (fun l =>
          plain (vldLane ty (vFn f) (blockBytes (r.2.1.getD (l * w / 64) 0) (l * w % 64) w))))

/-- VST, opcode 0x51 (R116): whole blocks, the low bits of each lane. -/
def execVst (x : Issue) (f : BitVec 56) (s : State) : Res :=
  issue x s fun s t h =>
    let th := (tget s t).th h
    let ty := vTy f; let w := vBytes ty
    let a := vAddr th f; let b := a.1 / 64
    if !vResOk f true false then .fault s cIllegal 0
    else if !a.2 then .fault s cAddress (b % 8192)
    else
      .go ((List.range (vBlocks ty)).foldl (fun s k =>
        writeBlock s t (b + k) ((List.range (64 / w)).foldl (fun v i =>
          mergeBytes v (i * w) w (th.lane (vA f) (k * (64 / w) + i)).toNat) 0)) s)

/-- Segment width (R115). -/
def segWidth (f : BitVec 56) : Nat := if vSeg f = 0 then 64 else if vSeg f = 1 then 16 else 4

/-- One level of the reduction tree of R117: lane j of each segment takes x[j] ⊕ x[j + s] for j below s. -/
def redLevel (op : Nat → Nat → Nat) (st : Nat) (l : List Nat) : List Nat :=
  (List.range (l.length / 2)).map (fun j => op (l.getD j 0) (l.getD (j + st) 0))

/-- The fixed tree over one segment (R117). -/
def redTree (op : Nat → Nat → Nat) : Nat → List Nat → Nat
  | 0, l => l.getD 0 0
  | n + 1, l => if l.length ≤ 1 then l.getD 0 0 else redTree op n (redLevel op (l.length / 2) l)

/-- The segment of lane l, as its lanes. -/
def segOf (w : Nat) (l : List Nat) (k : Nat) : List Nat := (l.drop (k / w * w)).take w

/-- VRED, opcode 0x61 (R117): FN 0 sum, 1 max, 2 min; the result in every lane of the segment. -/
def execVred (x : Issue) (f : BitVec 56) (s : State) : Res :=
  issue x s fun s t h =>
    let th := (tget s t).th h
    let op : Nat → Nat → Nat := if vFn f = 0 then fAdd else if vFn f = 1 then fMax else fMin
    if !vResOk f false true || decide (3 ≤ vFn f) then .fault s cIllegal 0
    else
      let w := segWidth f; let va := lanes th (vA f)
      goLanes s t h (vD f) ((List.range 64).map (fun l => plain (redTree op 7 (segOf w va l))))

/-- VSMAX, opcode 0x60 (R118): the maximum of vb's lane and of va over the lane's segment; any NaN among the inputs gives
the canonical NaN and sets VNAN. -/
def execVsmax (x : Issue) (f : BitVec 56) (s : State) : Res :=
  issue x s fun s t h =>
    let th := (tget s t).th h
    if !vResOk f false true then .fault s cIllegal 0
    else
      let w := segWidth f; let va := lanes th (vA f); let vb := lanes th (vB f)
      goLanes s t h (vD f) ((List.range 64).map (fun l =>
        let c := fMax (vb.getD l 0) (redTree fMax 7 (segOf w va l))
        ⟨c, c == nan32, false⟩))

/-- VCVT, opcode 0x62 (R120): FN[1:0] is the target, FN[2] the rounding; the stream and step come from SA and SB. Log entry 29 (DEDUCED). -/
def execVcvt (x : Issue) (f : BitVec 56) (s : State) : Res :=
  issue x s fun s t h =>
    let th := (tget s t).th h
    if !vResOk f false false || vFn f % 4 == 0 then .fault s cIllegal 0
    else
      let stream := (th.sreg (vSA f)).toNat % 2 ^ 32; let step := (th.sreg (vSB f)).toNat % 2 ^ 40
      let rnd : Nat → Rnd := fun l =>
        if bitAt (vFn f) 2 then .sr (srWord (fget s F.TILE_JOB_SEED_SEED t) (fget s F.TILE_LOGICAL_LTN t) l step stream) else .rne
      goLanes s t h (vD f) ((List.range 64).map (fun l =>
        plain (narrow (outFmt (vFn f % 4)) (rnd l) (th.lane (vA f) l).toNat)))

end Sys2Proof.Machine
end

