-- ==== Sys2Proof/Machine/Dispatch.lean ====
section
/-!
DEFINITION. The dispatch: one arm per command, each one direct call of the command's meaning.
-/

namespace Sys2Proof.Machine

/-- The effect of a command on everything but the queue. -/
def exec (i : Instr) (s : State) : Host.Outcome State Fault Refusal :=
  match i with
  | .mgmtRegisterWrite addr wide value => Sys2Proof.Machine.execMgmtRegisterWrite addr wide value s
  | .add x f => Sys2Proof.Machine.execAdd x f s
  | .sub x f => Sys2Proof.Machine.execSub x f s
  | .and x f => Sys2Proof.Machine.execAnd x f s
  | .or x f => Sys2Proof.Machine.execOr x f s
  | .xor x f => Sys2Proof.Machine.execXor x f s
  | .shl x f => Sys2Proof.Machine.execShl x f s
  | .shr x f => Sys2Proof.Machine.execShr x f s
  | .sra x f => Sys2Proof.Machine.execSra x f s
  | .mul x f => Sys2Proof.Machine.execMul x f s
  | .mulh x f => Sys2Proof.Machine.execMulh x f s
  | .min x f => Sys2Proof.Machine.execMin x f s
  | .max x f => Sys2Proof.Machine.execMax x f s
  | .slt x f => Sys2Proof.Machine.execSlt x f s
  | .sltu x f => Sys2Proof.Machine.execSltu x f s
  | .div x f => Sys2Proof.Machine.execDiv x f s
  | .divu x f => Sys2Proof.Machine.execDivu x f s
  | .rem x f => Sys2Proof.Machine.execRem x f s
  | .remu x f => Sys2Proof.Machine.execRemu x f s
  | .lui x f => Sys2Proof.Machine.execLui x f s
  | .ld x f => Sys2Proof.Machine.execLd x f s
  | .st x f => Sys2Proof.Machine.execSt x f s
  | .b x f => Sys2Proof.Machine.execB x f s
  | .bcf x f => Sys2Proof.Machine.execBcf x f s
  | .jal x f => Sys2Proof.Machine.execJal x f s
  | .jr x f => Sys2Proof.Machine.execJr x f s
  | .mma4 x f => Sys2Proof.Machine.execMma4 x f s
  | .mma8 x f => Sys2Proof.Machine.execMma8 x f s
  | .mma16 x f => Sys2Proof.Machine.execMma16 x f s
  | .mrd x f => Sys2Proof.Machine.execMrd x f s
  | .arrayAdmitOpener tile => Sys2Proof.Machine.execArrayAdmitOpener tile s
  | .arrayGroupLatch tile => Sys2Proof.Machine.execArrayGroupLatch tile s
  | .arrayDrainDone tile => Sys2Proof.Machine.execArrayDrainDone tile s
  | .tileScrubWrite tile block => Sys2Proof.Machine.execTileScrubWrite tile block s
  | .vld x f => Sys2Proof.Machine.execVld x f s
  | .vst x f => Sys2Proof.Machine.execVst x f s
  | .vbc x f => Sys2Proof.Machine.execVbc x f s
  | .vadd x f => Sys2Proof.Machine.execVadd x f s
  | .vsub x f => Sys2Proof.Machine.execVsub x f s
  | .vmul x f => Sys2Proof.Machine.execVmul x f s
  | .vfma x f => Sys2Proof.Machine.execVfma x f s
  | .vfma2 x f => Sys2Proof.Machine.execVfma2 x f s
  | .vmin x f => Sys2Proof.Machine.execVmin x f s
  | .vmax x f => Sys2Proof.Machine.execVmax x f s
  | .vcmp x f => Sys2Proof.Machine.execVcmp x f s
  | .vsel x f => Sys2Proof.Machine.execVsel x f s
  | .vdiv x f => Sys2Proof.Machine.execVdiv x f s
  | .vrsq x f => Sys2Proof.Machine.execVrsq x f s
  | .vexp2 x f => Sys2Proof.Machine.execVexp2 x f s
  | .vsexp x f => Sys2Proof.Machine.execVsexp x f s
  | .vsmax x f => Sys2Proof.Machine.execVsmax x f s
  | .vred x f => Sys2Proof.Machine.execVred x f s
  | .vcvt x f => Sys2Proof.Machine.execVcvt x f s
  | .vabs x f => Sys2Proof.Machine.execVabs x f s
  | .viadd x f => Sys2Proof.Machine.execViadd x f s
  | .vand x f => Sys2Proof.Machine.execVand x f s
  | .vor x f => Sys2Proof.Machine.execVor x f s
  | .vxor x f => Sys2Proof.Machine.execVxor x f s
  | .vlane x f => Sys2Proof.Machine.execVlane x f s
  | .xget x f => Sys2Proof.Machine.execXget x f s
  | .xput x f => Sys2Proof.Machine.execXput x f s
  | .xgetp x f => Sys2Proof.Machine.execXgetp x f s
  | .xwait x f => Sys2Proof.Machine.execXwait x f s
  | .fence x f => Sys2Proof.Machine.execFence x f s
  | .ldg x f => Sys2Proof.Machine.execLdg x f s
  | .stg x f => Sys2Proof.Machine.execStg x f s
  | .amo x f => Sys2Proof.Machine.execAmo x f s
  | .tevInc x f => Sys2Proof.Machine.execTevInc x f s
  | .tevWait x f => Sys2Proof.Machine.execTevWait x f s
  | .halt x f => Sys2Proof.Machine.execHalt x f s
  | .tstart x f => Sys2Proof.Machine.execTstart x f s
  | .crd x f => Sys2Proof.Machine.execCrd x f s
  | .cwr x f => Sys2Proof.Machine.execCwr x f s
  | .remoteResponseArrival tile => Sys2Proof.Machine.execRemoteResponseArrival tile s
  | .tileCtlRun tile run => Sys2Proof.Machine.execTileCtlRun tile run s
  | .tileCtlStart tile => Sys2Proof.Machine.execTileCtlStart tile s
  | .tileCtlAbort tile => Sys2Proof.Machine.execTileCtlAbort tile s
  | .tileCtlCntClr tile => Sys2Proof.Machine.execTileCtlCntClr tile s
  | .tileArrayCntClr tile => Sys2Proof.Machine.execTileArrayCntClr tile s
  | .blkCtlRetire block tile => Sys2Proof.Machine.execBlkCtlRetire block tile s
  | .retirementTakesEffect tile => Sys2Proof.Machine.execRetirementTakesEffect tile s
  | .retiredMapTaken tile block => Sys2Proof.Machine.execRetiredMapTaken tile block s
  | .homeLoad addr w tag cerr => Sys2Proof.Machine.execHomeLoad addr w tag cerr s
  | .homeStore addr w data tag => Sys2Proof.Machine.execHomeStore addr w data tag s
  | .homeAdd addr wide operand tag => Sys2Proof.Machine.execHomeAdd addr wide operand tag s
  | .homeMin addr wide operand tag => Sys2Proof.Machine.execHomeMin addr wide operand tag s
  | .homeMax addr wide operand tag => Sys2Proof.Machine.execHomeMax addr wide operand tag s
  | .homeXor addr wide operand tag => Sys2Proof.Machine.execHomeXor addr wide operand tag s
  | .homeSwap addr wide operand tag => Sys2Proof.Machine.execHomeSwap addr wide operand tag s
  | .homeCompareAndSwap addr wide operand compare tag => Sys2Proof.Machine.execHomeCompareAndSwap addr wide operand compare tag s
  | .homeExactInt32Accumulate addr operand tag => Sys2Proof.Machine.execHomeExactInt32Accumulate addr operand tag s
  | .homeFp32Add addr operand tag => Sys2Proof.Machine.execHomeFp32Add addr operand tag s
  | .depotFillComplete line err1 err2 evictErr => Sys2Proof.Machine.execDepotFillComplete line err1 err2 evictErr s
  | .hotLineSlot line => Sys2Proof.Machine.execHotLineSlot line s
  | .hotQueueRelease line => Sys2Proof.Machine.execHotQueueRelease line s
  | .closureRecordMove h => Sys2Proof.Machine.execClosureRecordMove h s
  | .depChRetrain h stack ch => Sys2Proof.Machine.execDepChRetrain h stack ch s
  | .channelRetrainDone h stack ch failed => Sys2Proof.Machine.execChannelRetrainDone h stack ch failed s
  | .depScrubNow h => Sys2Proof.Machine.execDepScrubNow h s
  | .depCntClr h => Sys2Proof.Machine.execDepCntClr h s
  | .scrubAccess h err1 err2 => Sys2Proof.Machine.execScrubAccess h err1 err2 s
  | .refreshTimer h stack => Sys2Proof.Machine.execRefreshTimer h stack s
  | .ingressLoad port hdr data => Sys2Proof.Machine.execIngressLoad port hdr data s
  | .ingressStore port hdr data => Sys2Proof.Machine.execIngressStore port hdr data s
  | .ingressAtomic port hdr data => Sys2Proof.Machine.execIngressAtomic port hdr data s
  | .ingressRead port hdr data => Sys2Proof.Machine.execIngressRead port hdr data s
  | .ingressWrite port hdr data => Sys2Proof.Machine.execIngressWrite port hdr data s
  | .ingressBatch port hdr data => Sys2Proof.Machine.execIngressBatch port hdr data s
  | .ingressAck port hdr data => Sys2Proof.Machine.execIngressAck port hdr data s
  | .ingressTaken src job => Sys2Proof.Machine.execIngressTaken src job s
  | .responseArrival port hdr => Sys2Proof.Machine.execResponseArrival port hdr s
  | .readDataArrival port hdr data => Sys2Proof.Machine.execReadDataArrival port hdr data s
  | .retransmitTimer dst job seq => Sys2Proof.Machine.execRetransmitTimer dst job seq s
  | .requestTimeout dst job seq => Sys2Proof.Machine.execRequestTimeout dst job seq s
  | .retryDelayExpiry dst job seq => Sys2Proof.Machine.execRetryDelayExpiry dst job seq s
  | .idleAckTimer dst job => Sys2Proof.Machine.execIdleAckTimer dst job s
  | .gatewayBatchDelay district => Sys2Proof.Machine.execGatewayBatchDelay district s
  | .winWriteWindow slot window => Sys2Proof.Machine.execWinWriteWindow slot window s
  | .winBindJob slot job => Sys2Proof.Machine.execWinBindJob slot job s
  | .winUnbindJob slot => Sys2Proof.Machine.execWinUnbindJob slot s
  | .winCommitComplete => Sys2Proof.Machine.execWinCommitComplete s
  | .headFlitReceived port flit err => Sys2Proof.Machine.execHeadFlitReceived port flit err s
  | .dataFlitReceived port flit err => Sys2Proof.Machine.execDataFlitReceived port flit err s
  | .idleFlitReceived port flit err => Sys2Proof.Machine.execIdleFlitReceived port flit err s
  | .controlFlitReceived port flit slot1 err => Sys2Proof.Machine.execControlFlitReceived port flit slot1 err s
  | .linkNak port seq => Sys2Proof.Machine.execLinkNak port seq s
  | .linkReplay port seq => Sys2Proof.Machine.execLinkReplay port seq s
  | .missNotice port district again id => Sys2Proof.Machine.execMissNotice port district again id s
  | .linkRtoExpiry port => Sys2Proof.Machine.execLinkRtoExpiry port s
  | .creditReportTimer port => Sys2Proof.Machine.execCreditReportTimer port s
  | .throttleRelease port => Sys2Proof.Machine.execThrottleRelease port s
  | .shnGather h slot job cmd => Sys2Proof.Machine.execShnGather h slot job cmd s
  | .shnGatherRange h slot job cmd => Sys2Proof.Machine.execShnGatherRange h slot job cmd s
  | .shnScatter h slot job cmd => Sys2Proof.Machine.execShnScatter h slot job cmd s
  | .shnCommandComplete h => Sys2Proof.Machine.execShnCommandComplete h s
  | .shnCntClr => Sys2Proof.Machine.execShnCntClr s
  | .markerReceived port lane marker whole => Sys2Proof.Machine.execMarkerReceived port lane marker whole s
  | .laneRestoreTimer port lane => Sys2Proof.Machine.execLaneRestoreTimer port lane s
  | .widthChangeEffect port tx => Sys2Proof.Machine.execWidthChangeEffect port tx s
  | .ringLoopUpdate port tx lane heater => Sys2Proof.Machine.execRingLoopUpdate port tx lane heater s
  | .ringRelockDone port lane found heater => Sys2Proof.Machine.execRingRelockDone port lane found heater s
  | .ringResweepTimer port lane => Sys2Proof.Machine.execRingResweepTimer port lane s
  | .laserBiasLoop chiplet laser bias mon onGrid => Sys2Proof.Machine.execLaserBiasLoop chiplet laser bias mon onGrid s
  | .laserBiasDaily chiplet => Sys2Proof.Machine.execLaserBiasDaily chiplet s
  | .changeoverStart chiplet laser => Sys2Proof.Machine.execChangeoverStart chiplet laser s
  | .changeoverDeferExpiry chiplet laser => Sys2Proof.Machine.execChangeoverDeferExpiry chiplet laser s
  | .understudyOnGrid chiplet wl => Sys2Proof.Machine.execUnderstudyOnGrid chiplet wl s
  | .laserFailure chiplet laser => Sys2Proof.Machine.execLaserFailure chiplet laser s
  | .lasCtlChange chiplet laser => Sys2Proof.Machine.execLasCtlChange chiplet laser s
  | .presenceSeen ferrule => Sys2Proof.Machine.execPresenceSeen ferrule s
  | .presenceLost ferrule => Sys2Proof.Machine.execPresenceLost ferrule s
  | .bankLightUp chiplet => Sys2Proof.Machine.execBankLightUp chiplet s
  | .portTrainingComplete port => Sys2Proof.Machine.execPortTrainingComplete port s
  | .portCtlRetrain port => Sys2Proof.Machine.execPortCtlRetrain port s
  | .portCtlRelock port rings => Sys2Proof.Machine.execPortCtlRelock port rings s
  | .portCtlCntClr port => Sys2Proof.Machine.execPortCtlCntClr port s
  | .rehearsalDwell port errors bytes => Sys2Proof.Machine.execRehearsalDwell port errors bytes s
  | .rehearsalNoPattern port => Sys2Proof.Machine.execRehearsalNoPattern port s
  | .portSteerGo port fibre => Sys2Proof.Machine.execPortSteerGo port fibre s
  | .steerSwitchDone port marker => Sys2Proof.Machine.execSteerSwitchDone port marker s
  | .steerTimeout port => Sys2Proof.Machine.execSteerTimeout port s
  | .converterSample chiplet value => Sys2Proof.Machine.execConverterSample chiplet value s
  | .lossOfLight port lane => Sys2Proof.Machine.execLossOfLight port lane s
  | .heartbeatSendTimer => Sys2Proof.Machine.execHeartbeatSendTimer s
  | .ilkHeartbeat plane rec => Sys2Proof.Machine.execIlkHeartbeat plane rec s
  | .ilkProbe plane rec => Sys2Proof.Machine.execIlkProbe plane rec s
  | .ilkAnswer plane rec => Sys2Proof.Machine.execIlkAnswer plane rec s
  | .ilkRequest plane rec => Sys2Proof.Machine.execIlkRequest plane rec s
  | .ilkPropose plane rec => Sys2Proof.Machine.execIlkPropose plane rec s
  | .ilkVote plane rec => Sys2Proof.Machine.execIlkVote plane rec s
  | .epochRecord plane rec => Sys2Proof.Machine.execEpochRecord plane rec s
  | .ilkEpochAck plane rec => Sys2Proof.Machine.execIlkEpochAck plane rec s
  | .ilkFetch plane rec => Sys2Proof.Machine.execIlkFetch plane rec s
  | .ilkVerdict plane rec => Sys2Proof.Machine.execIlkVerdict plane rec s
  | .ilkHall plane rec => Sys2Proof.Machine.execIlkHall plane rec s
  | .ilkPortcheck port rec => Sys2Proof.Machine.execIlkPortcheck port rec s
  | .suspicionTimeout member => Sys2Proof.Machine.execSuspicionTimeout member s
  | .probeRepeat member => Sys2Proof.Machine.execProbeRepeat member s
  | .probeConfirmTimeout member => Sys2Proof.Machine.execProbeConfirmTimeout member s
  | .chairHandoverTimeout op subj => Sys2Proof.Machine.execChairHandoverTimeout op subj s
  | .voteTimeout => Sys2Proof.Machine.execVoteTimeout s
  | .requestResend member => Sys2Proof.Machine.execRequestResend member s
  | .epochResendTimer => Sys2Proof.Machine.execEpochResendTimer s
  | .epochCompleteTimeout => Sys2Proof.Machine.execEpochCompleteTimeout s
  | .epochLogbookTimer => Sys2Proof.Machine.execEpochLogbookTimer s
  | .portcheckSendTimer => Sys2Proof.Machine.execPortcheckSendTimer s
  | .portcheckMissing port => Sys2Proof.Machine.execPortcheckMissing port s
  | .fetchRetry => Sys2Proof.Machine.execFetchRetry s
  | .boxSilenceFence => Sys2Proof.Machine.execBoxSilenceFence s
  | .selfCheckDone passed => Sys2Proof.Machine.execSelfCheckDone passed s
  | .formWaitExpiry => Sys2Proof.Machine.execFormWaitExpiry s
  | .hallWaitExpiry => Sys2Proof.Machine.execHallWaitExpiry s
  | .ilkCtlExpel subj job => Sys2Proof.Machine.execIlkCtlExpel subj job s
  | .ilkCtlLeave => Sys2Proof.Machine.execIlkCtlLeave s
  | .ilkCtlReadmit => Sys2Proof.Machine.execIlkCtlReadmit s
  | .partnerCopyDone slot pos => Sys2Proof.Machine.execPartnerCopyDone slot pos s
  | .districtChangeEnd => Sys2Proof.Machine.execDistrictChangeEnd s
  | .standbyPowerUp => Sys2Proof.Machine.execStandbyPowerUp s
  | .presenceDebounced slot autoOn vin flow => Sys2Proof.Machine.execPresenceDebounced slot autoOn vin flow s
  | .presenceContactBreak b => Sys2Proof.Machine.execPresenceContactBreak b s
  | .hotSwapFault cause => Sys2Proof.Machine.execHotSwapFault cause s
  | .modPowerOn => Sys2Proof.Machine.execModPowerOn s
  | .modPowerOff => Sys2Proof.Machine.execModPowerOff s
  | .modDrain i3c => Sys2Proof.Machine.execModDrain i3c s
  | .modReset => Sys2Proof.Machine.execModReset s
  | .resetRailsOn => Sys2Proof.Machine.execResetRailsOn s
  | .modLocate on => Sys2Proof.Machine.execModLocate on s
  | .removalButton => Sys2Proof.Machine.execRemovalButton s
  | .drainRelease => Sys2Proof.Machine.execDrainRelease s
  | .drainWaitExpiry => Sys2Proof.Machine.execDrainWaitExpiry s
  | .coolantWarning hot low => Sys2Proof.Machine.execCoolantWarning hot low s
  | .coolantFlowFault flow => Sys2Proof.Machine.execCoolantFlowFault flow s
  | .flowFaultSwitchOpen => Sys2Proof.Machine.execFlowFaultSwitchOpen s
  | .i3cPrivateWrite addr value => Sys2Proof.Machine.execI3cPrivateWrite addr value s
  | .i3cPrivateRead addr => Sys2Proof.Machine.execI3cPrivateRead addr s
  | .entdaa addr => Sys2Proof.Machine.execEntdaa addr s
  | .setdasa addr => Sys2Proof.Machine.execSetdasa addr s
  | .setnewda addr => Sys2Proof.Machine.execSetnewda addr s
  | .rstdaa => Sys2Proof.Machine.execRstdaa s
  | .enec => Sys2Proof.Machine.execEnec s
  | .disec => Sys2Proof.Machine.execDisec s
  | .getpid => Sys2Proof.Machine.execGetpid s
  | .getbcr => Sys2Proof.Machine.execGetbcr s
  | .getdcr => Sys2Proof.Machine.execGetdcr s
  | .getstatus => Sys2Proof.Machine.execGetstatus s
  | .getmwl => Sys2Proof.Machine.execGetmwl s
  | .getmrl => Sys2Proof.Machine.execGetmrl s
  | .lrstN low => Sys2Proof.Machine.execLrstN low s
  | .lysLinkUp x16 => Sys2Proof.Machine.execLysLinkUp x16 s
  | .lysTrainRetry => Sys2Proof.Machine.execLysTrainRetry s
  | .lysFeature hdr => Sys2Proof.Machine.execLysFeature hdr s
  | .lysFeatureTimeout => Sys2Proof.Machine.execLysFeatureTimeout s
  | .lysFlit flit corrected => Sys2Proof.Machine.execLysFlit flit corrected s
  | .lysReplayTimeout => Sys2Proof.Machine.execLysReplayTimeout s
  | .lysLoad hdr => Sys2Proof.Machine.execLysLoad hdr s
  | .lysStore hdr payload => Sys2Proof.Machine.execLysStore hdr payload s
  | .lysAtomic hdr payload => Sys2Proof.Machine.execLysAtomic hdr payload s
  | .lysRead hdr => Sys2Proof.Machine.execLysRead hdr s
  | .lysWrite hdr payload => Sys2Proof.Machine.execLysWrite hdr payload s
  | .lysReadShared hdr => Sys2Proof.Machine.execLysReadShared hdr s
  | .lysReadOwn hdr => Sys2Proof.Machine.execLysReadOwn hdr s
  | .lysEvict hdr => Sys2Proof.Machine.execLysEvict hdr s
  | .lysWriteback hdr payload => Sys2Proof.Machine.execLysWriteback hdr payload s
  | .lysRecallAck hdr payload => Sys2Proof.Machine.execLysRecallAck hdr payload s
  | .lysMgmtRd hdr => Sys2Proof.Machine.execLysMgmtRd hdr s
  | .lysMgmtWr hdr payload => Sys2Proof.Machine.execLysMgmtWr hdr payload s
  | .lysCredit hdr => Sys2Proof.Machine.execLysCredit hdr s
  | .lysReservedMt hdr => Sys2Proof.Machine.execLysReservedMt hdr s
  | .recallTimeout tag => Sys2Proof.Machine.execRecallTimeout tag s
  | .lysCtlRetrain => Sys2Proof.Machine.execLysCtlRetrain s
  | .lysCtlCntClr => Sys2Proof.Machine.execLysCtlCntClr s
  | .powerGood b => Sys2Proof.Machine.execPowerGood b s
  | .selfTestComplete failed => Sys2Proof.Machine.execSelfTestComplete failed s
  | .switchDiscoveryDone => Sys2Proof.Machine.execSwitchDiscoveryDone s
  | .recoveryChunkGo chunk last b => Sys2Proof.Machine.execRecoveryChunkGo chunk last b s
  | .secWriteBank => Sys2Proof.Machine.execSecWriteBank s
  | .secWriteConfig => Sys2Proof.Machine.execSecWriteConfig s
  | .secEnrol => Sys2Proof.Machine.execSecEnrol s
  | .secLiveLoad => Sys2Proof.Machine.execSecLiveLoad s
  | .secUpdateDone ok => Sys2Proof.Machine.execSecUpdateDone ok s
  | .liveLoadCoreDone ok => Sys2Proof.Machine.execLiveLoadCoreDone ok s
  | .secAttest => Sys2Proof.Machine.execSecAttest s
  | .attestDone => Sys2Proof.Machine.execAttestDone s
  | .logbookAppend ok => Sys2Proof.Machine.execLogbookAppend ok s
  | .classBWriteTimer => Sys2Proof.Machine.execClassBWriteTimer s
  | .logRecordWrite => Sys2Proof.Machine.execLogRecordWrite s
  | .cuePointWrite => Sys2Proof.Machine.execCuePointWrite s
  | .modeCtlGo target => Sys2Proof.Machine.execModeCtlGo target s
  | .modeCfgWrite power trace => Sys2Proof.Machine.execModeCfgWrite power trace s
  | .modeRequestComplete => Sys2Proof.Machine.execModeRequestComplete s
  | .appCoreGlobalAccess core job dev pa acc tag => Sys2Proof.Machine.execAppCoreGlobalAccess core job dev pa acc tag s
  | .appCoreAmo core job dev pa amo wide operand compare tag => Sys2Proof.Machine.execAppCoreAmo core job dev pa amo wide operand compare tag s
  | .cueNop slot => Sys2Proof.Machine.execCueNop slot s
  | .cueShift slot => Sys2Proof.Machine.execCueShift slot s
  | .cuePermute slot => Sys2Proof.Machine.execCuePermute slot s
  | .cueInc slot => Sys2Proof.Machine.execCueInc slot s
  | .cueClose slot => Sys2Proof.Machine.execCueClose slot s
  | .cueReady slot => Sys2Proof.Machine.execCueReady slot s
  | .cuePoints slot => Sys2Proof.Machine.execCuePoints slot s
  | .mboxAnnounce slot record => Sys2Proof.Machine.execMboxAnnounce slot record s
  | .mboxInc slot record => Sys2Proof.Machine.execMboxInc slot record s
  | .mboxArm slot record => Sys2Proof.Machine.execMboxArm slot record s
  | .mboxArmc slot record => Sys2Proof.Machine.execMboxArmc slot record s
  | .mboxDone slot record => Sys2Proof.Machine.execMboxDone slot record s
  | .mboxCommit slot record => Sys2Proof.Machine.execMboxCommit slot record s
  | .mboxAbort slot record => Sys2Proof.Machine.execMboxAbort slot record s
  | .mboxAccept slot record => Sys2Proof.Machine.execMboxAccept slot record s
  | .mboxReady slot record => Sys2Proof.Machine.execMboxReady slot record s
  | .mboxNotYet slot record => Sys2Proof.Machine.execMboxNotYet slot record s
  | .mboxPoison slot record => Sys2Proof.Machine.execMboxPoison slot record s
  | .mboxStepOpen slot record => Sys2Proof.Machine.execMboxStepOpen slot record s
  | .mboxConsist slot record => Sys2Proof.Machine.execMboxConsist slot record s
  | .mboxTakeover slot record => Sys2Proof.Machine.execMboxTakeover slot record s
  | .consistStandbyAck slot => Sys2Proof.Machine.execConsistStandbyAck slot s
  | .cueMessageComplete src job msg => Sys2Proof.Machine.execCueMessageComplete src job msg s
  | .closeRoundTimeout coll => Sys2Proof.Machine.execCloseRoundTimeout coll s
  | .stepDeadline slot => Sys2Proof.Machine.execStepDeadline slot s
  | .stepBackstop slot => Sys2Proof.Machine.execStepBackstop slot s
  | .takeoverWaitExpiry slot => Sys2Proof.Machine.execTakeoverWaitExpiry slot s
  | .stmReplayOff slot => Sys2Proof.Machine.execStmReplayOff slot s
  | .cueCtlAbort slot => Sys2Proof.Machine.execCueCtlAbort slot s
  | .cueCtlCntClr => Sys2Proof.Machine.execCueCtlCntClr s
  | .brgControlFlit h flit err => Sys2Proof.Machine.execBrgControlFlit h flit err s
  | .brgPacket h seq flits => Sys2Proof.Machine.execBrgPacket h seq flits s
  | .brgPowerMessage h body => Sys2Proof.Machine.execBrgPowerMessage h body s
  | .brgRetryTimeout h => Sys2Proof.Machine.execBrgRetryTimeout h s
  | .brgTrainStart msg => Sys2Proof.Machine.execBrgTrainStart msg s
  | .brgPrbsDone h failed => Sys2Proof.Machine.execBrgPrbsDone h failed s
  | .brgTrainMap msg => Sys2Proof.Machine.execBrgTrainMap msg s
  | .brgTrainAgree msg => Sys2Proof.Machine.execBrgTrainAgree msg s
  | .brgTrainEcho msg => Sys2Proof.Machine.execBrgTrainEcho msg s
  | .brgTrainRefuse msg => Sys2Proof.Machine.execBrgTrainRefuse msg s
  | .brgEchoTimeout => Sys2Proof.Machine.execBrgEchoTimeout s
  | .brgRetrain => Sys2Proof.Machine.execBrgRetrain s
  | .brgPresetUp => Sys2Proof.Machine.execBrgPresetUp s
  | .brgPresetDown => Sys2Proof.Machine.execBrgPresetDown s
  | .brgCntClr => Sys2Proof.Machine.execBrgCntClr s
  | .watchdogExpiry h => Sys2Proof.Machine.execWatchdogExpiry h s
  | .blockLinkStall block => Sys2Proof.Machine.execBlockLinkStall block s
  | .fwStoreUncorr h => Sys2Proof.Machine.execFwStoreUncorr h s
  | .presetReturn h => Sys2Proof.Machine.execPresetReturn h s
  | .presetHoldExpiry h => Sys2Proof.Machine.execPresetHoldExpiry h s
  | .clockLoss => Sys2Proof.Machine.execClockLoss s
  | .crystalLoss => Sys2Proof.Machine.execCrystalLoss s
  | .powerMessageTimer h meas pkg input below => Sys2Proof.Machine.execPowerMessageTimer h meas pkg input below s
  | .grantEffect h => Sys2Proof.Machine.execGrantEffect h s
  | .slowControlTick h mean => Sys2Proof.Machine.execSlowControlTick h mean s
  | .fastTrip h => Sys2Proof.Machine.execFastTrip h s
  | .fastTripEnd h => Sys2Proof.Machine.execFastTripEnd h s
  | .adaptiveLoopTick block waves slack => Sys2Proof.Machine.execAdaptiveLoopTick block waves slack s
  | .thermalModelUpdate h fast inlet outlet power => Sys2Proof.Machine.execThermalModelUpdate h fast inlet outlet power s
  | .t4ThrottleStep block => Sys2Proof.Machine.execT4ThrottleStep block s
  | .calibration h offsets diode => Sys2Proof.Machine.execCalibration h offsets diode s
  | .arrayInstructionComplete tile stall => Sys2Proof.Machine.execArrayInstructionComplete tile stall s

end Sys2Proof.Machine
end

