-- ==== Sys2Proof/Machine/Program.lean ====
section
/-!
DEFINITION. A tile runs the word at its program counter (R98, R104, R105). The operation table has a row for each tile instruction
and none for a reserved opcode, so the word's own meaning, and what a reserved opcode does, stand here.
-/

namespace Sys2Proof.Machine

/-- The instruction word at a thread's program counter: eight to a line, stored little-endian (R98). -/
def progWord (s : State) (t h : Nat) : BitVec 64 :=
  let ti := tget s t
  BitVec.ofNat 64 (mreadLE ti.prog (ti.th h).pc 8)

/-- An instruction with a reserved opcode is illegal (R105). -/
def execReservedOpcode (x : Issue) (s : State) : Res := issue x s fun s _ _ => .fault s cIllegal 0

/-- A word that thread `x.thread` of tile `x.tile` issues: the row its opcode names, or the fault of a reserved opcode. -/
def execTileWord (x : Issue) (w : BitVec 64) (s : State) : Res :=
  match Sys2Proof.decodeTile x w with
  | some i => exec i s
  | none => execReservedOpcode x s

/-- The thread issues the instruction that its program store holds at its program counter. -/
def execProgram (x : Issue) (s : State) : Res := execTileWord x (progWord s x.tile.toNat x.thread.toNat) s

end Sys2Proof.Machine
end

