-- ==== Sys2Proof/Safety.lean ====
section
/-!
DEFINITION. What claims are stated in: the invariant of the block's data, and what every command but the passing of time keeps.
-/

namespace Sys2Proof.Machine

/-- Keys strictly rising: a register or a line is listed once. -/
def Rising {α : Type} (m : NMap α) : Prop := m.Pairwise (fun a b => a.1 < b.1)

/-- The block's data are in order: the register file lists each field once in rising order, the depot's memory is in its
canonical form, and the down half's time counter is not ahead of the up half's, with which it starts and beside which it stops
first (R28, R435). -/
structure Inv (s : State) : Prop where
  regs : Rising s.regs
  mem  : Memory.wf s.dep.mem = true
  time : s.timeDn ≤ s.timeUp

/-- From `r` to `s` no time passes, no command leaves or joins the queue, and the data stay in order. -/
structure Keeps (r s : State) : Prop where
  pending : s.pending = r.pending
  timeUp  : s.timeUp = r.timeUp
  timeDn  : s.timeDn = r.timeDn
  regs    : Rising r.regs → Rising s.regs
  mem     : Memory.wf r.dep.mem = true → Memory.wf s.dep.mem = true

/-! ## Words of the statements -/

/-- The command completes, in a state that `q` describes. -/
def Yields (c : Instr) (s : State) (q : State → Prop) : Prop := ∃ t, exec c s = .next t ∧ q t

/-- The command completes: `q` describes the state that its own effect leaves, and the answers, wakes and messages that follow
from it within the same step follow by `settle`. -/
def Acts (c : Instr) (s : State) (q : State → Prop) : Prop := ∃ u, exec c s = .next (settle u) ∧ q u

/-- The tile an instruction is issued in, and the thread that issues it. -/
def ati (s : State) (x : Issue) : Tile := tget s x.tile.toNat
def thr (s : State) (x : Issue) : Thread := (ati s x).th x.thread.toNat

/-- The thread can issue (R99, R134), its program counter lies in the program store, and neither its fetch nor the tile store
meets an error. -/
structure Ready (x : Issue) (s : State) : Prop where
  can    : canIssue s x.tile.toNat x.thread.toNat = true
  upsets : x.upsets = []
  clean  : mget (ati s x).progErr ((thr s x).pc / 64) 0 ^^^ x.progErr = 0
  inside : (thr s x).pc ≤ 0x7FF8 ∧ (thr s x).pc % 8 = 0

/-- The thread goes on at the next instruction. -/
def GoesOn (x : Issue) (s t : State) : Prop := (thr t x).pc = (thr s x).pc + 8 ∧ (thr t x).st = .ready

/-- The thread goes on at `pc`. -/
def JumpsTo (x : Issue) (t : State) (pc : Int) : Prop := ((thr t x).pc : Int) = pc ∧ (thr t x).st = .ready

/-- The thread is held: it has not moved and issues the same instruction again. -/
def Held (x : Issue) (s t : State) : Prop := (thr t x).pc = (thr s x).pc ∧ (thr t x).st = .held

/-- The thread has faulted at its instruction, and the tile's first fault is recorded (R131). -/
def Faults (x : Issue) (s t : State) (cause : Nat) : Prop :=
  (thr t x).pc = (thr s x).pc ∧ (thr t x).st = .faulted ∧ fget t F.TILE_FAULT_VALID x.tile.toNat = 1
    ∧ (fget s F.TILE_FAULT_VALID x.tile.toNat ≠ 1 → fget t F.TILE_FAULT_CAUSE x.tile.toNat = cause
        ∧ fget t F.TILE_FAULT_THREAD x.tile.toNat = x.thread.toNat)

/-- A branch to `p` is taken (R109): it goes there, or faults where no instruction can stand there. -/
def BranchesTo (x : Issue) (s t : State) (p : Int) : Prop :=
  if 0 ≤ p ∧ p ≤ 0x7FF8 ∧ p % 8 = 0 then JumpsTo x t p else Faults x s t 2

/-- Scalar register `r` of the thread holds `v`; s0 reads 0 (R97). -/
def HoldsS (t : State) (x : Issue) (r : Nat) (v : W64) : Prop := (thr t x).sreg r = if r = 0 then 0 else v

/-- A thread's registers, condition field and streams but for its program counter and its state. -/
def SameThread (a b : Thread) : Prop := a.cond = b.cond ∧ a.s = b.s ∧ a.v = b.v ∧ a.streams = b.streams

/-- The tile but for its threads: stores and their damage, event counters, array, operations, error history. -/
def SameTile (a b : Tile) : Prop := { a with threads := [], lastTh := 0 } = { b with threads := [], lastTh := 0 }

/-- Every other thread of the tile and every other tile is as before. -/
def OtherThreads (x : Issue) (s t : State) : Prop :=
  (∀ k, k ≠ x.thread.toNat → (ati t x).th k = (ati s x).th k) ∧ ∀ u, u ≠ x.tile.toNat → tget t u = tget s u

/-- Everything but the tiles and the register file is as before: the depot, memory space, links, light, interlocking, cue
engine, shunter, cores, power, bridge, Lysdex link, module, security and logs, what went out, what waits, and the time. -/
def SameUnits (s t : State) : Prop :=
  { t with regs := [], tiles := [], freeCtr := 0 } = { s with regs := [], tiles := [], freeCtr := 0 }

/-- Every register field but those that `w` names reads as before. -/
def SameRegs (s t : State) (w : Fld → Nat → Prop) : Prop := ∀ f i, ¬ w f i → fget t f i = fget s f i

/-- The field `f` of index `i` alone. -/
def only (f : Fld) (i : Nat) (g : Fld) (j : Nat) : Prop := g.key j = f.key i

/-- The scalar operations of R106, each a function of sa and op2. -/
def scalarRows : List ((Issue → BitVec 56 → Instr) × (W64 → W64 → W64)) := [
  (.add, fun a b => a + b), (.sub, fun a b => a - b), (.and, fun a b => a &&& b), (.or, fun a b => a ||| b),
  (.xor, fun a b => a ^^^ b), (.shl, fun a b => a <<< (b.toNat % 64)), (.shr, fun a b => a >>> (b.toNat % 64)),
  (.sra, fun a b => a.sshiftRight (b.toNat % 64)), (.mul, fun a b => a * b),
  (.mulh, fun a b => BitVec.ofInt 64 (a.toInt * b.toInt / 2 ^ 64)),
  (.min, fun a b => if b.toInt < a.toInt then b else a), (.max, fun a b => if a.toInt < b.toInt then b else a),
  (.slt, fun a b => if a.toInt < b.toInt then 1 else 0), (.sltu, fun a b => if a.toNat < b.toNat then 1 else 0),
  (.div, fun a b => if b = 0 then BitVec.allOnes 64 else BitVec.ofInt 64 (a.toInt.tdiv b.toInt)),
  (.divu, fun a b => if b = 0 then BitVec.allOnes 64 else a / b),
  (.rem, fun a b => if b = 0 then a else BitVec.ofInt 64 (a.toInt.tmod b.toInt)),
  (.remu, fun a b => if b = 0 then a else a % b)]

/-- The lane operations of R115 that give one number of va, vb, vc and the old vd, with what they raise in the condition
field, and the FN values each has. -/
def laneRows : List ((Issue → BitVec 56 → Instr) × Nat × (Nat → Nat → Nat → Nat → Nat → VRes)) := [
  (.vadd, 16, fun _ a b _ _ => ⟨fAdd a b, false, false⟩), (.vsub, 16, fun _ a b _ _ => ⟨fSub a b, false, false⟩),
  (.vmul, 16, fun _ a b _ _ => ⟨fMul a b, false, false⟩), (.vfma, 16, fun _ a b c _ => ⟨fFma a b c, false, false⟩),
  (.vfma2, 16, fun _ a b c d => ⟨fFma2 d a b c, false, false⟩), (.vmin, 16, fun _ a b _ _ => ⟨fMin a b, false, false⟩),
  (.vmax, 16, fun _ a b _ _ => ⟨fMax a b, false, false⟩),
  (.vcmp, 4, fun n a b _ _ => ⟨if fCmp n a b then 0xFFFFFFFF else 0, false, false⟩),
  (.vsel, 16, fun _ a b c _ => ⟨if c ≠ 0 then a else b, false, false⟩),
  (.vdiv, 16, fun _ a b _ _ => fDiv a b), (.vrsq, 16, fun _ a _ _ _ => fRsqrt a), (.vexp2, 16, fun _ a _ _ _ => fExp2 a),
  (.vsexp, 16, fun _ a b _ _ => fSexp a b),
  (.vabs, 16, fun _ a _ _ _ => ⟨if fp32 a = .nan then nan32 else a % 2 ^ 31, false, false⟩),
  (.viadd, 16, fun _ a b _ _ => ⟨(a + b) % 2 ^ 32, false, false⟩), (.vand, 16, fun _ a b _ _ => ⟨Nat.land a b, false, false⟩),
  (.vor, 16, fun _ a b _ _ => ⟨Nat.lor a b, false, false⟩), (.vxor, 16, fun _ a b _ _ => ⟨Nat.xor a b, false, false⟩)]

/-- The instructions that act within their tile, with the forms of each that R105 allows. -/
def formRows : List ((Issue → BitVec 56 → Instr) × (BitVec 56 → Bool)) :=
  scalarRows.map (fun r => (r.1, fun f => opFn f == 0)) ++
  laneRows.map (fun r => (r.1, fun f => vResOk f false false && decide (vFn f < r.2.1))) ++ [
  (.lui, fun f => opFn f == 0 && opI f), (.ld, fun f => decide (opFn f < 8) && opI f), (.st, fun f => decide (opFn f < 4) && opI f),
  (.b, fun f => decide (opCc f ≤ 6) && bResOk f true), (.bcf, fun f => bResOk f false), (.jal, fun f => bResOk f false),
  (.jr, fun f => bResOk f false), (.mma4, fun f => wf f 47 17 == 0), (.mma8, fun f => wf f 47 17 == 0),
  (.mma16, fun f => wf f 47 17 == 0), (.mrd, fun f => wf f 25 39 == 0), (.vld, fun f => vResOk f true false),
  (.vst, fun f => vResOk f true false), (.vbc, fun f => vResOk f false false), (.vlane, fun f => vResOk f false false),
  (.vred, fun f => vResOk f false true && decide (vFn f < 3)), (.vsmax, fun f => vResOk f false true),
  (.vcvt, fun f => vResOk f false false && decide (vFn f % 4 ≠ 0)),
  (.tevInc, fun f => opI f && decide (opFn f < 16) && decide (0 < wf f 32 32) && decide (wf f 32 32 < 256)),
  (.tevWait, fun f => decide (opFn f < 16)), (.halt, fun f => opFn f == 0), (.tstart, fun f => opFn f == 0),
  (.crd, fun f => decide (opFn f ≤ 9) || (decide (0x40 ≤ opFn f) && decide (opFn f < 0x80)))]

/-- Lane l of a vector register of the issuing thread, as a number. -/
def ln (s : State) (x : Issue) (r l : Nat) : Nat := ((thr s x).lane r l).toNat

/-- The address of LD and ST: sa + IMM (R108). -/
def localAddr (s : State) (x : Issue) (f : BitVec 56) : Nat := ((thr s x).sreg (opA f) + opImm f).toNat

/-- The matrix instructions a tile's array has admitted and not completed. -/
def inArray (ti : Tile) : Nat := ti.array.queue.length + (if ti.array.running.isSome then 1 else 0)

/-- A new remote operation of the thread is recorded, of one kind and still wanted. -/
def NewOp (x : Issue) (s t : State) (k : TOpKind) : Prop :=
  ∃ o ∈ (ati t x).ops, o.id = (ati s x).nextOp ∧ o.thread = x.thread.toNat ∧ o.pc = (thr s x).pc ∧ o.kind = k ∧ o.live = true

/-- The thread is switched out until the answer of a new remote operation arrives (R100). -/
def WaitsFor (x : Issue) (s t : State) (k : TOpKind) : Prop :=
  (thr t x).st = .out ∧ (thr t x).pc = (thr s x).pc + 8 ∧ (thr t x).wait = .op (ati s x).nextOp ∧ NewOp x s t k

/-- The control registers of R127 whose value the spec fixes. -/
def controlRegs (s : State) (x : Issue) : List (Nat × Nat) :=
  [(0, x.thread.toNat), (1, x.tile.toNat), (2, fget s F.TILE_LOGICAL_LTN x.tile.toNat), (3, fget s F.TILE_JOB_JOB x.tile.toNat),
   (4, fget s F.TILE_JOB_SEED_SEED x.tile.toNat), (5, fget s F.TILE_STEP_STEP x.tile.toNat), (6, (thr s x).cond),
   (7, fget s F.MOD_DEVICE_ID_ID + 65536 * fget s F.MOD_DEVICE_ID_VALID), (9, if x.tile.toNat < 2048 then s.timeUp else s.timeDn)]
  ++ (List.range 64).map (fun b => (0x40 + b, (mget (ati s x).retired b 0).toNat))

/-- Every byte of the tile store outside `n` bytes from `a` reads as before. -/
def StoreOutside (x : Issue) (s t : State) (a n : Nat) : Prop :=
  ∀ b, b < a ∨ a + n ≤ b → mget (ati t x).store b 0 = mget (ati s x).store b 0

/-- Every byte of the depot outside `n` bytes from `a` reads as before. -/
def DepotOutside (s t : State) (a n : Nat) : Prop := ∀ b, b < a ∨ a + n ≤ b → mget t.dep.mem b 0 = mget s.dep.mem b 0

/-- Nothing holds an operation at depot address `a` up at its slice: its closure store has room, its line is not closed, has no
combining queue and no operation in service, and the companion does not hold it (R172, R177, R180). -/
structure Unheld (s : State) (a : Nat) : Prop where
  inside : a < depotSize
  room   : closureFull s a = false
  opened : lineClosed s (a / 64) = false
  cold   : hotOf s (a / 64) = none
  free   : inService s (a / 64) = false
  ours   : dirEntry s (a / 64) = none

/-- Moreover the depot cache holds the line, its copy undamaged (R171). -/
structure AtHome (s : State) (a : Nat) : Prop extends Unheld s a where
  hit   : cached s (a / 64) = true
  sound : copyErr s (a / 64) = 0

/-- An operation of `n` bytes at `a` has been applied for the row `tag` (R173, R175): the word is `v`, every other byte as before,
and the answer brings the old word and the slice's next home sequence number. -/
def Applied (s : State) (a n tag v : Nat) (u : State) : Prop :=
  depRead u a n = v ∧ DepotOutside s u a n ∧ mget u.dep.hseq (sliceOf a) 0 = (mget s.dep.hseq (sliceOf a) 0 + 1) % 2 ^ 32
    ∧ (∀ k, k ≠ sliceOf a → mget u.dep.hseq k 0 = mget s.dep.hseq k 0) ∧ u.tiles = s.tiles
    ∧ u.outbox = s.outbox ++ [.home tag ⟨0, depRead s a n, some ((mget s.dep.hseq (sliceOf a) 0 + 1) % 2 ^ 32), 0⟩]

/-- The word operations of R173 with one operand: width in bytes, old word, operand. -/
def homeRows : List ((BitVec 36 → Bool → BitVec 64 → BitVec 16 → Instr) × (Nat → Nat → Nat → Nat)) := [
  (.homeAdd, fun w old x => (old + x) % 2 ^ (8 * w)),
  (.homeMin, fun w old x => if sext x (8 * w) < sext old (8 * w) then x else old),
  (.homeMax, fun w old x => if sext old (8 * w) < sext x (8 * w) then x else old),
  (.homeXor, fun _ old x => Nat.xor old x), (.homeSwap, fun _ _ x => x)]

/-- A packet for this device arrives at a fabric port whose half is in service, of stream `src`, `job` with number `seq` (R205, R208);
the port has room for its answer (R352), and it need not wait for the bridge (R24). -/
structure Arrives (s : State) (p : BitVec 5) (hdr : BitVec 448) (src job seq : Nat) : Prop where
  up   : inPreset s (portHalf p.toNat) = false
  room : ∀ i ∈ (lget s p.toNat).held, i.hdr ≠ hdr
  near : takingHalf s hdr = portHalf p.toNat ∨ (brgOpen s = true ∧ s.brg.inbound = [])
  here : isOwn s (hb hdr 48 16) = true
  src  : hb hdr 32 16 = src
  job  : hb hdr 16 12 = job
  seq  : hb hdr 64 32 = seq

/-- A numbered flit at port `p` counts, and is accepted in sequence or breaks its credits and takes the link down (R347, R354). -/
def Accepted (s u : State) (p : Nat) : Prop :=
  fget u F.FAB_PORT_RX_FLITS p = min (fget s F.FAB_PORT_RX_FLITS p + 1) (2 ^ F.FAB_PORT_RX_FLITS.width - 1)
    ∧ ((lget u p).rxExp = ((lget s p).rxExp + 1) % 65536 ∨ fget u F.FAB_PORT_STATUS_LINK p = 0)

/-- The event counter that a shunter command names is raised by 1, and its tile keeps the rest of its counters (R284). -/
def EvRaised (s u : State) (l : Line) : Prop :=
  ∀ n, mget (tget u (shTile l)).events n 0 = mget (tget s (shTile l)).events n 0 + (if n = bitsAt l.toNat 8 4 then 1 else 0)

/-- The changeover of laser `i` has started: its understudy is taken and lit (R306, R307). -/
def TakesOver (s : State) (i : Nat) (u : State) : Prop :=
  bitAt (fget u F.LAS_STATUS_UND_FREE (i / 24)) (lasWl i) = false ∧ lasState u (undOf i) = 1
    ∧ (∃ x ∈ u.opt.changes, x.laser = i ∧ x.phase = .warming) ∧ (∀ k ∈ u.opt.marks, k.laser ≠ i) ∧ u.links = s.links

/-- The registers whose write does more than set fields. -/
def actingRegs : List Reg := [
  .TILE_CTL, .TILE_ARRAY_CTL, .TILE_LOGICAL, .TILE_JOB, .TILE_JOB_SEED, .TILE_STEP, .TILE_ENTRY, .BLK_CTL, .DEP_CTL, .DEP_CH_CTL,
  .WIN_COMMIT, .CUE_CTL, .STM_CFG, .STM_STEP, .CUE_MAP, .DEP_SHN_CTL, .PORT_CFG, .PORT_CTL, .PORT_STEER, .LAS_CTL, .FAB_ROUTE_MEMBER, .FAB_ROUTE_DIST,
  .FAB_PORT_CTL, .ILK_CTL, .BRG_CTL, .PWR_CFG, .MOD_CTL, .LYS_CTL, .SEC_CTL, .SEC_ATT, .SEC_RCV_CTL, .MODE_CFG, .MODE_CTL]

end Sys2Proof.Machine
end

