-- ==== Sys2Proof/Certificates/Slice0/Obligations.lean ====
section
/-!
DEFINITION. The statements about this block, one per family of commands and kind of state, from the spec's numbered rules.
-/

open Sys2Proof Sys2Proof.Machine

/-! ## The block as a whole -/

/-- A step takes the command in front of the queue and runs it on the state with the rest of the queue. With no command waiting the
two halves' time counters go on by 1 ns while the core has power and the crystal runs, the down half's only with the shared clock,
and nothing else changes (the model's choice, log entry 3).
The model's choices it rests on: log entries 1, 3. -/
def Obligations.FrontOfQueue : Prop :=
  (∀ c rest s, s.pending = c :: rest → step s = exec c { s with pending := rest })
  ∧ ∀ s, s.pending = [] → ∃ t, step s = .next t ∧ { t with timeUp := s.timeUp, timeDn := s.timeDn } = s
    ∧ (if fget s F.MOD_MSTATUS_PGOOD = 1 ∧ s.brg.crystal = false
       then t.timeUp = s.timeUp + 1 ∧ t.timeDn = (if s.brg.clkLost = true then s.timeDn else s.timeDn + 1)
       else t = s)

/-- Right after reset every register field reads the reset value of its field map, no command waits, memory lists nothing, and the
block's data are in order.
The model's choices it rests on: log entries 12, 13, 14. -/
def Obligations.ResetInv : Prop :=
  (∀ (f : Fld) i, fget State.reset f i = f.reset i) ∧ State.reset.pending = [] ∧ State.reset.dep.mem = [] ∧ Machine.Inv State.reset

/-- No command is refused: each answers a next state, but for a home operation at or above 0xC_0000_0000, which names no home
(R151) and stops the machine.
The model's choices it rests on: log entries 5, 10. -/
def Obligations.Completes : Prop :=
  (∀ c s, (∃ t, exec c s = .next t) ∨ exec c s = .fault .depotAddress)
  ∧ ∀ (addr : BitVec 36) tag s, 0xC00000000 ≤ addr.toNat →
    (∀ w cerr, exec (.homeLoad addr w tag cerr) s = .fault .depotAddress) ∧ (∀ w d, exec (.homeStore addr w d tag) s = .fault .depotAddress)
    ∧ (∀ r ∈ homeRows, ∀ wide x, exec (r.1 addr wide x tag) s = .fault .depotAddress)
    ∧ (∀ wide x c, exec (.homeCompareAndSwap addr wide x c tag) s = .fault .depotAddress)
    ∧ (∀ x, exec (.homeExactInt32Accumulate addr x tag) s = .fault .depotAddress ∧ exec (.homeFp32Add addr x tag) s = .fault .depotAddress)

/-- A command that completes lets no time pass and takes and adds no command; the register file stays in rising order and the
depot's memory in its canonical form.
The model's choices it rests on: log entries 3, 14. -/
def Obligations.CommandKeeps : Prop :=
  ∀ c s t, exec c s = .next t → Keeps s t

/-- Every step keeps the block's data in order.
The model's choices it rests on: log entries 3, 14. -/
def Obligations.StepKeepsInv : Prop :=
  ∀ s t, Machine.Inv s → step s = .next t → Machine.Inv t

/-! ## The tile's threads -/

/-- R106: a scalar operation with FN 0 writes the operation's value of sa and op2 to sd, and the thread goes on.
LUI with I = 1 and FN 0 writes IMM shifted left by 32. -/
def Obligations.ScalarResult : Prop :=
  (∀ r ∈ scalarRows, ∀ x f s, Ready x s → opFn f = 0 →
    Yields (r.1 x f) s fun t => HoldsS t x (opD f) (r.2 ((thr s x).sreg (opA f)) (op2 (thr s x) f)) ∧ GoesOn x s t)
  ∧ (∀ x f s, Ready x s → opFn f = 0 → opI f = true → Yields (.lui x f) s fun t => HoldsS t x (opD f) (opImm f <<< 32) ∧ GoesOn x s t)

/-- R107: dividing by 0 gives all ones for div and divu and the first operand for rem and remu; −2^63 divided by −1 gives −2^63
with remainder 0. No division faults. -/
def Obligations.DivisionCorners : Prop :=
  ∀ x f s, Ready x s → opFn f = 0 →
    (∀ c ∈ [Instr.div, .divu, .rem, .remu], Yields (c x f) s fun t => GoesOn x s t)
    ∧ (op2 (thr s x) f = 0 →
      Yields (.div x f) s (fun t => HoldsS t x (opD f) (BitVec.allOnes 64)) ∧ Yields (.divu x f) s (fun t => HoldsS t x (opD f) (BitVec.allOnes 64))
      ∧ Yields (.rem x f) s (fun t => HoldsS t x (opD f) ((thr s x).sreg (opA f)))
      ∧ Yields (.remu x f) s (fun t => HoldsS t x (opD f) ((thr s x).sreg (opA f))))
    ∧ ((thr s x).sreg (opA f) = BitVec.ofInt 64 (-2 ^ 63) → op2 (thr s x) f = BitVec.ofInt 64 (-1) →
      Yields (.div x f) s (fun t => HoldsS t x (opD f) (BitVec.ofInt 64 (-2 ^ 63))) ∧ Yields (.rem x f) s (fun t => HoldsS t x (opD f) 0))

/-- R105, R131: an instruction with a reserved function value or a non-zero reserved field faults its thread with cause 1.
An instruction of a thread that cannot issue (R99, R134) changes nothing: its tile is retired or stopped, its half in partial
reset, or it is neither ready nor held.
The model's choices it rests on: log entries 24, 25. -/
def Obligations.IssueStops : Prop :=
  (∀ r ∈ formRows, ∀ x f s, Ready x s → r.2 f = false → Yields (r.1 x f) s fun t => Faults x s t 1)
  ∧ (∀ c ∈ [Instr.ld, .st, .b, .bcf, .jal, .jr, .mma4, .mma8, .mma16, .mrd, .vld, .vst, .vbc, .vred, .vsmax, .vcvt, .vlane,
      .tevInc, .tevWait, .halt, .tstart, .crd, .cwr] ++ scalarRows.map (·.1) ++ laneRows.map (·.1),
    ∀ x f s, (tileRetired s x.tile.toNat = true ∨ fget s F.TILE_CTL_RUN x.tile.toNat ≠ 1
        ∨ inPreset s (tileHalf x.tile.toNat) = true ∨ ((thr s x).st ≠ .ready ∧ (thr s x).st ≠ .held)) →
      exec (c x f) s = .next s)

/-- R98, R104, R105: the words of a tile's program. Encoding a tile instruction and decoding its word gives it back, and no two words
spell one instruction; a thread runs the instruction that stands at its program counter; one with a reserved opcode faults with cause 1. -/
def Obligations.TileWords : Prop :=
  (∀ i c, tileCode i = some c → ∃ w, tileWord i = some w ∧ w.toNat % 256 = c.1 ∧ w.toNat / 256 = c.2.2.toNat ∧ decodeTile c.2.1 w = some i)
  ∧ (∀ x w i, decodeTile x w = some i → tileWord i = some w)
  ∧ (∀ x s i, decodeTile x (progWord s x.tile.toNat x.thread.toNat) = some i → execProgram x s = exec i s)
  ∧ ∀ x (w : BitVec 64) s, Ready x s → tileRow (w.toNat % 256) = none → ∃ t, execTileWord x w s = .next t ∧ Faults x s t 1

/-- A scalar operation or LUI that goes on leaves alone every other register of its thread, the other threads, the rest of the
tile, every other tile, every unit, and every register but the tile's issue counter.
A lane operation leaves alone every other vector register, the scalar registers, the other threads, the rest of the tile,
every other tile, every unit and every register but the tile's issue counter. -/
def Obligations.OperationFrame : Prop :=
  (∀ c, (c = Instr.lui ∨ ∃ r ∈ scalarRows, c = r.1) → ∀ x f s t, Ready x s → opFn f = 0 → opI f = true → exec (c x f) s = .next t →
    (∀ k, k ≠ opD f → (thr t x).sreg k = (thr s x).sreg k) ∧ (thr t x).v = (thr s x).v ∧ (thr t x).cond = (thr s x).cond
    ∧ (thr t x).streams = (thr s x).streams ∧ OtherThreads x s t ∧ SameTile (ati s x) (ati t x) ∧ SameUnits s t
    ∧ SameRegs s t (only F.TILE_ISSUED_COUNT x.tile.toNat))
  ∧ (∀ r ∈ laneRows, ∀ x f s t, Ready x s → vResOk f false false = true → vFn f < r.2.1 → exec (r.1 x f) s = .next t →
    (∀ k, k ≠ vD f → ∀ l < 64, (thr t x).lane k l = (thr s x).lane k l) ∧ (thr t x).s = (thr s x).s
    ∧ (thr t x).streams = (thr s x).streams ∧ OtherThreads x s t ∧ SameTile (ati s x) (ati t x) ∧ SameUnits s t
    ∧ SameRegs s t (only F.TILE_ISSUED_COUNT x.tile.toNat))

/-- R108: LD reads 1, 2, 4 or 8 bytes at the aligned address sa + IMM of the tile store, zero- or sign-extended as FN says, and
changes nothing else.
ST writes the low 1, 2, 4 or 8 bytes of sb at the aligned address sa + IMM, and changes no other byte of the store, no
register of the thread, no other tile and no unit. -/
def Obligations.LoadStoreResult : Prop :=
  (∀ x f s, Ready x s → opI f = true → opFn f < 8 → localAddr s x f % ldWidth f = 0 →
    localAddr s x f < 0x80000 → blockPending (ati s x) (localAddr s x f / 64) = false → mget (ati s x).storeErr (localAddr s x f / 64) 0 = 0 →
      Yields (.ld x f) s fun t =>
        HoldsS t x (opD f) (let v := mreadLE (ati s x).store (localAddr s x f) (ldWidth f)
          if bitAt (opFn f) 2 then BitVec.ofInt 64 (sext v (8 * ldWidth f)) else BitVec.ofNat 64 v)
        ∧ GoesOn x s t ∧ OtherThreads x s t ∧ SameTile (ati s x) (ati t x) ∧ SameUnits s t
        ∧ SameRegs s t (only F.TILE_ISSUED_COUNT x.tile.toNat))
  ∧ (∀ x f s, Ready x s → opI f = true → opFn f < 4 → localAddr s x f % ldWidth f = 0 →
    localAddr s x f < 0x80000 → blockPending (ati s x) (localAddr s x f / 64) = false → mget (ati s x).storeErr (localAddr s x f / 64) 0 = 0 →
      Yields (.st x f) s fun t =>
        mreadLE (ati t x).store (localAddr s x f) (ldWidth f) = ((thr s x).sreg (opB f)).toNat % 2 ^ (8 * ldWidth f)
        ∧ StoreOutside x s t (localAddr s x f) (ldWidth f)
        ∧ GoesOn x s t ∧ SameThread (thr t x) (thr s x) ∧ OtherThreads x s t ∧ (ati t x).events = (ati s x).events
        ∧ (ati t x).prog = (ati s x).prog ∧ SameUnits s t ∧ SameRegs s t (only F.TILE_ISSUED_COUNT x.tile.toNat))

/-- R46, R108: an LD or ST whose address is not aligned or lies past the tile store faults with cause 2; else it is held while a
read-out will write its block; else it faults with cause 3 where its block is uncorrectable, and the store stays as it was.
The model's choices it rests on: log entry 25. -/
def Obligations.LoadStoreStops : Prop :=
  ∀ x f s, Ready x s → opI f = true → ∀ c, (c = Instr.ld ∧ opFn f < 8) ∨ (c = Instr.st ∧ opFn f < 4) →
    let a := localAddr s x f
    (a % ldWidth f ≠ 0 ∨ 0x80000 ≤ a → Yields (c x f) s fun t => Faults x s t 2)
    ∧ (a % ldWidth f = 0 → a < 0x80000 → blockPending (ati s x) (a / 64) = true → Yields (c x f) s fun t => Held x s t)
    ∧ (a % ldWidth f = 0 → a < 0x80000 → blockPending (ati s x) (a / 64) = false →
        decodeBlock 4 [] (mget (ati s x).storeErr (a / 64) 0) = .uncorrectable →
        Yields (c x f) s fun t => Faults x s t 3 ∧ (ati t x).store = (ati s x).store)

/-- R109: the branches. B goes to the program counter + OFF × 8 where the condition of CC holds between sa and sb, BCF where the
condition field and sa share a bit, JAL always with the address of the next instruction in sd, and JR goes to sa + OFF × 8; a
branch not taken goes on, and a target that is no multiple of 8 within the program store faults with cause 2. -/
def Obligations.BranchResult : Prop :=
  ∀ x f s, Ready x s →
    let dst := ((thr s x).pc : Int) + opOff8 f
    let a := (thr s x).sreg (opA f); let b := (thr s x).sreg (opB f)
    (bResOk f true = true → opCc f ≤ 6 → Yields (.b x f) s fun t => SameThread (thr t x) (thr s x) ∧
      if (opCc f = 0 ∧ a = b) ∨ (opCc f = 1 ∧ a ≠ b) ∨ (opCc f = 2 ∧ a.toInt < b.toInt) ∨ (opCc f = 3 ∧ b.toInt ≤ a.toInt)
          ∨ (opCc f = 4 ∧ a.toNat < b.toNat) ∨ (opCc f = 5 ∧ b.toNat ≤ a.toNat) ∨ opCc f = 6
        then BranchesTo x s t dst else GoesOn x s t)
    ∧ (bResOk f false = true →
      Yields (.bcf x f) s (fun t => SameThread (thr t x) (thr s x) ∧
        if Nat.land (thr s x).cond a.toNat ≠ 0 then BranchesTo x s t dst else GoesOn x s t)
      ∧ Yields (.jal x f) s (fun t => BranchesTo x s t dst ∧
        (0 ≤ dst ∧ dst ≤ 0x7FF8 ∧ dst % 8 = 0 → HoldsS t x (opD f) (BitVec.ofNat 64 ((thr s x).pc + 8))))
      ∧ Yields (.jr x f) s (fun t => SameThread (thr t x) (thr s x) ∧ BranchesTo x s t (a + BitVec.ofInt 64 (opOff8 f)).toNat))

/-! ## Vector operations -/

/-- R115: a lane operation gives every lane of vd the operation's value of the same lane of va, vb, vc and vd, and raises the
condition bits of R128 that any lane raises.
The model's choices it rests on: log entries 30, 31. -/
def Obligations.LaneResult : Prop :=
  ∀ r ∈ laneRows, ∀ x f s, Ready x s → vResOk f false false = true → vFn f < r.2.1 →
    let v : Nat → VRes := fun l => r.2.2 (vFn f) (ln s x (vA f) l) (ln s x (vB f) l) (ln s x (vC f) l) (ln s x (vD f) l)
    Yields (r.1 x f) s fun t =>
      (∀ l < 64, ln t x (vD f) l = (v l).code % 2 ^ 32) ∧ GoesOn x s t
      ∧ (thr t x).cond = Nat.lor (thr s x).cond (Nat.lor (if (List.range 64).any (fun l => (v l).vnan) then 256 else 0)
          (if (List.range 64).any (fun l => (v l).vovf) then 512 else 0))

/-- R115, R117, R118, R120: VBC puts sa[31:0] in every lane; VLANE takes one lane to a scalar register; VRED gives every lane of
a segment the sum, maximum or minimum of va over it; VSMAX the maximum of vb's lane and of va over it; VCVT converts and rounds
every lane.
VLD (R116) fills vd from 4, 2, 4 or 1 whole blocks, each lane widened from its type; VST stores the low bits of each lane of
va to whole blocks and changes no other byte of the tile store. The address sa + OFF must be a multiple of 64 inside the store.
The model's choices it rests on: log entry 29. -/
def Obligations.VectorOthers : Prop :=
  (∀ x f s, Ready x s →
    (vResOk f false false = true → Yields (.vbc x f) s fun t =>
      (∀ l < 64, ln t x (vD f) l = ((thr s x).sreg (vSA f)).toNat % 2 ^ 32) ∧ GoesOn x s t)
    ∧ (vResOk f false false = true → Yields (.vlane x f) s fun t =>
      HoldsS t x (vSA f) (((thr s x).lane (vA f) (wf f 44 6)).setWidth 64) ∧ GoesOn x s t)
    ∧ (vResOk f false true = true → vFn f < 3 → Yields (.vred x f) s fun t =>
      (∀ l < 64, ln t x (vD f) l = (redTree (if vFn f = 0 then fAdd else if vFn f = 1 then fMax else fMin) 7
          ((List.range (segWidth f)).map (fun k => ln s x (vA f) (l / segWidth f * segWidth f + k)))) % 2 ^ 32) ∧ GoesOn x s t)
    ∧ (vResOk f false true = true → Yields (.vsmax x f) s fun t =>
      (∀ l < 64, ln t x (vD f) l = (fMax (ln s x (vB f) l)
          (redTree fMax 7 ((List.range (segWidth f)).map (fun k => ln s x (vA f) (l / segWidth f * segWidth f + k))))) % 2 ^ 32) ∧ GoesOn x s t)
    ∧ (vResOk f false false = true → vFn f % 4 ≠ 0 → Yields (.vcvt x f) s fun t =>
      (∀ l < 64, ln t x (vD f) l = (narrow (outFmt (vFn f % 4))
          (if bitAt (vFn f) 2 then .sr (srWord (fget s F.TILE_JOB_SEED_SEED x.tile.toNat) (fget s F.TILE_LOGICAL_LTN x.tile.toNat) l
            (((thr s x).sreg (vSB f)).toNat % 2 ^ 40) (((thr s x).sreg (vSA f)).toNat % 2 ^ 32)) else .rne) (ln s x (vA f) l)) % 2 ^ 32)
      ∧ GoesOn x s t))
  ∧ (∀ x f s, Ready x s → vResOk f true false = true →
    let a := ((thr s x).sreg (vSA f) + BitVec.ofInt 64 (vOff f)).toNat
    let n := vBlocks (vTy f); let w := vBytes (vTy f)
    a % 64 = 0 → a + n * 64 ≤ 0x80000 →
      (((∀ k < n, blockPending (ati s x) (a / 64 + k) = false ∧ mget (ati s x).storeErr (a / 64 + k) 0 = 0) →
        Yields (.vld x f) s fun t =>
          (∀ l < 64, ln t x (vD f) l = vldLane (vTy f) (vFn f) (mreadLE (ati s x).store (a + l * w) w) % 2 ^ 32)
          ∧ GoesOn x s t ∧ (ati t x).store = (ati s x).store)
      ∧ Yields (.vst x f) s fun t =>
          (∀ l < 64, mreadLE (ati t x).store (a + l * w) w = ln s x (vA f) l % 2 ^ (8 * w))
          ∧ StoreOutside x s t a (n * 64) ∧ GoesOn x s t ∧ SameThread (thr t x) (thr s x) ∧ OtherThreads x s t ∧ SameUnits s t))

/-! ## The array, thread control and retirement -/

/-- R41, R42, R110, R113: a matrix instruction opens its group, joins the open group of its thread, is held behind another
thread's group, or is a sequence error; MRD closes the open group of its thread and issues its read-out.
The model's choices it rests on: log entries 25, 150. -/
def Obligations.MatrixIssue : Prop :=
  ∀ x f s, Ready x s →
    let a := (ati s x).array
    (∀ c ∈ [Instr.mma4, .mma8, .mma16], wf f 47 17 = 0 →
      (wb f 20 = true → a.open? = none → a.waiters = [] → a.queue.length < 4 → Yields (c x f) s fun t =>
        GoesOn x s t ∧ (ati t x).array.openG = some a.nextId ∧ inArray (ati t x) = inArray (ati s x) + 1
        ∧ ∃ g ∈ (ati t x).array.groups, g.id = a.nextId ∧ g.owner = x.thread.toNat)
      ∧ (wb f 20 = true → a.open? = none → a.waiters ≠ [] ∨ 4 ≤ a.queue.length → Yields (c x f) s fun t =>
          Held x s t ∧ ∃ o ∈ (ati t x).array.waiters, o.thread = x.thread.toNat)
      ∧ (∀ g, a.open? = some g →
        (wb f 20 = true → g.owner ≠ x.thread.toNat → Yields (c x f) s fun t =>
          Held x s t ∧ ∃ o ∈ (ati t x).array.waiters, o.thread = x.thread.toNat)
        ∧ (wb f 20 = false → g.owner = x.thread.toNat → a.queue.length < 4 → Yields (c x f) s fun t =>
          GoesOn x s t ∧ inArray (ati t x) = inArray (ati s x) + 1
          ∧ ∃ g2 ∈ (ati t x).array.groups, g2.id = g.id ∧ g2.count = g.count + 1)
        ∧ (wb f 20 = false → g.owner = x.thread.toNat → 4 ≤ a.queue.length → Yields (c x f) s fun t => Held x s t))
      ∧ (wb f 20 = false → (∀ g, a.open? = some g → g.owner ≠ x.thread.toNat) → Yields (c x f) s fun t =>
          GoesOn x s t ∧ (ati t x).array = a ∧ fget t F.TILE_FLAGS_SEQ x.tile.toNat = 1))
    ∧ (wf f 25 39 = 0 →
      (∀ g, a.open? = some g → g.owner = x.thread.toNat → Yields (.mrd x f) s fun t =>
        GoesOn x s t ∧ (ati t x).array.openG = none ∧ ∃ g2 ∈ (ati t x).array.groups, g2.id = g.id ∧ ∃ r, g2.readOut = some r
          ∧ r.thread = x.thread.toNat ∧ r.desc = ((thr s x).sreg (wf f 8 5)).toNat ∧ r.fmt = wf f 13 2
          ∧ r.step = fget s F.TILE_STEP_STEP x.tile.toNat)
      ∧ ((∀ g, a.open? = some g → g.owner ≠ x.thread.toNat) → Yields (.mrd x f) s fun t =>
        GoesOn x s t ∧ (ati t x).array = a ∧ fget t F.TILE_FLAGS_SEQ x.tile.toNat = 1))

/-- R41, R45, R70: a held opener is admitted once no group is open and the queue has room, and its thread goes on; the
instruction in the cells completes after 16 waves and the next takes its place; a group whose instructions have all completed
and whose read-out is issued goes to the latch. Otherwise nothing happens.
R44, R52, R58, R66: the drain writes every result block of the latched group and no other block, and ORs the group's flags
into its thread's condition field; a scrub write puts the corrected block back, unless another write reached the block first.
The model's choices it rests on: log entries 5, 33, 150. -/
def Obligations.ArrayEvents : Prop :=
  (∀ (tile : BitVec 12) s,
    let k := tile.toNat; let a := (tget s k).array
    (∀ o r, a.waiters = o :: r → a.openG = none → a.queue.length < 4 → ((tget s k).th o.thread).st = .held →
      Yields (.arrayAdmitOpener tile) s fun t =>
        (tget t k).array.waiters = r ∧ (tget t k).array.openG = some a.nextId
        ∧ ((tget t k).th o.thread).pc = ((tget s k).th o.thread).pc + 8 ∧ ((tget t k).th o.thread).st = .ready)
    ∧ (a.waiters = [] ∨ a.openG ≠ none ∨ 4 ≤ a.queue.length → exec (.arrayAdmitOpener tile) s = .next s)
    ∧ (∀ q stall, a.running = some q → feedWaits a q = false →
      Yields (.arrayInstructionComplete tile stall) s fun t =>
        (tget t k).array.running = a.queue.head? ∧ (tget t k).array.queue = a.queue.tail ∧ (tget t k).array.openG = a.openG
        ∧ fget t F.TILE_ARRAY_BUSY_COUNT k = min (fget s F.TILE_ARRAY_BUSY_COUNT k + 16) (2 ^ 64 - 1)
        ∧ fget t F.TILE_ARRAY_STALL_COUNT k = min (fget s F.TILE_ARRAY_STALL_COUNT k + stall.toNat) (2 ^ 64 - 1))
    ∧ (∀ stall, a.running = none → exec (.arrayInstructionComplete tile stall) s = .next s)
    ∧ (∀ g r, a.latch = none → a.groups = g :: r → g.readOut ≠ none → (∀ q ∈ a.queue, q.group ≠ g.id) →
      (∀ q, a.running = some q → q.group ≠ g.id) →
      Yields (.arrayGroupLatch tile) s fun t => (tget t k).array.latch = some g ∧ (tget t k).array.groups = r)
    ∧ (∀ g, a.latch = some g → exec (.arrayGroupLatch tile) s = .next s))
  ∧ (∀ (tile : BitVec 12) s,
    let k := tile.toNat; let ti := tget s k
    (∀ g r ds, ti.array.latch = some g → g.readOut = some r → destBlocks g r = some ds → (ds.map (·.1)).Nodup →
      Yields (.arrayDrainDone tile) s fun t =>
        (∀ d ∈ ds, mline (tget t k).store d.1 = resultBlock g r d.2)
        ∧ (∀ b, b ∉ ds.map (·.1) → mline (tget t k).store b = mline ti.store b) ∧ (tget t k).array.latch = none
        ∧ (r.thread < ti.threads.length → ((tget t k).th r.thread).cond
            = Nat.lor (ti.th r.thread).cond (Nat.lor g.flags (readFlags g r))))
    ∧ ∀ b : BitVec 13,
      (∀ e, b.toNat ∈ ti.scrubs → decodeBlock 4 [] (mget ti.storeErr b.toNat 0) = .corrected e →
        Yields (.tileScrubWrite tile b) s fun t =>
          mline (tget t k).store b.toNat = mline ti.store b.toNat ^^^ e ∧ mget (tget t k).storeErr b.toNat 0 = 0
          ∧ b.toNat ∉ (tget t k).scrubs ∧ (∀ c, c ≠ b.toNat → mline (tget t k).store c = mline ti.store c))
      ∧ (b.toNat ∉ ti.scrubs → exec (.tileScrubWrite tile b) s = .next s))

/-- R125, R126, R127: the event counters, halting and starting threads, and the control registers.
The model's choices it rests on: log entries 26, 27. -/
def Obligations.ThreadControl : Prop :=
  ∀ x f s, Ready x s →
    let ti := ati s x; let a := (thr s x).sreg (opA f); let b := (thr s x).sreg (opB f)
    let imm := wf f 32 32; let ev := (mget ti.events (opFn f) 0).toNat; let want := (op2 (thr s x) f).toNat % 2 ^ 32
    (opI f = true → opFn f < 16 → 0 < imm → imm < 256 → readOutPending ti x.thread.toNat = false → Yields (.tevInc x f) s fun t =>
      (∀ n, mget (ati t x).events n 0 = mget ti.events n 0 + (if n = opFn f then BitVec.ofNat 32 imm else 0)) ∧ GoesOn x s t
      ∧ SameThread (thr t x) (thr s x) ∧ OtherThreads x s t ∧ (ati t x).store = ti.store ∧ SameUnits s t)
    ∧ (opFn f < 16 → Yields (.tevWait x f) s fun t => SameThread (thr t x) (thr s x) ∧ (ati t x).events = ti.events ∧
      if (ev + 2 ^ 32 - want) % 2 ^ 32 < 2 ^ 31 then GoesOn x s t else Held x s t)
    ∧ (opFn f = 0 → Yields (.halt x f) s fun t => (thr t x).st = .idle ∧ OtherThreads x s t
      ∧ (∀ g, ti.array.open? = some g → g.owner = x.thread.toNat → (ati t x).array.openG = none ∧ fget t F.TILE_FLAGS_SEQ x.tile.toNat = 1))
    ∧ (opFn f = 0 → let k := a.toNat % 8
      ((ti.th k).st ≠ .idle → Yields (.tstart x f) s fun t => Faults x s t 8)
      ∧ ((ti.th k).st = .idle → k < ti.threads.length → Yields (.tstart x f) s fun t =>
        ((ati t x).th k).st = .ready ∧ ((ati t x).th k).pc = b.toNat ∧ ((ati t x).th k).cond = 0 ∧ ((ati t x).th k).v = []
        ∧ (∀ r, ((ati t x).th k).sreg r = if r = 1 then (thr s x).sreg (opD f) else 0) ∧ GoesOn x s t ∧ SameThread (thr t x) (thr s x)))
    ∧ (∀ n v, (n, v) ∈ controlRegs s x → opFn f = n → Yields (.crd x f) s fun t =>
      HoldsS t x (opD f) (BitVec.ofNat 64 v) ∧ GoesOn x s t)
    ∧ (opFn f = 5 → Yields (.cwr x f) s fun t => fget t F.TILE_STEP_STEP x.tile.toNat = a.toNat % 2 ^ 40 ∧ GoesOn x s t
      ∧ SameThread (thr t x) (thr s x))
    ∧ (opFn f = 6 → Yields (.cwr x f) s fun t => (thr t x).cond = Nat.land a.toNat 0x37F ∧ (thr t x).s = (thr s x).s ∧ GoesOn x s t)
    ∧ (opFn f ≠ 5 → opFn f ≠ 6 → Yields (.cwr x f) s fun t => Faults x s t 7)

/-- R71, R72, R134, R142: the control register of a tile starts, stops and aborts it and clears its counters; a tile in service
starts at `TILE_ENTRY`, with the program lines that the dispatcher has loaded over the block link (R98), when every thread is idle,
nothing is outstanding and no retirement pends, and a refused START changes no tile beyond those lines. A retired tile ignores every
write.
The model's choices it rests on: log entries 27, 28. -/
def Obligations.TileControl : Prop :=
  ∀ (tile : BitVec 12) s,
    let k := tile.toNat; let ti := tget s k
    let pend := bitAt (fget s F.BLK_RETIRE_PEND_MAP (k / 64)) (k % 64)
    (tileRetired s k = true → (∀ b, exec (.tileCtlRun tile b) s = .next s) ∧ exec (.tileCtlStart tile) s = .next s
      ∧ exec (.tileCtlCntClr tile) s = .next s ∧ exec (.tileArrayCntClr tile) s = .next s)
    ∧ (tileRetired s k = false →
      (∀ b, Yields (.tileCtlRun tile b) s fun t => (fget t F.TILE_CTL_RUN k = if b then 1 else 0)
        ∧ SameRegs s t (only F.TILE_CTL_RUN k) ∧ t.tiles = s.tiles ∧ SameUnits s t)
      ∧ ((ti.image.map (·.1)).Nodup → pend = false → allIdle ti = true → outstanding s k = 0 → 0 < ti.threads.length →
        Yields (.tileCtlStart tile) s fun t =>
        ((tget t k).th 0).st = .ready ∧ ((tget t k).th 0).pc = fget s F.TILE_ENTRY_ENTRY k * 8 ∧ (∀ r, ((tget t k).th 0).sreg r = 0)
        ∧ ((tget t k).th 0).v = [] ∧ (tget t k).events = [] ∧ (tget t k).store = ti.store
        ∧ (∀ l ∈ ti.image, mline (tget t k).prog l.1.toNat = l.2 ∧ mget (tget t k).progErr l.1.toNat 0 = 0)
        ∧ (∀ b, b ∉ ti.image.map (fun l => l.1.toNat) → mline (tget t k).prog b = mline ti.prog b)
        ∧ fget t F.BLK_LINK_RD_BYTES (k / 64) = min (fget s F.BLK_LINK_RD_BYTES (k / 64) + 64 * ti.image.length) (2 ^ 64 - 1) ∧ (tget t k).image = []
        ∧ (∀ u, u ≠ k → tget t u = tget s u) ∧ SameRegs s t (only F.BLK_LINK_RD_BYTES (k / 64)))
      ∧ (pend = true ∨ allIdle ti = false ∨ outstanding s k ≠ 0 → Yields (.tileCtlStart tile) s fun t =>
        t.tiles = (tileLoad s k).tiles ∧ SameRegs s t (fun g j => only F.LOG_STATUS_HELD_DROP 0 g j ∨ only F.BLK_LINK_RD_BYTES (k / 64) g j))
      ∧ (Acts (.tileCtlAbort tile) s fun t => allIdle (tget t k) = true ∧ (tget t k).events = [] ∧ (tget t k).array.groups = []
        ∧ (tget t k).array.queue = [] ∧ (tget t k).store = ti.store ∧ ∀ o ∈ (tget t k).ops, o.live = false)
      ∧ (Yields (.tileCtlCntClr tile) s fun t => fget t F.TILE_ISSUED_COUNT k = 0 ∧ fget t F.TILE_SWITCHES_COUNT k = 0
        ∧ t.tiles = s.tiles ∧ SameRegs s t (fun g j => only F.TILE_ISSUED_COUNT k g j ∨ only F.TILE_SWITCHES_COUNT k g j))
      ∧ Yields (.tileArrayCntClr tile) s fun t => fget t F.TILE_ARRAY_BUSY_COUNT k = 0 ∧ fget t F.TILE_ARRAY_STALL_COUNT k = 0
        ∧ t.tiles = s.tiles ∧ SameRegs s t (fun g j => only F.TILE_ARRAY_BUSY_COUNT k g j ∨ only F.TILE_ARRAY_STALL_COUNT k g j))

/-- R129, R130, R146: a retirement takes effect at once where the tile is idle with nothing outstanding, and else pends until it is;
it is logged as 0x0108 or 0x0109; a tile takes the map of a block as `BLK_RETIRED` shows it. -/
def Obligations.Retirement : Prop :=
  (∀ (block tile : BitVec 6) s,
    let k := block.toNat * 64 + tile.toNat; let idle := allIdle (tget s k) && outstanding s k == 0
    Yields (.blkCtlRetire block tile) s fun t => fget t F.BLK_CTL_TILE block.toNat = tile.toNat ∧
      if tileRetired s k then t.logw = s.logw ∧ fget t F.BLK_RETIRED_MAP block.toNat = fget s F.BLK_RETIRED_MAP block.toNat
      else if idle then tileRetired t k = true ∧ bitAt (fget t F.BLK_RETIRE_PEND_MAP block.toNat) tile.toNat = false
      else tileRetired t k = false ∧ bitAt (fget t F.BLK_RETIRE_PEND_MAP block.toNat) tile.toNat = true)
  ∧ (∀ (tile : BitVec 12) s,
    let k := tile.toNat; let b := k / 64
    if bitAt (fget s F.BLK_RETIRE_PEND_MAP b) (k % 64) && allIdle (tget s k) && outstanding s k == 0 then
      Yields (.retirementTakesEffect tile) s fun t => tileRetired t k = true ∧ bitAt (fget t F.BLK_RETIRE_PEND_MAP b) (k % 64) = false
        ∧ ∀ j < 64, j ≠ k % 64 → bitAt (fget t F.BLK_RETIRED_MAP b) j = bitAt (fget s F.BLK_RETIRED_MAP b) j
    else exec (.retirementTakesEffect tile) s = .next s)
  ∧ ∀ (tile : BitVec 12) (block : BitVec 6) s, Yields (.retiredMapTaken tile block) s fun t =>
      mget (tget t tile.toNat).retired block.toNat 0 = BitVec.ofNat 64 (fget s F.BLK_RETIRED_MAP block.toNat)
      ∧ (∀ j, j ≠ block.toNat → mget (tget t tile.toNat).retired j 0 = mget (tget s tile.toNat).retired j 0) ∧ t.regs = s.regs

/-! ## The tiles' remote accesses -/

/-- R100, R102, R121 to R123: a remote instruction that can be sent now records one operation of its thread, from which its answer
will be known; LDG and an AMO that returns a value switch the thread out until it comes, and the others go on. One that cannot be
sent is held. XWAIT and FENCE go on where their condition holds and else switch the thread out.
The model's choices it rests on: log entries 25, 34. -/
def Obligations.RemoteIssue : Prop :=
  ∀ x f s, Ready x s →
    let ti := ati s x; let job := fget s F.TILE_JOB_JOB x.tile.toNat
    let ga := ((thr s x).sreg (opA f) + opImm f).toNat
    let ra := ((thr s x).sreg (wf f 8 5)).toNat; let rb := ((thr s x).sreg (wf f 13 5)).toNat; let n := wf f 18 12 + 1
    let wide := bitAt (opFn f) 0; let amoOk := opI f = true ∧ opFn f < 64 ∧ opFn f % 16 < 8 ∧ (bitAt (opFn f) 4 = true → opFn f % 16 < 6)
    let posted := canSendNow s job ga 1 = true ∧ canRecord s (thr s x) (ga / 2 ^ 48) job = true
      ∧ (ti.ops.filter (fun o => o.open_ && o.isPosted && o.thread == x.thread.toNat)).length < 32
    (opI f = true → opFn f < 2 → canSendNow s job ga 1 = true → Acts (.ldg x f) s fun t => WaitsFor x s t (.load (opD f) wide))
    ∧ (opI f = true → opFn f < 2 → canSendNow s job ga 1 = false → Acts (.ldg x f) s fun t => Held x s t)
    ∧ (opI f = true → opFn f < 2 → posted → Acts (.stg x f) s fun t => GoesOn x s t ∧ NewOp x s t .posted)
    ∧ (amoOk → bitAt (opFn f) 5 = false → canSendNow s job ga 1 = true →
        Acts (.amo x f) s fun t => WaitsFor x s t (.load (opD f) (bitAt (opFn f) 4)))
    ∧ (amoOk → bitAt (opFn f) 5 = true → posted → Acts (.amo x f) s fun t => GoesOn x s t ∧ NewOp x s t .posted)
    ∧ (wf f 30 34 = 0 → ra % 64 = 0 → rb % 64 = 0 → xfersOpen ti < 32 → canSendNow s job ra 1 = true → canRecord s (thr s x) (ra / 2 ^ 48) job = true →
        (rb + 64 * n ≤ 0x80000 → Acts (.xget x f) s fun t => GoesOn x s t ∧ NewOp x s t (.get (rb / 64)))
        ∧ (rb + 64 * n ≤ 0x8000 → Acts (.xgetp x f) s fun t => GoesOn x s t ∧ NewOp x s t (.getp (rb / 64))))
    ∧ (wf f 30 34 = 0 → ra % 64 = 0 → rb % 64 = 0 → rb + 64 * n ≤ 0x80000 → xfersOpen ti < 32 →
        canSendNow s job ra ((n + 63) / 64) = true → canRecord s (thr s x) (ra / 2 ^ 48) job = true →
        (∀ i < n, blockPending ti (rb / 64 + i) = false) → Acts (.xput x f) s fun t => GoesOn x s t ∧ NewOp x s t .put)
    ∧ (opI f = true → opFn f = 0 → wf f 32 32 < 32 → Acts (.xwait x f) s fun t =>
        if wf f 32 32 < threadXfers ti x.thread.toNat then (thr t x).st = .out ∧ (thr t x).pc = (thr s x).pc + 8
        else match coveredFail ti x.thread.toNat TOp.isXfer with
          | some c => c.1 < 16 → Faults x s t c.1
          | none => GoesOn x s t ∧ SameThread (thr t x) (thr s x))
    ∧ (opFn f = 0 → Acts (.fence x f) s fun t =>
        if fenceDone s x.tile.toNat x.thread.toNat = false then (thr t x).st = .out ∧ (thr t x).pc = (thr s x).pc + 8
        else match coveredFail ti x.thread.toNat (fun _ => true) with
          | some c => c.1 < 16 → Faults x s t c.1
          | none => GoesOn x s t ∧ (thr t x).streams = [] ∧ (thr t x).s = (thr s x).s)

/-- R100, R131: the next answer that arrives at a tile leaves its queue; the answer of a load that is still wanted gives its thread
the value and readies it, or faults it; the lines of a transfer go to their blocks; an answer nobody wants is discarded.
The model's choices it rests on: log entry 6. -/
def Obligations.AnswerArrival : Prop :=
  ∀ (tile : BitVec 12) s a as,
    let k := tile.toNat; let ti := tget s k
    ti.arrivals = a :: as →
    (ti.ops.find? (fun o => o.id == a.op) = none → Acts (.remoteResponseArrival tile) s fun t => tget t k = { ti with arrivals := as })
    ∧ ∀ o, ti.ops.find? (fun o => o.id == a.op) = some o → o.live = true → o.fail = none → o.thread < ti.threads.length →
      (∀ sd wide, o.kind = .load sd wide → a.status = 0 → Acts (.remoteResponseArrival tile) s fun t =>
        ((tget t k).th o.thread).st = .ready ∧ ((tget t k).th o.thread).pc = (ti.th o.thread).pc ∧ (tget t k).arrivals = as
        ∧ ((tget t k).th o.thread).sreg sd = if sd = 0 then 0 else BitVec.ofNat 64 (if wide then a.value else a.value % 2 ^ 32))
      ∧ (∀ sd wide, o.kind = .load sd wide → a.status ≠ 0 → Acts (.remoteResponseArrival tile) s fun t =>
        ((tget t k).th o.thread).st = .faulted ∧ (fget s F.TILE_FAULT_VALID k ≠ 1 → fget t F.TILE_FAULT_CAUSE k = causeOf a.status))
      ∧ (∀ b, o.kind = .get b → Acts (.remoteResponseArrival tile) s fun t => (tget t k).arrivals = as ∧
        ∀ i < a.data.length, mline (tget t k).store (b + i) = a.data.getD i 0)
      ∧ (∀ b, o.kind = .getp b → Acts (.remoteResponseArrival tile) s fun t => (tget t k).arrivals = as ∧
        ∀ i < a.data.length, mline (tget t k).prog (b + i) = a.data.getD i 0)

/-! ## The depot -/

/-- R173, R175, R176: an operation on a cached line that nothing holds up writes the operation's value of the old word and the
operand, answers the old word with the slice's next home sequence number, and changes no other byte of the depot. An exact
accumulate that leaves −(2^31 − 1) to 2^31 − 1, or finds the marker, stores the marker 0x8000_0000.
The model's choices it rests on: log entries 36, 43, 151. -/
def Obligations.HomeAtomics : Prop :=
  ∀ (addr : BitVec 36) (tag : BitVec 16) s, AtHome s addr.toNat →
    (∀ r ∈ homeRows, ∀ wide x, addr.toNat % wordBytes wide = 0 → Acts (r.1 addr wide x tag) s
      (Applied s addr.toNat (wordBytes wide) tag.toNat (r.2 (wordBytes wide) (depRead s addr.toNat (wordBytes wide)) (x.toNat % 2 ^ (8 * wordBytes wide)))))
    ∧ (∀ wide x c, addr.toNat % wordBytes wide = 0 → Acts (.homeCompareAndSwap addr wide x c tag) s
      (Applied s addr.toNat (wordBytes wide) tag.toNat
        (if depRead s addr.toNat (wordBytes wide) = c.toNat % 2 ^ (8 * wordBytes wide) then x.toNat % 2 ^ (8 * wordBytes wide)
         else depRead s addr.toNat (wordBytes wide))))
    ∧ ∀ x, addr.toNat % 4 = 0 →
      (let old := depRead s addr.toNat 4; let sum := sext old 32 + x.toInt
       Acts (.homeExactInt32Accumulate addr x tag) s (Applied s addr.toNat 4 tag.toNat
        (if old = 0x80000000 ∨ sum < -(2 ^ 31 - 1) ∨ 2 ^ 31 - 1 < sum then 0x80000000 else (old + x.toNat) % 2 ^ 32)))
      ∧ Acts (.homeFp32Add addr x tag) s (Applied s addr.toNat 4 tag.toNat (fAdd (depRead s addr.toNat 4) x.toNat % 2 ^ 32))

/-- R169, R173, R175: a load from a cached line that nothing holds up answers the word and changes nothing in memory; a store
writes it and takes a home sequence number; a misaligned operation is refused and changes nothing; an operation on a line that the
cache does not hold waits for its stack, but for a store of the whole line, which goes to the stack at once and ends its damage,
unless the channel retrains (R161).
R156, R169: a load that waited for its stack is answered once the read completes: with the word where the copy is clean, and
with status 6 where two readings are uncorrectable, the line's address being kept. While the channel retrains nothing happens.
The model's choices it rests on: log entries 36, 43, 44, 151. -/
def Obligations.HomeLoadStore : Prop :=
  (∀ (addr : BitVec 36) w (tag : BitVec 16) s,
    let a := addr.toNat; let n := homeBytes w
    (AtHome s a → a % n = 0 →
      Acts (.homeLoad addr w tag 0) s (fun u => u.outbox = s.outbox ++ [.home tag.toNat ⟨0, depRead s a n, none, 0⟩]
        ∧ u.dep.mem = s.dep.mem ∧ u.dep.hseq = s.dep.hseq ∧ u.regs = s.regs)
      ∧ ∀ d : BitVec 512, Acts (.homeStore addr w d tag) s fun u =>
        depRead u a n = d.toNat % 2 ^ (8 * n) ∧ DepotOutside s u a n ∧ mget u.dep.hseq (sliceOf a) 0 = (mget s.dep.hseq (sliceOf a) 0 + 1) % 2 ^ 32
        ∧ u.outbox = s.outbox ++ [.home tag.toNat ⟨0, 0, some ((mget s.dep.hseq (sliceOf a) 0 + 1) % 2 ^ 32), 0⟩])
    ∧ (a < depotSize → a % n ≠ 0 →
      Acts (.homeLoad addr w tag 0) s (fun u => u = send s (.home tag.toNat ⟨5, 0, none, 0⟩))
      ∧ ∀ d, Acts (.homeStore addr w d tag) s fun u => u = send s (.home tag.toNat ⟨5, 0, none, 0⟩))
    ∧ (Unheld s a → cached s (a / 64) = false → a % n = 0 →
      Acts (.homeLoad addr w tag 0) s (fun u => inService u (a / 64) = true ∧ u.dep.mem = s.dep.mem ∧ u.outbox = s.outbox)
      ∧ ∀ d, Acts (.homeStore addr w d tag) s fun u =>
        if n < 64 ∨ fget s F.DEP_CH_STATUS_RETRAINING (lineChan (a / 64)) = 1 then
          inService u (a / 64) = true ∧ u.dep.mem = s.dep.mem ∧ u.outbox = s.outbox
        else depRead u a n = d.toNat ∧ DepotOutside s u a n ∧ lineErr u (a / 64) = 0
          ∧ u.outbox = s.outbox ++ [.home tag.toNat ⟨0, 0, some ((mget s.dep.hseq (sliceOf a) 0 + 1) % 2 ^ 32), 0⟩]))
  ∧ (∀ (line : BitVec 30) s o tag, s.dep.fills.find? (fun o => o.line == line.toNat) = some o → o.op = .load → o.who = .row tag →
    o.addr % 64 + o.width ≤ 64 →
    let c := lineChan line.toNat
    (fget s F.DEP_CH_STATUS_RETRAINING c = 1 → ∀ a b e, Acts (.depotFillComplete line a b e) s fun u => u = s)
    ∧ (fget s F.DEP_CH_STATUS_RETRAINING c ≠ 1 → fget s F.DEP_CH_STATUS_FAILED c ≠ 1 → lineErr s line.toNat = 0 → ∀ b,
      Acts (.depotFillComplete line 0 b 0) s fun u =>
        u.outbox = s.outbox ++ [.home tag ⟨0, depRead s o.addr o.width, none, 0⟩] ∧ o ∉ u.dep.fills)
    ∧ ∀ a b, fget s F.DEP_CH_STATUS_RETRAINING c ≠ 1 →
      (fget s F.DEP_CH_STATUS_FAILED c = 1 ∨ (decodeDepot (strict s line.toNat) (erasures s c) (lineErr s line.toNat ^^^ a) = .uncorrectable
        ∧ decodeDepot (strict s line.toNat) (erasures s c) (lineErr s line.toNat ^^^ b) = .uncorrectable)) →
      Acts (.depotFillComplete line a b 0) s fun u =>
        u.outbox = s.outbox ++ [.home tag ⟨6, 0, none, 0⟩] ∧ u.dep.mem = s.dep.mem
        ∧ fget u F.DEP_ERR_ADDR_VALID (lineHalf line.toNat).num = 1
        ∧ fget u F.DEP_ERR_ADDR_ADDR (lineHalf line.toNat).num = line.toNat)

/-- R177, R178, R180: a slot of a hot line serves 1 to 8 of its queue's first entries and counts them; an empty queue is released;
a closure record moves into the pool once it has room. What waited at a slice's input goes on after a slot.
A retrain (R161, R163, R165, R186, R192) starts on a trained channel that is in service and not retraining, and ends, no
whole-line write waiting for the channel any more; the
scrubber steps to the next line of its half, and after its last begins again and counts the pass; SCRUB_NOW begins it again;
CNT_CLR clears the half's counters; a refresh command takes a shorter window at once.
The model's choices it rests on: log entries 4, 5, 40, 41, 42. -/
def Obligations.DepotUpkeep : Prop :=
  ((∀ (line : BitVec 30) s q, hotOf s line.toNat = some q →
    (q.entries ≠ [] → inService s line.toNat = false → Acts (.hotLineSlot line) s fun u =>
      ∃ n more, 1 ≤ n ∧ n ≤ 8 ∧ (hotOf u line.toNat).map (·.entries) = some (q.entries.drop n ++ more)
        ∧ (s.dep.stalled = [] → more = [])
        ∧ fget u F.DEP_HOT_OPS_COUNT (lineHalf line.toNat).num
          = min (fget s F.DEP_HOT_OPS_COUNT (lineHalf line.toNat).num + n) (2 ^ F.DEP_HOT_OPS_COUNT.width - 1))
    ∧ (inService s line.toNat = true → Acts (.hotLineSlot line) s fun u => u = s)
    ∧ Acts (.hotQueueRelease line) s fun u =>
      if q.entries = [] ∧ inService s line.toNat = false then
        s.dep.stalled = [] → hotOf u line.toNat = none ∧ u.dep.mem = s.dep.mem ∧ u.dep.blocks = s.dep.blocks
      else u = s)
  ∧ ∀ h s,
    (poolHasRoom s h = false → Acts (.closureRecordMove h) s fun u => u = s)
    ∧ (∀ b, poolHasRoom s h = true → s.dep.blocks.find? (fun b => b.closure && lineHalf b.line == h) = some b → s.dep.stalled = [] →
      Acts (.closureRecordMove h) s fun u => { b with closure := false } ∈ u.dep.blocks ∧ (∀ x ∈ s.dep.blocks, x ≠ b → x ∈ u.dep.blocks)
        ∧ b ∉ u.dep.blocks))
  ∧ (∀ (h : Half) s,
    (∀ (stack : Fin 12) (ch : BitVec 4), let c := chanIdx h stack.val ch.toNat
      (Acts (.depChRetrain h stack ch) s fun u =>
        if fget s F.DEP_CH_STATUS_RETRAINING c = 1 ∨ fget s F.DEP_CH_STATUS_FAILED c = 1 ∨ fget s F.DEP_CH_STATUS_TRAINED c ≠ 1 then u = s
        else fget u F.DEP_CH_STATUS_RETRAINING c = 1 ∧ u.dep = s.dep)
      ∧ (∀ failed, Acts (.channelRetrainDone h stack ch failed) s fun u => fget u F.DEP_CH_STATUS_RETRAINING c ≠ 1
        ∧ (fget s F.DEP_CH_STATUS_RETRAINING c = 1 → ∀ o ∈ u.dep.fills, o.whole = true → lineChan o.line ≠ c))
      ∧ (Acts (.refreshTimer h stack) s fun u => u.dep.mem = s.dep.mem ∧ u.dep.cache = s.dep.cache ∧
        let w := (mget s.dep.bandWant h.num (0, 0)).1
        if w ≠ 0 ∧ w ≤ fget s F.DEP_BAND_REFRESH_MS h.num then fget u F.DEP_BAND_REFRESH_MS h.num = w % 2 ^ F.DEP_BAND_REFRESH_MS.width
          ∧ mget u.dep.bandWant h.num (0, 0) = (0, 0)
        else w = 0 → u = s))
    ∧ (Acts (.depScrubNow h) s fun u => mget u.dep.scrub h.num 0 = 0 ∧ u.dep.mem = s.dep.mem ∧ u.regs = s.regs)
    ∧ (Acts (.depCntClr h) s fun u => fget u F.DEP_CORR_COUNT h.num = 0 ∧ fget u F.DEP_UNCORR_COUNT h.num = 0
      ∧ fget u F.DEP_HOT_OPS_COUNT h.num = 0 ∧ fget u F.DEP_HOT_REFUSED_COUNT h.num = 0 ∧ u.dep = s.dep)
    ∧ ∀ a b, let p := mget s.dep.scrub h.num 0
      Acts (.scrubAccess h a b) s fun u =>
        if fget s F.DEP_CH_STATUS_RETRAINING (lineChan (p + h.num * halfLines)) = 1 then u = s
        else if p + 1 < halfLines then mget u.dep.scrub h.num 0 = p + 1
        else mget u.dep.scrub h.num 0 = 0
          ∧ fget u F.DEP_SCRUB_PASSES h.num = min (fget s F.DEP_SCRUB_PASSES h.num + 1) (2 ^ F.DEP_SCRUB_PASSES.width - 1))

/-! ## One memory space -/

/-- R201, R211: a request packet of a member that is next in its stream is taken: its number becomes the taken point, and a request
in progress holds what the packet asks, to be performed or refused. One that comes early waits in the ingress queue. (A job
that was unbound here has no streams, R204; it comes under RequestsRefused, log entry 45.)
The model's choices it rests on: log entries 45, 54, 81, 153. -/
def Obligations.RequestsTaken : Prop :=
  ∀ c ∈ [Instr.ingressLoad, .ingressStore, .ingressAtomic, .ingressRead, .ingressWrite, .ingressBatch],
    ∀ p hdr data s src job seq, Arrives s p hdr src job seq → 1 ≤ hb hdr 0 8 → hb hdr 0 8 ≤ 6 → fget s F.ILK_STATUS_FENCED 0 ≠ 1 →
      member s src = true → job ∉ s.fab.unbound →
      let r := rxGet s src job
      (∀ w ∈ r.wait, hb w.1 64 32 ≠ seq) → (BitVec.ofNat 32 seq - BitVec.ofNat 32 r.cum).toNat ≤ 1024 →
      (seq = (r.taken + 1) % 2 ^ 32 → Acts (c p hdr data) s fun u =>
        (rxGet u src job).taken = seq ∧ ∃ g ∈ u.fab.prog, g.tgt = .remote src job seq ∧ g.req = reqOf hdr data)
      ∧ (seqNewer seq r.taken = true → seq ≠ (r.taken + 1) % 2 ^ 32 → Acts (c p hdr data) s fun u =>
        (rxGet u src job).taken = r.taken ∧ (hdr, data) ∈ (rxGet u src job).wait)

/-- R201, R204, R212, R230: a request of a device that is no member, or that finds this device fenced, is refused STALE_EPOCH, and one
under a job that was unbound here and not bound again NO_JOB, or BAD_OP where its header is not defined (the model's order, log entry
45): the refusal is recorded and the stream stays as it was. An ACK frees the retained responses that it covers.
The model's choices it rests on: log entries 45, 47. -/
def Obligations.RequestsRefused : Prop :=
  (∀ c ∈ [Instr.ingressLoad, .ingressStore, .ingressAtomic, .ingressRead, .ingressWrite, .ingressBatch],
    ∀ p hdr data s src job seq, Arrives s p hdr src job seq → 1 ≤ hb hdr 0 8 → hb hdr 0 8 ≤ 6 →
      (fget s F.ILK_STATUS_FENCED 0 = 1 ∨ admitted s src job (hb hdr 0 8) = false → Acts (c p hdr data) s fun u =>
        fget u F.WIN_LAST_REFUSAL_STATUS 0 = 8 ∧ fget u F.WIN_LAST_REFUSAL_SRC 0 = src ∧ (rxGet u src job).taken = (rxGet s src job).taken)
      ∧ (fget s F.ILK_STATUS_FENCED 0 ≠ 1 → admitted s src job (hb hdr 0 8) = true → job ∈ s.fab.unbound → Acts (c p hdr data) s fun u =>
        fget u F.WIN_LAST_REFUSAL_STATUS 0 = (if reqDefined hdr data = true then 1 else 11) ∧ fget u F.WIN_LAST_REFUSAL_JOB 0 = job ∧ (rxGet u src job).taken = (rxGet s src job).taken))
  ∧ ∀ p hdr data s src job seq, Arrives s p hdr src job seq → hb hdr 0 8 = 7 → s.fab.rx.any (fun r => r.src == src && r.job == job) = true →
      Acts (.ingressAck p hdr data) s fun u =>
        (rxGet u src job).retained = (rxGet s src job).retained.filter (fun x => seqNewer x.seq (hb hdr 384 32))
        ∧ (rxGet u src job).taken = (rxGet s src job).taken ∧ u.fab.prog = s.fab.prog

/-- R208, R211, R218: an answer of a stream that is still bound reaches the unit that issued the request, once; RETRY_AFTER leaves
the request in its stream. The next request that waits in a stream is taken.
The model's choices it rests on: log entries 5, 6. -/
def Obligations.AnswersIn : Prop :=
  (∀ p hdr s src job seq e, Arrives s p hdr src job seq → (jobSlot s job).isSome = true →
    s.fab.tx.any (fun t => t.dst == src && t.job == job) = true → (txGet s src job).sent.find? (fun e => e.seq == seq) = some e →
    e.answered = none → e.abandoned = false → e.who ≠ .none →
    (hb hdr 0 8 = 0x80 → hb hdr 8 8 ≠ 7 → Acts (.responseArrival p hdr) s fun u => ∃ r, u.fab.results = s.fab.results ++ [r]
      ∧ r.who = e.who ∧ r.status = (if 12 ≤ hb hdr 8 8 then 11 else hb hdr 8 8) ∧ r.value = hb hdr 256 64)
    ∧ (hb hdr 0 8 = 0x80 → hb hdr 8 8 = 7 → Acts (.responseArrival p hdr) s fun u => u.fab.results = s.fab.results
      ∧ ∃ e2 ∈ (txGet u src job).sent, e2.seq = seq ∧ e2.answered = some 7 ∧ e2.who = e.who)
    ∧ (∀ data, hb hdr 0 8 = 0x81 → hb hdr 8 8 = 0 → hb hdr 208 16 ≤ 1 → e.req.op = 4 → e.got = [] →
      Acts (.readDataArrival p hdr data) s fun u => ∃ r, u.fab.results = s.fab.results ++ [r] ∧ r.who = e.who ∧ r.status = 0 ∧ r.data = data))
  ∧ ∀ (src : BitVec 16) (job : BitVec 12) s,
    let x := rxGet s src.toNat job.toNat
    match x.wait.find? (fun w => hb w.1 64 32 == (x.taken + 1) % 2 ^ 32) with
    | none => Acts (.ingressTaken src job) s fun u => u = s
    | some w => hb w.1 32 16 = src.toNat → hb w.1 16 12 = job.toNat → Acts (.ingressTaken src job) s fun u =>
      (rxGet u src.toNat job.toNat).taken = (x.taken + 1) % 2 ^ 32 ∧ w ∉ (rxGet u src.toNat job.toNat).wait

/-- R212, R213, R214, R219, R220, R363, R364: the timers of the sending side: an unanswered request is retransmitted and counted, or
answered by the sender where it has no way any more, or abandoned, its unit being told; a refused request falls due, at once or when
the delay list has a place for it; responses held and not yet covered are acknowledged; a district's batches, of requests and of
responses, leave; the throttle of a port is released.
The model's choices it rests on: log entries 4, 5, 55, 56. -/
def Obligations.StreamTimers : Prop :=
  (∀ (dst : BitVec 16) (job : BitVec 12) (seq : BitVec 32) s,
    let t := txGet s dst.toNat job.toNat
    (t.sent.find? (fun e => e.seq == seq.toNat) = none → Acts (.retransmitTimer dst job seq) s (fun u => u = s)
      ∧ Acts (.requestTimeout dst job seq) s (fun u => u = s) ∧ Acts (.retryDelayExpiry dst job seq) s fun u => u = s)
    ∧ ∀ e, t.sent.find? (fun e => e.seq == seq.toNat) = some e →
      (e.answered = none → e.abandoned = false → isOwn s dst.toNat = false → mayOriginate s = true →
        ((senderStatus s job.toNat dst.toNat).2 = none → Acts (.retransmitTimer dst job seq) s fun u =>
          fget u F.WIN_RETX_COUNT = (fget s F.WIN_RETX_COUNT + 1) % 2 ^ 64
          ∧ ∃ e2 ∈ (txGet u dst.toNat job.toNat).sent, e2.seq = seq.toNat ∧ e2.last = now s (whoHalf e.who))
        ∧ ∀ st, (senderStatus s job.toNat dst.toNat).2 = some st → e.who ≠ .none → Acts (.retransmitTimer dst job seq) s fun u =>
          ∃ r, u.fab.results = s.fab.results ++ [r] ∧ r.who = e.who ∧ r.status = st)
      ∧ (e.answered = none → e.abandoned = false → ∀ k op i, e.who = .tile k op i → Acts (.requestTimeout dst job seq) s fun u =>
          fget u F.WIN_TIMEOUTS_COUNT = min (fget s F.WIN_TIMEOUTS_COUNT + 1) (2 ^ 16 - 1)
          ∧ ∃ r, u.fab.results = s.fab.results ++ [r] ∧ r.who = e.who ∧ r.status = stAbandoned)
      ∧ (e.answered = some 7 → e.delayed = true → Acts (.retryDelayExpiry dst job seq) s fun u =>
          ∃ e2 ∈ (txGet u dst.toNat job.toNat).sent, e2.seq = seq.toNat ∧ e2.due = true ∧ e2.delayed = false)
      ∧ (e.answered = some 7 → e.delayed = false → e.due = false → Acts (.retryDelayExpiry dst job seq) s fun u =>
          ∃ e2 ∈ (txGet u dst.toNat job.toNat).sent, e2.seq = seq.toNat ∧ e2.late = true)
      ∧ (e.answered = none → Acts (.retryDelayExpiry dst job seq) s fun u => u = s))
  ∧ (∀ (dst : BitVec 16) (job : BitVec 12) s, let t := txGet s dst.toNat job.toNat
    Acts (.idleAckTimer dst job) s fun u =>
      if isOwn s dst.toNat = false ∧ mayOriginate s = true ∧ s.fab.tx.any (fun t => t.dst == dst.toNat && t.job == job.toNat) = true
          ∧ t.respAck ≠ t.acked then (txGet u dst.toNat job.toNat).acked = t.respAck
      else u = s)
  ∧ (∀ (d : BitVec 10) s, Acts (.gatewayBatchDelay d) s fun u =>
      if (remoteGw s d.toNat).isSome = true then
        ∀ k < 2, mget u.fab.batches (2 * d.toNat + k) [] = (mget s.fab.batches (2 * d.toNat + k) []).drop 64
      else u = s)
  ∧ ∀ (port : BitVec 5) s,
    if 16 * (lget s port.toNat).unsent < fget s F.FAB_CFG_THR_LO * fget s F.FAB_CREDIT_SPACE then
      Acts (.throttleRelease port) s fun u => throttled u port.toNat = false ∧ u.links = s.links
    else exec (.throttleRelease port) s = .next s

/-- R200, R203, R204, R225: writing a window copies the staged entry, binding and unbinding a job change its slot, and each starts a
commit; while a commit runs, and where the slot or the stage does not allow it, the write is refused and changes nothing of the
table. A commit ends by clearing BUSY.
The model's choices it rests on: log entry 49. -/
def Obligations.Commits : Prop :=
  ∀ s,
    (∀ slot window : BitVec 6, let i := 64 * slot.toNat + window.toNat
      Acts (.winWriteWindow slot window) s fun u =>
        if fget s F.WIN_STATUS_BUSY ≠ 1 ∧ fget s F.WIN_JOB_BOUND slot.toNat = 1 ∧ stageBad s = false then
          fget u F.WIN_BASE_BASE i = fget s F.WIN_STAGE_BASE_BASE % 2 ^ F.WIN_BASE_BASE.width
          ∧ fget u F.WIN_SIZE_SIZE i = fget s F.WIN_STAGE_SIZE_SIZE % 2 ^ F.WIN_SIZE_SIZE.width
          ∧ fget u F.WIN_PERM_VALID i = fget s F.WIN_STAGE_PERM_VALID % 2 ∧ fget u F.WIN_STATUS_BUSY = 1
        else u.regs = s.regs ∧ u.fab = s.fab)
    ∧ (∀ (slot : BitVec 6) (job : BitVec 12), Acts (.winBindJob slot job) s fun u =>
        if fget s F.WIN_STATUS_BUSY ≠ 1 ∧ fget s F.WIN_JOB_BOUND slot.toNat ≠ 1 ∧ jobSlot s job.toNat = none
            ∧ (devState s = dsStart → job = 0) then
          fget u F.WIN_JOB_BOUND slot.toNat = 1 ∧ fget u F.WIN_JOB_JOB slot.toNat = job.toNat ∧ fget u F.WIN_STATUS_BUSY = 1
          ∧ (∀ t ∈ u.fab.tx, t.job ≠ job.toNat)
        else u.regs = s.regs ∧ u.fab = s.fab)
    ∧ (∀ slot : BitVec 6, Acts (.winUnbindJob slot) s fun u =>
        if fget s F.WIN_STATUS_BUSY = 1 then u.regs = s.regs ∧ u.fab = s.fab
        else fget u F.WIN_JOB_BOUND slot.toNat = 0 ∧ fget u F.WIN_STATUS_BUSY = 1)
    ∧ (if fget s F.WIN_STATUS_BUSY = 1 then Acts .winCommitComplete s fun u =>
          fget u F.WIN_STATUS_BUSY = 0 ∧ u.fab.commit = none ∧ SameRegs s u (only F.WIN_STATUS_BUSY 0)
        else exec .winCommitComplete s = .next s)

/-! ## Links and the shunter -/

/-- R344, R347, R348, R354: what a link does with a slot it can take while it is not held. An uncorrectable one puts it into the
discard state with a NAK; in the discard state head, data and idle flits are passed over; else a head or data flit counts and is
accepted in sequence, or breaks its credits and takes the link down, and one that a replay sends again is passed over; an idle flit brings a credit count and takes no number.
The model's choices it rests on: log entry 5. -/
def Obligations.FlitsReceived : Prop :=
  ∀ (port : PortId) flit s, let p := port.idx
    canTake s p = true → fget s F.FAB_PORT_STATUS_HELD p ≠ 1 →
    (∀ c ∈ [Instr.headFlitReceived, .dataFlitReceived, .idleFlitReceived],
      (fget s F.FAB_PORT_STATUS_DISCARD p = 1 → Acts (c port flit 0) s fun u => lget u p = lget s p ∧ fget u F.FAB_PORT_STATUS_DISCARD p = 1)
      ∧ ∀ err, decodeBlock 4 [] err = .uncorrectable → fget s F.FAB_PORT_STATUS_DISCARD p ≠ 1 → Acts (c port flit err) s fun u =>
        fget u F.FAB_PORT_STATUS_DISCARD p = 1 ∧ fget u F.FAB_PORT_REPLAYS_NAKS p
          = min (fget s F.FAB_PORT_REPLAYS_NAKS p + 1) (2 ^ F.FAB_PORT_REPLAYS_NAKS.width - 1)
        ∧ u.outbox = s.outbox ++ [.flits p [controlFlit (lget s p) true false (lget s p).rxExp]])
    ∧ (fget s F.FAB_PORT_STATUS_DISCARD p ≠ 1 →
      ((lget s p).rxNum = (lget s p).rxExp → Acts (.headFlitReceived port flit 0) s fun u => Accepted s u p)
      ∧ ((lget s p).rxNum = (lget s p).rxExp → (lget s p).rxPkt ≠ none → Acts (.dataFlitReceived port flit 0) s fun u => Accepted s u p)
      ∧ (∀ c ∈ [Instr.headFlitReceived, .dataFlitReceived], (lget s p).rxNum ≠ (lget s p).rxExp → Acts (c port flit 0) s fun u =>
        (lget u p).rxNum = ((lget s p).rxNum + 1) % 65536 ∧ (lget u p).rxExp = (lget s p).rxExp ∧ (lget u p).rxPkt = (lget s p).rxPkt
        ∧ u.regs = s.regs ∧ u.outbox = s.outbox)
      ∧ ∀ v, v = bitsAt flit.toNat 18 4 → v ≤ 8 → Acts (.idleFlitReceived port flit 0) s fun u =>
        (lget u p).rxExp = (lget s p).rxExp ∧ fget u F.FAB_PORT_RX_FLITS p = fget s F.FAB_PORT_RX_FLITS p
        ∧ mget (lget u p).freed v 0 = min (mget (lget s p).used v 0) (healCount (mget (lget s p).freed v 0) (bitsAt flit.toNat 22 10) 1024))

/-- R346, R348, R349, R354, R362: control flits, replays and notices. A control flit brings every cumulative count; one with REPLAY and
the expected number ends the discard state, and outside it names the number that the flits after it begin with; a NAK is answered by a replay; a replay timeout replays, and after eight without
progress either takes the link down; a MISS notice takes the port out of every route entry that covers what it names, until the
notice that it is reachable again or a write of the entry.
The model's choices it rests on: log entries 4, 5. -/
def Obligations.LinkControl : Prop :=
  ∀ (port : PortId) s, let p := port.idx; let l := lget s p
    (∀ flit slot1, canTake s p = true → fget s F.FAB_PORT_STATUS_HELD p ≠ 1 →
      (fget s F.FAB_PORT_STATUS_DISCARD p ≠ 1 → l.replays < 8 → Acts (.controlFlitReceived port flit slot1 0) s fun u =>
        ∀ v < 8, mget (lget u p).freed v 0 = min (mget l.used v 0) (healCount (mget l.freed v 0) (bitsAt flit.toNat (64 + 32 * v) 32) (2 ^ 32)))
      ∧ (fget s F.FAB_PORT_STATUS_DISCARD p = 1 →
        if slot1 && bitAt flit.toNat 353 && bitsAt flit.toNat 357 11 == 0 && bitsAt flit.toNat 400 112 == 0 && bitsAt flit.toNat 368 16 == l.rxExp then
          Acts (.controlFlitReceived port flit slot1 0) s fun u => fget u F.FAB_PORT_STATUS_DISCARD p = 0
        else Yields (.controlFlitReceived port flit slot1 0) s fun t => lget t p = l ∧ fget t F.FAB_PORT_STATUS_DISCARD p = 1))
    ∧ (∀ seq : BitVec 16,
      (canTake s p = true → l.replayAt = none → 8 ≤ l.replays → Acts (.linkNak port seq) s fun u => fget u F.FAB_PORT_STATUS_LINK p = 0)
      ∧ (canTake s p = true → l.replayAt = none → l.replays < 8 → Acts (.linkNak port seq) s fun u => (lget u p).replayAt = some (seq.toNat, now s (portHalf p))
        ∧ (lget u p).replays = l.replays + 1
        ∧ fget u F.FAB_PORT_REPLAYS_REPLAYS p = min (fget s F.FAB_PORT_REPLAYS_REPLAYS p + 1) (2 ^ F.FAB_PORT_REPLAYS_REPLAYS.width - 1))
      ∧ Acts (.linkReplay port seq) s fun u =>
        if canTake s p = true ∧ (if fget s F.FAB_PORT_STATUS_DISCARD p = 1 then seq.toNat = l.rxExp else seqNewer16 seq.toNat l.rxExp = false) then
          fget u F.FAB_PORT_STATUS_DISCARD p ≠ 1 ∧ lget u p = { l with rxNum := seq.toNat } ∧ u.outbox = s.outbox
        else u = s)
    ∧ (if canSend s p = false ∨ l.unacked = [] then exec (.linkRtoExpiry port) s = .next s
       else if 8 ≤ l.replays then Acts (.linkRtoExpiry port) s fun u => fget u F.FAB_PORT_STATUS_LINK p = 0
       else Acts (.linkRtoExpiry port) s fun u => (lget u p).replays = l.replays + 1)
    ∧ (Acts (.creditReportTimer port) s fun u => if canSend s p = true then
        u = send s (.flits p [controlFlit l false false 0]) else u = s)
    ∧ ∀ (q : BitVec 5) (dist : Bool) (id : BitVec 16), let n := if dist then id.toNat / 64 else id.toNat
      (Acts (.missNotice q dist false id) s fun u => (∀ e ∈ missEntries s dist id.toNat, ⟨q.toNat, dist, n, e.1, e.2⟩ ∈ u.links.miss)
        ∧ ∀ k ∈ (lget u q.toNat).queue, (if dist then districtOf k.dst else k.dst) ≠ n)
      ∧ (Acts (.missNotice q dist true id) s fun u =>
        ∀ x, x ∈ u.links.miss ↔ x ∈ s.links.miss ∧ ¬(x.port = q.toNat ∧ x.dist = dist ∧ x.id = n))
      ∧ ∀ wide i, ∀ x, x ∈ (routeWritten s wide i).links.miss ↔ x ∈ s.links.miss ∧ ¬(x.wide = wide ∧ x.entry = i)

/-- R25, R280, R283, R284, R289: a command is taken after those that were written to its half before it, each under a number of its
own; one that stands first and breaks none of the shunter's rules is taken whole; one that breaks a rule completes at
once, its event counter raised and the error kept; a command all of whose rows have finished raises its event counter and is gone;
CNT_CLR clears the counters.
The model's choices it rests on: log entries 58, 59, 157. -/
def Obligations.ShunterCommands : Prop :=
  (∀ c ∈ [Instr.shnGather, .shnGatherRange, .shnScatter], ∀ h (slot : BitVec 6) (job : BitVec 12) cmd (s : State),
    (∀ x ∈ s.shn.cmds, x.id ≠ s.shn.nextId) →
    let y : ShnIn := ⟨h, slot.toNat, job.toNat, cmd⟩
    (Acts (c h slot job cmd) s fun u => u.shn.nextId = s.shn.nextId + ((shnWaiting s h).takeWhile (fun x => x != y)).length + 1)
    ∧ (((shnWaiting s h).head?.getD y = y) →
    (∀ k, shnBad s h job.toNat cmd = some k → Acts (c h slot job cmd) s fun u => u.shn.cmds = s.shn.cmds ∧ EvRaised s u cmd
      ∧ fget u F.DEP_SHN_LAST_ERR_KIND 0 = k ∧ fget u F.DEP_SHN_LAST_ERR_VALID 0 = 1)
    ∧ (shnBad s h job.toNat cmd = none → (shOp cmd ≠ 1 → shnRange cmd (shCount cmd) = false) → shnPending s h < 256 →
      Acts (c h slot job cmd) s fun u => u.shn.nextId = s.shn.nextId + 1 ∧ ∃ x ∈ u.shn.cmds, x.id = s.shn.nextId ∧ x.half = h
        ∧ x.slot = slot.toNat ∧ x.job = job.toNat ∧ x.line = cmd ∧ x.named = false)
    ∧ (shnBad s h job.toNat cmd = none → (shOp cmd ≠ 1 → shnRange cmd (shCount cmd) = false) → 256 ≤ shnPending s h →
      Acts (c h slot job cmd) s fun u => u.shn.cmds = s.shn.cmds ∧ EvRaised s u cmd ∧ fget u F.DEP_SHN_LAST_ERR_KIND 0 = 6)))
  ∧ (∀ h (s : State), match s.shn.cmds.find? (fun c => c.half == h && c.done) with
    | none => Acts (.shnCommandComplete h) s fun u => u = s
    | some c => Acts (.shnCommandComplete h) s fun u => EvRaised s u c.line ∧ ∀ x ∈ u.shn.cmds, x.id ≠ c.id)
  ∧ ∀ s : State, Acts .shnCntClr s fun u => fget u F.DEP_SHN_ROWS_COUNT = 0 ∧ fget u F.DEP_SHN_FAILED_COUNT = 0 ∧ u.shn = s.shn

/-! ## Registers -/

/-- R29: a is newer than b when the distance from b to a modulo 2^32 is 1 to 2^31 − 1. -/
def Obligations.SequenceCompare : Prop :=
  ∀ a b : BitVec 32, seqNewer a.toNat b.toNat = true ↔ 1 ≤ (a - b).toNat ∧ (a - b).toNat ≤ 2 ^ 31 - 1

/-- R8, R10, R14: a write in range to a register that triggers nothing sets its RW fields to the value laid over the bytes it
writes, clears the W1C bits that it writes as 1, and changes no other field; one to a route entry or `PWR_CFG`, where more follows from
it, sets the RW fields too; a value out of range changes nothing. An access to the down half first counts one flit each way over the
open bridge (R22; how many is the model's choice, log entry 81).
The model's choices it rests on: log entries 16, 17, 81, 148. -/
def Obligations.RegisterWrite : Prop :=
  ∀ (addr : BitVec 32) wide (value : BitVec 64) s0, let s := mgmtCross s0 addr.toNat
    (addrHalf addr.toNat ≠ some .down ∨ brgOpen s0 = false → s = s0)
    ∧ SameRegs s0 s (fun f i => only F.BRG_FLITS_UD_COUNT 0 f i ∨ only F.BRG_FLITS_DU_COUNT 0 f i)
    ∧ { s with regs := [] } = { s0 with regs := [] }
    ∧ (addrHalf addr.toNat = some .down → brgOpen s0 = true →
      fget s F.BRG_FLITS_UD_COUNT = min (fget s0 F.BRG_FLITS_UD_COUNT + 1) (2 ^ F.BRG_FLITS_UD_COUNT.width - 1)
      ∧ fget s F.BRG_FLITS_DU_COUNT = min (fget s0 F.BRG_FLITS_DU_COUNT + 1) (2 ^ F.BRG_FLITS_DU_COUNT.width - 1))
    ∧ ∀ r i b, mgmtAt s addr.toNat wide = .reg r i b →
    let n := if wide then 8 else 4
    let m := merged s r i b n value.toNat
    (outOfRange s r i b n m = true → Acts (.mgmtRegisterWrite addr wide value) s0 fun u =>
      SameRegs s u (only F.LOG_STATUS_HELD_DROP 0) ∧ u.tiles = s.tiles ∧ u.dep = s.dep)
    ∧ (outOfRange s r i b n m = false → actingRegs.contains r = false → Acts (.mgmtRegisterWrite addr wide value) s0 fun u =>
      (∀ f ∈ r.fields, f.acc = .rw → fget u f i = bitsAt m f.lo f.width)
      ∧ (∀ f ∈ r.fields, f.acc = .w1c → fget u f i = Nat.land (fget s f i) (2 ^ f.width - 1 - bitsAt m f.lo f.width) % 2 ^ f.width)
      ∧ (∀ f j, (∀ g ∈ r.fields, g.acc = .rw ∨ g.acc = .w1c → f.key j ≠ g.key i) → fget u f j = fget s f j)
      ∧ { u with regs := [] } = { s with regs := [] })
    ∧ (outOfRange s r i b n m = false → r ∈ [Reg.FAB_ROUTE_MEMBER, .FAB_ROUTE_DIST, .PWR_CFG] → Acts (.mgmtRegisterWrite addr wide value) s0 fun u =>
      ∀ f ∈ r.fields, f.acc = .rw → fget u f i = bitsAt m f.lo f.width)

/-- R11, R34, R72: an access that is not supported, or to a half that does not answer, or to a retired tile, changes no register and
no store, but for the bridge's flit counters.
The model's choices it rests on: log entries 18, 19, 148. -/
def Obligations.RegisterRefused : Prop :=
  ∀ (addr : BitVec 32) wide (value : BitVec 64) s0, let s := mgmtCross s0 addr.toNat
    (addr.toNat % (if wide then 8 else 4) ≠ 0 ∨ mgmtAt s addr.toNat wide = .bad ∨ mgmtAt s addr.toNat wide = .off
        ∨ mgmtAt s addr.toNat wide = .zero ∨ ∃ h, mgmtAt s addr.toNat wide = .gone h) →
      Acts (.mgmtRegisterWrite addr wide value) s0 fun u => u.regs = s.regs ∧ u.tiles = s.tiles ∧ u.dep = s.dep ∧ u.outbox = s.outbox

/-- R133: a management write to `TILE_LOGICAL`, `TILE_JOB`, `TILE_JOB_SEED`, `TILE_STEP` or `TILE_ENTRY` takes effect only while every
thread is idle. Otherwise it is ignored, and event 0x010A is logged unless it was within the last millisecond (R148). -/
def Obligations.IdleOnlyRegisters : Prop :=
  ∀ (addr : BitVec 32) wide (value : BitVec 64) s0 r i b, let s := mgmtCross s0 addr.toNat
    mgmtAt s addr.toNat wide = .reg r i b →
    r ∈ [Reg.TILE_LOGICAL, .TILE_JOB, .TILE_JOB_SEED, .TILE_STEP, .TILE_ENTRY] →
    let n := if wide then 8 else 4
    let m := merged s r i b n value.toNat
    outOfRange s r i b n m = false →
    (allIdle (tget s i) = true → Acts (.mgmtRegisterWrite addr wide value) s0 fun u =>
      ∀ f ∈ r.fields, f.acc = .rw → fget u f i = bitsAt m f.lo f.width)
    ∧ (allIdle (tget s i) = false → Acts (.mgmtRegisterWrite addr wide value) s0 fun u =>
      SameRegs s u (only F.LOG_STATUS_HELD_DROP 0) ∧ u.tiles = s.tiles
      ∧ (tileHalf i = .up ∨ downIsolated s = false → s.logw.ringOpen = true →
        (mget s.logw.lastLog (0x010A * 2 ^ 24 + i) 0 = 0 ∨ mget s.logw.lastLog (0x010A * 2 ^ 24 + i) 0 + ms ≤ now s (tileHalf i) + 1) →
        ∃ e, u.logw.queue = s.logw.queue ++ [.log e] ∧ e.code = 0x010A ∧ e.args = [(i, 12)]))

/-- R472: an I3C access that does not reach its register is counted, and a read of it answers all ones; one that does returns the
register's value, and changes no state but what the read clears.
The common commands of the I3C target: addresses are assigned only where none is held, changed where one is, and reset;
in-band interrupts are enabled and disabled; the rest answer and change nothing else.
The model's choices it rests on: log entries 97, 98. -/
def Obligations.Sideband : Prop :=
  (∀ (addr : BitVec 32) s,
    (i3cReach s addr.toNat true = false ∨ addr.toNat % 4 ≠ 0 → ∀ v, Acts (.i3cPrivateWrite addr v) s fun u =>
      fget u F.MOD_I3C_REFUSED = min (fget s F.MOD_I3C_REFUSED + 1) (2 ^ F.MOD_I3C_REFUSED.width - 1) ∧ u.dep = s.dep ∧ u.tiles = s.tiles)
    ∧ (i3cReach s addr.toNat false = false ∨ addr.toNat % 4 ≠ 0 → Acts (.i3cPrivateRead addr) s fun u =>
      fget u F.MOD_I3C_REFUSED = min (fget s F.MOD_I3C_REFUSED + 1) (2 ^ F.MOD_I3C_REFUSED.width - 1)
      ∧ u.outbox = s.outbox ++ [.i3c (leBytes 0xFFFFFFFF 4)])
    ∧ (∀ r i b, i3cReach s addr.toNat false = true → addr.toNat % 4 = 0 → mgmtAt s addr.toNat false = .reg r i b →
      Acts (.i3cPrivateRead addr) s fun u => u.outbox = s.outbox ++ [.i3c (leBytes (bitsAt (regRead s r i) (8 * b) 32) 4)]
        ∧ ∀ f j, (∀ g ∈ r.fields, g.acc = .rc → f.key j ≠ g.key i) → fget u f j = fget s f j)
    ∧ (∀ r i b v, i3cReach s addr.toNat true = true → addr.toNat % 4 = 0 → addr.toNat ≠ 0x7000004 → mgmtAt s addr.toNat false = .reg r i b →
      actingRegs.contains r = false → outOfRange s r i b 4 (merged s r i b 4 v.toNat) = false →
      Acts (.i3cPrivateWrite addr v) s fun u =>
        ∀ f ∈ r.fields, f.acc = .rw → fget u f i = bitsAt (merged s r i b 4 v.toNat) f.lo f.width))
  ∧ (∀ s, let da := fget s F.MOD_I3C_DA
    (∀ addr : BitVec 7,
      (if da ≠ 0 then exec (.entdaa addr) s = .next s else Yields (.entdaa addr) s fun t => fget t F.MOD_I3C_DA = addr.toNat
        ∧ t.outbox = s.outbox ++ [.i3c [Config.provisionedId, Config.i3cBcr, Config.i3cDcr]] ∧ SameRegs s t (only F.MOD_I3C_DA 0))
      ∧ (Yields (.setdasa addr) s fun t => fget t F.MOD_I3C_DA = (if da = 0 then addr.toNat else da)
        ∧ SameRegs s t (only F.MOD_I3C_DA 0) ∧ { t with regs := [] } = { s with regs := [] })
      ∧ (Yields (.setnewda addr) s fun t => fget t F.MOD_I3C_DA = (if da = 0 then da else addr.toNat)
        ∧ SameRegs s t (only F.MOD_I3C_DA 0) ∧ { t with regs := [] } = { s with regs := [] }))
    ∧ (∀ c f v, (c, f, v) ∈ [(Instr.rstdaa, F.MOD_I3C_DA, 0), (.enec, F.MOD_I3C_IBI, 1), (.disec, F.MOD_I3C_IBI, 0)] →
        Yields c s fun t => fget t f = v ∧ SameRegs s t (only f 0) ∧ { t with regs := [] } = { s with regs := [] })
    ∧ (∀ c v, (c, v) ∈ [(Instr.getpid, Config.provisionedId), (.getbcr, Config.i3cBcr), (.getdcr, Config.i3cDcr), (.getmwl, 8), (.getmrl, 4)] →
        Yields c s fun t => t = { s with outbox := s.outbox ++ [.i3c [v]] })
    ∧ Yields .getstatus s fun t => ∃ v < 2 ^ 16, t.outbox = s.outbox ++ [.i3c [v]] ∧ t.regs = s.regs)

/-! ## Application cores -/

/-- R514, R515: an access of a core that lies outside its address map faults; one in its local SRAM is answered at once and changes
only its bytes; one at a global address leaves it alone, and an AMO that R515 does not list faults there. The cores of a half in partial
reset do nothing.
The model's choices it rests on: log entries 134, 135, 136, 137. -/
def Obligations.CoreAccess : Prop :=
  ∀ (core : BitVec 4) (job : BitVec 12) (dev : BitVec 16) (pa : BitVec 56) (tag : BitVec 16) s,
    let base := 2 ^ 20 * core.toNat
    (inPreset s (appHalf core.toNat) = true → (∀ acc, exec (.appCoreGlobalAccess core job dev pa acc tag) s = .next s)
      ∧ ∀ amo w x c, exec (.appCoreAmo core job dev pa amo w x c tag) s = .next s)
    ∧ (inPreset s (appHalf core.toNat) = false →
      (2 ^ 20 ≤ pa.toNat → pa.toNat / 2 ^ 54 ≠ 2 →
        (∀ acc, Acts (.appCoreGlobalAccess core job dev pa acc tag) s fun u => u.outbox = s.outbox ++ [.app core.toNat tag.toNat true 0])
        ∧ ∀ amo w x c, Acts (.appCoreAmo core job dev pa amo w x c tag) s fun u => u.outbox = s.outbox ++ [.app core.toNat tag.toNat true 0])
      ∧ (∀ w : Bool, let n := if w then 8 else 4
        pa.toNat + n ≤ 2 ^ 20 →
        Acts (.appCoreGlobalAccess core job dev pa (.load w) tag) s (fun u => u.app.sram = s.app.sram
          ∧ u.outbox = s.outbox ++ [.app core.toNat tag.toNat false (mreadLE s.app.sram (base + pa.toNat) n)])
        ∧ (∀ v, Acts (.appCoreGlobalAccess core job dev pa (.store w v) tag) s fun u =>
          mreadLE u.app.sram (base + pa.toNat) n = v.toNat % 2 ^ (8 * n)
          ∧ ∀ b, b < base + pa.toNat ∨ base + pa.toNat + n ≤ b → mget u.app.sram b 0 = mget s.app.sram b 0)
        ∧ ∀ x c, Acts (.appCoreAmo core job dev pa .add w x c tag) s fun u =>
          mreadLE u.app.sram (base + pa.toNat) n = (mreadLE s.app.sram (base + pa.toNat) n + x.toNat) % 2 ^ (8 * n)
          ∧ u.outbox = s.outbox ++ [.app core.toNat tag.toNat false (mreadLE s.app.sram (base + pa.toNat) n)])
      ∧ (pa.toNat / 2 ^ 54 = 2 → (∀ acc, Acts (.appCoreGlobalAccess core job dev pa acc tag) s fun u => u.app.sram = s.app.sram ∧ u.tiles = s.tiles)
        ∧ ∀ w x c,
        Acts (.appCoreAmo core job dev pa .other w x c tag) s fun u => u.outbox = s.outbox ++ [.app core.toNat tag.toNat true 0]))

/-! ## Light -/

/-- R297, R298, R299, R303, R366: the marker that is built from fields counts and reads back as they were. A marker received on a lane of
an enabled port whose serialisers are clocked: a wrong SYNC or CRC makes it a missing marker, and the
second in a row excludes the lane; a valid one brings the peer's mask and the power the far end reads, confirms the ring or shows
it on a wrong wavelength, and the first of a training names the peer. On any other lane it changes nothing.
The model's choices it rests on: log entries 5, 62, 158. -/
def Obligations.Markers : Prop :=
  (∀ lane pwrLane sig rqp dev q rxMask next rxPwr prb, let m := mkMarker lane pwrLane sig rqp dev q rxMask next rxPwr prb
    mkValid m = true ∧ mkLane m = lane % 8 ∧ mkPwrLane m = pwrLane % 8 ∧ mkS m = (if sig = true then 1 else 0) ∧ mkRqp m = rqp
      ∧ mkDevice m = dev % 65536 ∧ mkPort m = q % 32 ∧ mkRxMask m = rxMask % 256 ∧ mkNext m = next % 256 ∧ mkRxPwr m = rxPwr % 1024
      ∧ mkPrb m = prb)
  ∧ ∀ (port : PortId) (lane : BitVec 3) m whole s, let p := port.idx; let n := lane.toNat
    (fget s F.PORT_CFG_ENABLE p ≠ 1 ∨ laneCount p ≤ n ∨ clocked s p = false → Acts (.markerReceived port lane m whole) s fun u => u = s)
    ∧ (fget s F.PORT_CFG_ENABLE p = 1 → n < laneCount p → clocked s p = true →
      (mkValid m = false → bitAt (laneOf s p n).why 5 = false → bitAt (laneOf s p n).why 0 = false → Acts (.markerReceived port lane m whole) s fun u =>
        (1 ≤ (laneOf s p n).miss → bitAt (fget u F.PORT_LANES_RX_GOOD p) n = false)
        ∧ ((laneOf s p n).miss = 0 → (laneOf u p n).miss = 1 ∧ fget u F.PORT_LANES_RX_GOOD p = fget s F.PORT_LANES_RX_GOOD p)
        ∧ fget u F.PORT_LANES_PEER_RXMASK p = fget s F.PORT_LANES_PEER_RXMASK p)
      ∧ (mkValid m = true → Acts (.markerReceived port lane m whole) s fun u =>
        fget u F.PORT_LANES_PEER_RXMASK p = mkRxMask m
        ∧ (mkPwrLane m < laneCount p → fget u (farPwr (mkPwrLane m)) p = if mkRxPwr m = 0x200 then 0x8000 else wrap (5 * sext (mkRxPwr m) 10) 16)
        ∧ (mkLane m = n → bitAt (fget u F.PORT_RING_LOCKED p) n = true)
        ∧ (mkLane m ≠ n → bitAt (fget s F.PORT_RING_RELOCKING p) n = false →
          bitAt (fget u F.PORT_RING_LOCKED p) n = false ∧ bitAt (fget u F.PORT_RING_RELOCKING p) n = true)
        ∧ (steering s p = false → fget s F.PORT_PEER_VALID p ≠ 1 → fget u F.PORT_PEER_VALID p = 1
          ∧ fget u F.PORT_PEER_DEVICE p = mkDevice m ∧ fget u F.PORT_PEER_PORT p = mkPort m ∧ fget u F.PORT_PEER_S p = mkS m)))

/-- R298, R299, R300, R301, R303, R313, R542, R543: lanes, rings and the converter. A lane excluded for cause comes back once the
timer finds it without a condition, and light lost excludes it; an announced set takes effect with its width; the ring loop and a
found resonance set the heater; a ring without a match excludes its lane and is swept again; a sample goes to the lane whose turn it is.
The model's choices it rests on: log entries 4, 5, 158. -/
def Obligations.LanesAndRings : Prop :=
  ∀ (port : PortId) (lane : BitVec 3) s, let p := port.idx; let n := lane.toNat; let l := laneOf s p n
    (if 2 ≤ l.why ∧ l.why < 16 ∧ l.miss = 0 ∧ bitAt (fget s F.PORT_RING_LOCKED p) n = true then
      Acts (.laneRestoreTimer port lane) s fun u => bitAt (fget u F.PORT_LANES_RX_GOOD p) n = true ∧ (laneOf u p n).why = 0
     else exec (.laneRestoreTimer port lane) s = .next s)
    ∧ (Acts (.lossOfLight port lane) s fun u => if n < laneCount p ∧ bitAt l.why 2 = false then
        bitAt (fget u F.PORT_LANES_RX_GOOD p) n = false ∧ (laneOf u p n).why = l.why + 4 else u = s)
    ∧ (∀ tx : Bool, steering s p = false → let live := if tx then F.PORT_LANES_TX_LIVE else F.PORT_LANES_RX_LIVE
      let width := if tx then F.PORT_STATUS_TX_WIDTH else F.PORT_STATUS_RX_WIDTH
      match if tx then (oget s p).txNext else (oget s p).rxNext with
      | none => exec (.widthChangeEffect port tx) s = .next s
      | some m => if fget s F.PORT_STATUS_TRAINING p = 1 ∨ (oget s p).trained = false then exec (.widthChangeEffect port tx) s = .next s
        else Acts (.widthChangeEffect port tx) s fun u => fget u live p = m % 256 ∧ fget u width p = popcount m 8
          ∧ (fget u F.PORT_STATUS_UP p = 1 → wideEnough u p = true))
    ∧ (∀ tx heater, Acts (.ringLoopUpdate port tx lane heater) s fun u =>
      mget u.opt.heater (p * 16 + (if tx then 8 else 0) + n) 0 = heater.toNat ∧ { u with opt := s.opt } = s)
    ∧ (∀ found heater, if bitAt (fget s F.PORT_RING_RELOCKING p) n = false then exec (.ringRelockDone port lane found heater) s = .next s
      else Acts (.ringRelockDone port lane found heater) s fun u =>
        bitAt (fget u F.PORT_RING_RELOCKING p) n = false ∧ (laneOf u p n).noMatch = !found
        ∧ (found = false → l.why = 0 → bitAt (fget u F.PORT_LANES_RX_GOOD p) n = false)
        ∧ (found = true → bitAt (fget u F.PORT_RING_LOCKED p) n = true ∧ mget u.opt.heater (p * 16 + n) 0 = heater.toNat))
    ∧ (Acts (.ringResweepTimer port lane) s fun u =>
      if l.noMatch = true then bitAt (fget u F.PORT_RING_RELOCKING p) n = true ∧ u.opt = s.opt else u = s)
    ∧ ∀ (c : BitVec 2) (v : BitVec 16), let k := mget s.opt.conv c.toNat (0, 0); let x := roundLane c.toNat k.1
      let reh := (rehActive s c.toNat).bind (fun q => ((oget s q).reh).map (fun r => (q, r.1)))
      (∀ y, reh = some y → k.2 < 7 → Acts (.converterSample c v) s fun u =>
        fget u (rxPwr y.2) y.1 = v.toNat ∧ mget u.opt.conv c.toNat (0, 0) = (k.1, k.2 + 1))
      ∧ (reh = none ∨ 7 ≤ k.2 → Acts (.converterSample c v) s fun u =>
        fget u (rxPwr x.2) x.1 = v.toNat ∧ mget u.opt.conv c.toNat (0, 0) = ((k.1 + 1) % roundLen c.toNat, (k.2 + 1) % 8))

/-- R305, R306, R308, R311, R336: the bias loop's report of a laser is kept, a warming laser on grid begins to work unless it is an
understudy still to be switched in, and one at 850 is marked for changeover; a laser at its bias limit, or reported failed, goes to
state 4; a bonded laser's report is kept and its failure ends it; the biases go to the logbook daily.
The model's choices it rests on: log entries 4, 5, 90. -/
def Obligations.LaserBias : Prop :=
  ∀ (c : BitVec 2) s,
    (∀ n bias mon grid, ∀ i ∈ [Instr.laserBiasLoop c n bias mon grid, .laserFailure c n, .laserBiasDaily c], ∃ t, exec i s = .next t)
    ∧ (∀ (n : Fin 26) bias mon grid, let i := 24 * c.toNat + n.val
      n.val < 24 →
        (lasState s i ≠ 1 → lasState s i ≠ 2 → Acts (.laserBiasLoop c n bias mon grid) s (fun u => u = s)
          ∧ Acts (.laserFailure c n) s fun u => u = s)
        ∧ (lasState s i = 1 ∨ lasState s i = 2 →
          (bias.toNat < 1000 → Acts (.laserBiasLoop c n bias mon grid) s fun u =>
            fget u F.LAS_LASER_BIAS i = bias.toNat ∧ fget u F.LAS_LASER_MON i = mon.toNat
            ∧ (lasState u i = if lasState s i = 2 ∨ (grid = true ∧ ∀ x ∈ s.opt.changes, undOf x.laser = i → x.phase = .switched) then 2 else 1)
            ∧ (850 ≤ bias.toNat → n.val < 16 → (∀ x ∈ s.opt.changes, x.laser ≠ i) → ∃ k ∈ u.opt.marks, k.laser = i ∧ k.hot = true))
          ∧ (16 ≤ n.val → undFree s i = false ∧ mget s.opt.serves i 0 ≤ 2) →
            (1000 ≤ bias.toNat → Acts (.laserBiasLoop c n bias mon grid) s fun u => lasState u i = 4)
            ∧ Acts (.laserFailure c n) s fun u => lasState u i = 4))
    ∧ (∀ (b : Bool) bias mon grid, let n : Fin 26 := if b then 25 else 24
      let f := if b then F.PORT_SLASER_STATE1 else F.PORT_SLASER_STATE0
      let g := if b then F.PORT_SLASER_BIAS1 else F.PORT_SLASER_BIAS0
      if c.toNat % 2 = 1 ∨ fget s f (c.toNat / 2) ≠ 2 then
        Acts (.laserBiasLoop c n bias mon grid) s (fun u => u = s) ∧ Acts (.laserFailure c n) s fun u => u = s
      else Acts (.laserFailure c n) s (fun u => fget u f (c.toNat / 2) = 4 ∧ fget u g (c.toNat / 2) = 0)
        ∧ Acts (.laserBiasLoop c n bias mon grid) s fun u =>
          fget u g (c.toNat / 2) = (if 1000 ≤ bias.toNat then 0 else bias.toNat) ∧ fget u f (c.toNat / 2) = if 1000 ≤ bias.toNat then 4 else 2)
    ∧ Acts (.laserBiasDaily c) s fun u => u.regs = s.regs ∧ u.opt = s.opt ∧ ∃ r ∈ u.logw.book, r.typ = 0x20 ∧ r.item = c.toNat

/-- R304, R306, R307, R308, R309, R310, R340: changeovers of a lit bank. A marked laser's understudy is taken when its group is quiet, or
once the deferral is past and no port of the group steers or rehearses; while one steers, it waits. With the understudy on grid the
group narrows, and the understudy feeds it once no port carries the wavelength; one that a steer made wait goes on at the next quiet
interval, or once the deferral is past. `LAS_CTL` marks a laser whose understudy is free.
The model's choices it rests on: log entries 4, 5. -/
def Obligations.Changeovers : Prop :=
  ∀ (c : BitVec 2) s,
    (∀ laser wl, ∀ i ∈ [Instr.changeoverStart c laser, .changeoverDeferExpiry c laser, .understudyOnGrid c wl, .lasCtlChange c laser],
      ∃ t, exec i s = .next t)
    ∧ (bankLit s c.toNat = true →
    (∀ laser : BitVec 4, let i := 24 * c.toNat + laser.toNat; let ps := groupPorts c.toNat (laser.toNat % 2)
      match s.opt.marks.find? (fun k => k.laser == i) with
      | none => ((∀ x ∈ s.opt.changes, x.laser ≠ i) →
          Acts (.changeoverStart c laser) s (fun u => u = s) ∧ Acts (.changeoverDeferExpiry c laser) s fun u => u = s)
        ∧ (∀ x, s.opt.changes.find? (fun x => x.laser == i) = some x → x.phase = .waiting →
          ((∀ p ∈ ps, portQuiet s p = true) → Acts (.changeoverStart c laser) s fun u =>
            ∃ y ∈ u.opt.changes, y.laser = i ∧ (y.phase = .narrowing ∨ y.phase = .switched))
          ∧ ((∀ p ∈ ps, steering s p = false) → Acts (.changeoverDeferExpiry c laser) s fun u =>
            ∃ y ∈ u.opt.changes, y.laser = i ∧ (y.phase = .narrowing ∨ y.phase = .switched)))
      | some k => (∀ x ∈ s.opt.changes, x.laser ≠ i) →
        (undFree s i = true → k.soft = true ∨ fget s F.LAS_CFG_AUTO c.toNat = 1 →
          ((∀ p ∈ ps, portQuiet s p = true) → Acts (.changeoverStart c laser) s (TakesOver s i))
          ∧ ((∀ p ∈ ps, steering s p = false ∧ fget s F.PORT_STATUS_REHEARSING p ≠ 1) →
            Acts (.changeoverDeferExpiry c laser) s (TakesOver s i))
          ∧ (k.failed = false → (∃ p ∈ ps, steering s p = true) → Acts (.changeoverStart c laser) s fun u => u = s))
        ∧ (undFree s i = false ∨ (k.soft = false ∧ fget s F.LAS_CFG_AUTO c.toNat ≠ 1) → Acts (.changeoverStart c laser) s fun u => u = s))
    ∧ (∀ wl : BitVec 3, let u0 := 24 * c.toNat + 16 + wl.toNat
      match s.opt.changes.find? (fun x => undOf x.laser == u0 && x.phase == .warming) with
      | none => exec (.understudyOnGrid c wl) s = .next s
      | some x => (lasState s u0 ≠ 1 → exec (.understudyOnGrid c wl) s = .next s)
        ∧ (lasState s u0 = 1 → (∀ y ∈ s.opt.changes, y.laser = x.laser → y = x) →
          x.failed = true ∨ (x.held = false ∧ ∀ p ∈ lasPorts x.laser, steering s p = false) →
          (carrying s x.laser = [] →
            Acts (.understudyOnGrid c wl) s fun u => lasState u u0 = 2 ∧ fget u F.LAS_LASER_GROUP u0 = x.laser % 2)
          ∧ (carrying s x.laser ≠ [] →
            Acts (.understudyOnGrid c wl) s fun u => ∀ p ∈ carrying s x.laser, fget u F.PORT_STATUS_NARROW_CO p = 1)))
    ∧ ∀ laser : BitVec 4, let i := 24 * c.toNat + laser.toNat
      Acts (.lasCtlChange c laser) s fun u => fget u F.LAS_CTL_LASER c.toNat = laser.toNat ∧
        if undFree s i = true ∧ ∀ x ∈ s.opt.changes, x.laser ≠ i then ∃ k ∈ u.opt.marks, k.laser = i ∧ k.soft = true
        else u.opt = s.opt)

/-- R322, R324, R341: presence and light-up. Light on a loop allows its bank's light-up, which lights the working lasers, but those that an understudy has relieved, and starts
the training of the enabled ports that are dark; its loss darkens the ferrule's lasers and ports. -/
def Obligations.PresenceAndBanks : Prop :=
  (∀ h s, Acts (.presenceSeen h) s fun u => (∀ c ∈ ferrule h, fget u F.LAS_STATUS_PRESENCE c = 1)
      ∧ { u with regs := [] } = { s with regs := [] }
      ∧ ∀ f i, (∀ c ∈ ferrule h, f.key i ≠ F.LAS_STATUS_PRESENCE.key c) → fget u f i = fget s f i)
  ∧ (∀ h s, fget s F.LAS_STATUS_PRESENCE (2 * h.num) ≠ 1 → Acts (.presenceLost h) s fun u => u = s)
  ∧ (∀ h s, fget s F.LAS_STATUS_PRESENCE (2 * h.num) = 1 → Acts (.presenceLost h) s fun u => ∀ c ∈ ferrule h,
      fget u F.LAS_STATUS_PRESENCE c = 0 ∧ fget u F.LAS_STATUS_LIT c = 0
      ∧ (∀ n < 24, lasState u (24 * c + n) = if lasState s (24 * c + n) < 4 then 0 else lasState s (24 * c + n))
      ∧ ∀ p ∈ chipPorts c, fget u F.PORT_STATUS_UP p = 0 ∧ fget u F.PORT_STATUS_DARK p = 1)
  ∧ ∀ (c : BitVec 2) s, if fget s F.LAS_STATUS_PRESENCE c.toNat ≠ 1 ∨ fget s F.LAS_STATUS_LIT c.toNat = 1 then
      Acts (.bankLightUp c) s fun u => u = s
    else Acts (.bankLightUp c) s fun u => fget u F.LAS_STATUS_LIT c.toNat = 1
      ∧ (∀ n < 16, lasState s (24 * c.toNat + n) < 4 → (∀ x ∈ s.opt.changes, x.laser = 24 * c.toNat + n → x.phase ≠ .switched ∨ x.failed = true) →
        lasState u (24 * c.toNat + n) = 1)
      ∧ ∀ p ∈ chipPorts c.toNat, fget s F.PORT_CFG_ENABLE p = 1 → fget s F.PORT_STATUS_DARK p = 1 →
        fget u F.PORT_STATUS_TRAINING p = 1 ∧ fget u F.PORT_STATUS_DARK p = 0

/-- R315, R316, R319, R320, R321, R324, R329, R331: training, rehearsal and steering of a port.
The model's choices it rests on: log entries 5, 64, 159. -/
def Obligations.PortsAndPoints : Prop :=
  (∀ (port : PortId) s, let p := port.idx
    (if fget s F.PORT_STATUS_TRAINING p ≠ 1 ∨ fget s F.PORT_PEER_VALID p ≠ 1 ∨ clocked s p = false then Acts (.portTrainingComplete port) s fun u => u = s
     else if (oget s p).reh ≠ none then
       Acts (.portTrainingComplete port) s fun u => fget u F.PORT_STATUS_TRAINING p = 0 ∧ fget u F.PORT_STATUS_REHEARSING p = 1
         ∧ (oget u p).reh = some (0, 0) ∧ p ∈ u.opt.rehQ
     else Acts (.portTrainingComplete port) s fun u => fget u F.PORT_STATUS_TRAINING p = 0
       ∧ fget u F.PORT_STATUS_TX_WIDTH p = popcount (fget u F.PORT_LANES_TX_LIVE p) 8
       ∧ (steering s p = false → fget u F.PORT_STATUS_UP p = 1 → wideEnough u p = true))
    ∧ (if steering s p = true ∨ fget s F.PORT_CFG_ENABLE p ≠ 1 ∨ lit s p = false then Acts (.portCtlRetrain port) s fun u => u = s
       else Acts (.portCtlRetrain port) s fun u => fget u F.PORT_STATUS_TRAINING p = 1 ∧ fget u F.PORT_STATUS_UP p = 0
         ∧ fget u F.PORT_LANES_RX_GOOD p = 0 ∧ fget u F.PORT_LANES_TX_LIVE p = 0 ∧ fget u F.PORT_LANES_RX_LIVE p = 0
         ∧ fget u F.PORT_PEER_VALID p = 0 ∧ fget u F.PORT_RING_LOCKED p = 0
         ∧ (oget u p).reh = if isSig p = false ∧ (fget s F.PORT_CFG_MODE p = 1 ∨ fget s F.PORT_CFG_REHEARSE p = 1) then some (0, 0) else none)
    ∧ (∀ rings : BitVec 8, Acts (.portCtlRelock port rings) s fun u => u.opt = s.opt ∧ ∀ n < 8,
        bitAt (fget u F.PORT_RING_RELOCKING p) n
          = (decide (n < laneCount p) && bitAt rings.toNat n || bitAt (fget s F.PORT_RING_RELOCKING p) n)
        ∧ (n < laneCount p → bitAt rings.toNat n = true → bitAt (fget u F.PORT_RING_LOCKED p) n = false))
    ∧ Acts (.portCtlCntClr port) s fun u => (∀ n < 8, fget u (laneCorr n) p = 0) ∧ { u with regs := [] } = { s with regs := [] })
  ∧ ∀ (port : BitVec 5) s, let p := port.toNat; let o := oget s p
    (∀ errs bytes, match o.reh with
      | none => Acts (.rehearsalDwell port errs bytes) s fun u => u = s
      | some (n, k) => if rehActive s (p / 8) ≠ some p ∨ o.prb = false then Acts (.rehearsalDwell port errs bytes) s fun u => u = s
        else if errs.toNat * 10000 ≤ bytes.toNat ∧ k < 9 then Acts (.rehearsalDwell port errs bytes) s fun u =>
          (oget u p).reh = some (n, k + 1) ∧ u.regs = s.regs
        else k ≤ 9 → let steps := if errs.toNat * 10000 ≤ bytes.toNat then 10 else k
          (n < 7 → Acts (.rehearsalDwell port errs bytes) s fun u => fget u (marginFld n) p = 5 * steps ∧ (oget u p).reh = some (n + 1, 0)
            ∧ (steps < 4 → fget u F.PORT_STATUS_REH_FAIL p = 1))
          ∧ (n = 7 → Acts (.rehearsalDwell port errs bytes) s fun u =>
            fget u (marginFld 7) p = 5 * steps ∧ fget u F.PORT_STATUS_REHEARSING p = 0))
    ∧ (if fget s F.PORT_STATUS_REHEARSING p ≠ 1 ∨ o.prb = true ∨ rehActive s (p / 8) ≠ some p then Acts (.rehearsalNoPattern port) s fun u => u = s
       else Acts (.rehearsalNoPattern port) s fun u =>
        (∀ n < 8, fget u (marginFld n) p = 0xFE) ∧ fget u F.PORT_STATUS_REHEARSING p = 0)
    ∧ (∀ fibre : BitVec 4, Acts (.portSteerGo port fibre) s fun u => fget u F.PORT_STEER_FIBRE p = fibre.toNat ∧
        match steerRefusal s p fibre.toNat with
        | some _ => fget u F.PORT_STATUS_STEER_FAIL p = 1 ∧ u.opt = s.opt
        | none => if fget s F.PORT_STEER_CUR p = fibre.toNat then u.opt = s.opt ∧ SameRegs s u (only F.PORT_STEER_FIBRE p)
          else steering u p = true ∧ (oget u p).steerTo = some (fibre.toNat, none))
    ∧ (∀ m, match o.steerTo with
      | none => Acts (.steerSwitchDone port m) s fun u => u = s
      | some (f, _) => if mkValid m = false ∨ clocked s p = false then Acts (.steerSwitchDone port m) s fun u => u = s
        else Acts (.steerSwitchDone port m) s fun u => fget u F.PORT_STEER_CUR p = f % 16 ∧ fget u F.PORT_PEER_VALID p = 1
          ∧ fget u F.PORT_PEER_DEVICE p = mkDevice m ∧ fget u F.PORT_PEER_PORT p = mkPort m
          ∧ (fget u F.FAB_PORT_STATUS_IDBAD p ≠ 1 → portFit u p = true → wideEnough u p = true →
            steering u p = false ∧ (oget u p).steerTo = none ∧ fget u F.PORT_STATUS_UP p = 1))
    ∧ match o.steerTo with
      | none => Acts (.steerTimeout port) s fun u => u = s
      | some (f, _) => f < 16 → Acts (.steerTimeout port) s fun u => fget u F.PORT_STEER_CUR p = f ∧ steering u p = false
        ∧ (oget u p).steerTo = none ∧ fget u F.PORT_STATUS_STEER_FAIL p = 1 ∧ fget u F.PORT_STATUS_UP p = 0
        ∧ (fget s F.PORT_CFG_ENABLE p = 1 → lit s p = true → fget u F.PORT_STATUS_TRAINING p = 1)

/-! ## The interlocking -/

/-- R377, R379, R381 to R383, R386 to R394, R397, R413, R380: the records. A record with a reserved bit or kind is counted and
discarded. Any other takes effect by its KIND at the device's joined units, or at the unit of its plane where they are alone (how a
lone unit goes on is the model's choice, log entry 160): a heartbeat is a sign of life; a probe is answered; an answer that carries the
probe's number clears the suspicion; a box holds a request, votes on a proposal, and as chair counts votes and acknowledgements;
a newer epoch record that holds this device is installed; a fetch is answered; a verdict ends the pending request; a HALL record
fills its district's entry; a PORTCHECK proves its port.
The model's choices it rests on: log entries 67, 71, 72, 77, 160. -/
def Obligations.InterlockingRecords : Prop :=
  (∀ c ∈ [Instr.ilkHeartbeat, .ilkProbe, .ilkAnswer, .ilkRequest, .ilkPropose, .ilkVote, .epochRecord, .ilkEpochAck, .ilkFetch,
      .ilkVerdict, .ilkHall], ∀ (h : Half) r s,
    let src := rb r 16 16; let m := src % 64; let t := rb r 128 32; let g := chgOf r; let kind := rb r 0 8
    let box := fget s F.ILK_STATUS_BOX = 1
    (∀ un, s.brg.lone = some un → Acts (c .down r) s fun u => (∀ f ∈ unitFlds, fget u f = fget s f % 2 ^ f.width)
      ∧ u.ilk.seen = s.ilk.seen ∧ u.ilk.reqs = s.ilk.reqs ∧ u.ilk.prop = s.ilk.prop ∧ u.ilk.voted = s.ilk.voted ∧ u.ilk.deliver = s.ilk.deliver
      ∧ u.ilk.plane = s.ilk.plane ∧ u.ilk.stood = s.ilk.stood ∧ u.brg.lone.isSome = true)
    ∧ (h = .up ∨ s.brg.lone = none → s.ilk.plane ≠ some .down →
    (ilkOk r = false → Acts (c h r) s fun u => fget u F.ILK_SPORT_RX_COUNT h.num = (fget s F.ILK_SPORT_RX_COUNT h.num + 1) % 2 ^ 64
      ∧ SameRegs s u (only F.ILK_SPORT_RX_COUNT h.num) ∧ u.ilk = s.ilk ∧ u.outbox = s.outbox)
    ∧ (ilkOk r = true → districtOf src = districtOf (deviceId s) → validDevice src = true →
      (kind = 1 → Acts (c h r) s fun u => (seen u m).health = rb r 64 32 ∧ (seen u m).forming = bitAt (rb r 8 8) 0
        ∧ match h with | .up => (seen u m).onA = some s.timeUp | .down => (seen u m).onB = some s.timeUp)
      ∧ (kind = 2 → Acts (c h r) s fun u => ∃ v, u = ilkSend v src (ilkRec v 3 0 (rb r 96 32 * 2 ^ 96)) ∧ (seen v m).health = rb r 64 32)
      ∧ (kind = 3 → (seen s m).nonce = some (rb r 96 32) → Acts (c h r) s fun u => (seen u m).nonce = none
        ∧ if hFault (rb r 64 32) || hFenced (rb r 64 32) || hIsolated (rb r 64 32) then (seen u m).conf.isSome = true
          else bitAt (fget u F.ILK_SUSPECT_MAP) m = false)
      ∧ (kind = 4 → Acts (c h r) s fun u => if box then ∃ q ∈ u.ilk.reqs, sameReq q g src = true else u.ilk.reqs = s.ilk.reqs)
      ∧ (kind = 5 → (g.op = 4 → Acts (c h r) s fun u => ∃ v, (s.ilk.waits = [] → v.ilk.voted = s.ilk.voted)
            ∧ (v.ilk.voted = some (t, g) → u = ilkSend v src (ilkRec v 6 2 (chgBody g + t % 2 ^ 32 * 2 ^ 128)))
            ∧ (v.ilk.voted ≠ some (t, g) → ∃ x yes, u = vote x src t g yes ∧ x.regs = v.regs ∧ (yes = true → g.reason = 7)))
        ∧ (g.op ≠ 4 → (¬ box → Acts (c h r) s fun u => u.ilk.voted = s.ilk.voted ∧ fget u F.ILK_STATUS_CHANGE = fget s F.ILK_STATUS_CHANGE)
          ∧ (box → Acts (c h r) s (fun u => fget u F.ILK_STATUS_CHANGE = 1)
            ∧ (t ≠ (epoch s + 1) % 2 ^ 32 → Acts (c h r) s fun u => ∃ v, u = vote v src t g false)
            ∧ (t = (epoch s + 1) % 2 ^ 32 → s.ilk.voted = none → s.ilk.waits = [] → g.op = 2 → g.reason = 5 →
              (∃ q ∈ s.ilk.reqs, sameChange q.chg g = true ∧ q.src = g.subj) → Acts (c h r) s fun u => u.ilk.voted = some (t, g)))))
      ∧ (kind = 6 → ∀ p, s.ilk.prop = some p → t = p.tepoch → m ∈ p.voters → m ∉ p.yes → m ∉ p.no → bitAt (rb r 8 8) 1 = false →
        (bitAt (rb r 8 8) 0 = true → quorum p.voters.length ≤ p.yes.length + 1 → Acts (c h r) s fun u =>
          ∃ d, u.ilk.deliver = some d ∧ d.chg = p.chg ∧ d.tepoch = t)
        ∧ (bitAt (rb r 8 8) 0 = true → p.yes.length + 1 < quorum p.voters.length → quorum p.voters.length + p.no.length ≤ p.voters.length →
          Acts (c h r) s fun u => u.ilk.prop = some { p with yes := p.yes ++ [m] })
        ∧ (bitAt (rb r 8 8) 0 = false → p.yes.length < quorum p.voters.length →
          p.voters.length < quorum p.voters.length + p.no.length + 1 → Acts (c h r) s fun u =>
            fget u F.ILK_COUNTS_FAILED = min (fget s F.ILK_COUNTS_FAILED + 1) 255))
      ∧ (kind = 7 → (fget s F.ILK_STATUS_FORMED ≠ 1 ∨ seqNewer t (epoch s) = true → bitAt (rb r 192 64) (deviceId s % 64) = true → Acts (c h r) s fun u =>
          epoch u = t ∧ fget u F.ILK_MEMBERS_MAP = rb r 192 64 ∧ fget u F.ILK_STATUS_FORMED = 1 ∧ fget u F.ILK_STATUS_FENCED = 0)
        ∧ (fget s F.ILK_STATUS_FORMED = 1 → seqNewer t (epoch s) = false → Acts (c h r) s fun u => epoch u = epoch s ∧ fget u F.ILK_MEMBERS_MAP = fget s F.ILK_MEMBERS_MAP))
      ∧ (kind = 8 → ∀ d, s.ilk.deliver = some d → t = d.tepoch → m ∉ d.acked → Acts (c h r) s fun u =>
        u.ilk.deliver = if (bitList d.members 64).all (fun i => (d.acked ++ [m]).contains i) then none else some { d with acked := d.acked ++ [m] })
      ∧ (kind = 9 → Acts (c h r) s fun u => ∃ v, u = (if box then sendEpoch v src else v) ∧ epoch v = epoch s ∧ v.ilk.complete = s.ilk.complete)
      ∧ (kind = 10 → fget s F.ILK_STATUS_REQ_PEND = 1 → fget s F.ILK_CTL_OP = g.op → (g.op = 1 → g.reason = 4) →
        g.subj = (if g.op = 1 then fget s F.ILK_CTL_SUBJ else deviceId s) → Acts (c h r) s fun u =>
          fget u F.ILK_STATUS_REQ_PEND = 0 ∧ fget u F.ILK_STATUS_REQ_YES = (if bitAt (rb r 8 8) 0 then 1 else 0)
          ∧ ∀ q ∈ u.ilk.reqs, if bitAt (rb r 8 8) 0 then sameChange q.chg g = false else sameReq q g (deviceId s) = false)
      ∧ (kind = 11 → let d := rb r 289 10
        d < 256 → d ≠ districtOf (deviceId s) → Acts (c h r) s fun u =>
          if hallFilled s d = false ∨ seqNewer (rb r 32 32) (fget s F.ILK_HALL_EPOCH_EPOCH d) = true then
            fget u F.ILK_HALL_EPOCH_EPOCH d = rb r 32 32 ∧ fget u F.ILK_HALL_MEMBERS_MAP d = rb r 192 64
          else fget u F.ILK_HALL_EPOCH_EPOCH d = fget s F.ILK_HALL_EPOCH_EPOCH d))))
  ∧ ∀ (port : BitVec 5) r s, Acts (.ilkPortcheck port r) s fun u =>
      let h := (portHalf port.toNat).num
      fget u F.ILK_SPORT_RX_COUNT h = (fget s F.ILK_SPORT_RX_COUNT h + 1) % 2 ^ 64
      ∧ SameRegs s u (only F.ILK_SPORT_RX_COUNT h)
      ∧ if ilkOk r = true ∧ rb r 0 8 = 12 then (oget u port.toNat).pcLost = false else u.opt = s.opt

/-- R380 to R383, R386, R388 to R390, R393, R397 to R399, R401, R402, R411, R413: the interlocking's timers and what software asks
of it, while the units are joined; units that are alone (R376) each send heartbeats of their own.
The model's choices it rests on: log entries 4, 5, 74, 79, 160. -/
def Obligations.InterlockingTimers : Prop :=
  (∀ s un, s.brg.lone = some un → Acts .heartbeatSendTimer s fun u => u.ilk.hbseq = (s.ilk.hbseq + 1) % 2 ^ 32
    ∧ (u.brg.lone.map (·.unit.hbseq)) = some ((un.unit.hbseq + 1) % 2 ^ 32) ∧ healthWord u = if s.ilk.plane.isSome = true then s.ilk.stood else healthWord u)
  ∧ ∀ s, s.brg.lone = none →
    (Acts .heartbeatSendTimer s fun u => u.ilk.hbseq = (s.ilk.hbseq + 1) % 2 ^ 32 ∧ u.ilk.prop = s.ilk.prop ∧ u.ilk.seen = s.ilk.seen)
    ∧ (∀ m6 : BitVec 6, let m := m6.toNat
      (if fget s F.ILK_STATUS_BOX = 1 ∧ bitAt (fget s F.ILK_MEMBERS_MAP) m = true ∧ memberDev s m ≠ deviceId s
          ∧ bitAt (fget s F.ILK_SUSPECT_MAP) m = false ∧ (seen s m).conf = none then
        Acts (.suspicionTimeout m6) s fun u => bitAt (fget u F.ILK_SUSPECT_MAP) m = true
          ∧ (seen u m).nonce = some ((s.ilk.nonce + 1) % 2 ^ 32)
       else Acts (.suspicionTimeout m6) s fun u => u = s)
      ∧ (match (seen s m).nonce with
        | none => Acts (.probeRepeat m6) s (fun u => u = s) ∧ Acts (.probeConfirmTimeout m6) s fun u => u = s
        | some n => Acts (.probeRepeat m6) s (fun u => u = ilkSend s (memberDev s m) (ilkRec s 2 0 (n * 2 ^ 96)))
          ∧ Acts (.probeConfirmTimeout m6) s fun u => (seen u m).conf = some 1 ∧ (seen u m).nonce = none)
      ∧ (memberDev s m ≠ deviceId s → match (seen s m).conf with
        | none => Acts (.requestResend m6) s fun u => u = s
        | some why => Acts (.requestResend m6) s fun u =>
          if fget s F.ILK_STATUS_BOX = 1 ∧ bitAt (fget s F.ILK_MEMBERS_MAP) m = true then u = ilkRequest s ⟨1, memberDev s m, why, 0⟩ 0 else u = s)
      ∧ (memberDev s m = deviceId s → s.drain = none → Acts (.requestResend m6) s fun u =>
          if fget s F.ILK_STATUS_FENCED = 1 ∧ s.ilk.selfchk = true ∧ (fget s F.ILK_STATUS_REQ_PEND = 1 ∨ overLimit s = false)
            then u = ilkRequest s ⟨3, deviceId s, 6, 0⟩ 0 else u = s))
    ∧ (∀ (op : BitVec 4) (subj : BitVec 16), match s.ilk.reqs.find? (fun r => r.chg.op == op.toNat && r.chg.subj == subj.toNat) with
      | none => Acts (.chairHandoverTimeout op subj) s fun u => u = s
      | some r => Acts (.chairHandoverTimeout op subj) s fun u =>
        ∃ x ∈ u.ilk.reqs, x.chg = r.chg ∧ x.turn = r.turn + 1)
    ∧ (match s.ilk.prop with
      | none => Acts .voteTimeout s fun u => u = s
      | some p => Acts .voteTimeout s fun u => fget u F.ILK_COUNTS_FAILED = min (fget s F.ILK_COUNTS_FAILED + 1) 255
        ∧ ∀ r ∈ u.ilk.reqs, sameReq r p.chg p.src = false)
    ∧ (match s.ilk.deliver with
      | none => Acts .epochResendTimer s (fun u => u = s) ∧ Acts .epochCompleteTimeout s fun u => u = s
      | some d => Acts .epochResendTimer s (fun u => u = deliverTo s d 0 (d.targets.filter (fun m => !d.acked.contains m)))
        ∧ Acts .epochCompleteTimeout s fun u => u.ilk.deliver = none)
    ∧ (Acts .epochLogbookTimer s fun u => u.regs = s.regs ∧ u.ilk.dirty = false
        ∧ (s.ilk.dirty = true → ∃ r ∈ u.logw.book, r.typ = 0x17) ∧ (s.ilk.dirty = false → u = s))
    ∧ (Acts .portcheckSendTimer s fun u => u = ((List.range 32).filter (fun p => fbit s F.PORT_STATUS_UP p)).foldl
        (fun v p => sendOn v p 0xFFFF (ilkRec s 12 0 (p * 2 ^ 96))) s)
    ∧ (∀ port : BitVec 5, let p := port.toNat
      if fget s F.PORT_STATUS_UP p = 1 ∧ fget s F.PORT_PEER_VALID p = 1 ∧ fget s F.PORT_PEER_S p ≠ 1 ∧ (oget s p).pcLost = false then
        Acts (.portcheckMissing port) s fun u => (oget u p).pcLost = true ∧ u.regs = s.regs
      else Acts (.portcheckMissing port) s fun u => u = s)
    ∧ (Acts .fetchRetry s fun u => if s.ilk.fetching = true then u = sendAll s (boxList s) (ilkRec s 9 0 0) else u = s)
    ∧ (if fget s F.ILK_STATUS_FORMED = 1 ∧ ∃ m ∈ boxList s, memberDev s m ≠ deviceId s then
        fget s F.ILK_STATUS_FENCED ≠ 1 → devState s ≠ dsCold → Acts .boxSilenceFence s fun u =>
          fget u F.ILK_STATUS_FENCED = 1 ∧ fget u F.MOD_DEVICE_ID_VALID = 0 ∧ u.ilk.selfchk = false
          ∧ ∀ k < 64, fget u F.WIN_JOB_BOUND k ≠ 1
       else Acts .boxSilenceFence s fun u => u = s)
    ∧ (∀ passed, if fget s F.ILK_STATUS_FENCED = 1 ∧ fget s F.MOD_STATUS_DEV_FAULT ≠ 1 ∧ passed = true then
        Acts (.selfCheckDone passed) s fun u => u.ilk.selfchk = true
       else Acts (.selfCheckDone passed) s fun u => u = s)
    ∧ (let hs := (heard s).filter (fun m => !hDown (healthOf s m))
      if s.ilk.forming = true ∧ s.ilk.prop = none ∧ hs.head? = some (deviceId s % 64) then
        Acts .formWaitExpiry s fun u => ∃ p, u.ilk.prop = some p ∧ p.chg = ⟨4, 0xFFFF, 7, (hs.map (fun m => 2 ^ m)).sum⟩
          ∧ fget u F.ILK_STATUS_CHAIR = 1
      else Acts .formWaitExpiry s fun u => u = s)
    ∧ (if fget s F.ILK_STATUS_FORMED = 1 ∧ fget s F.ILK_STATUS_HALL ≠ 1 then Acts .hallWaitExpiry s fun u => fget u F.ILK_STATUS_HALL = 1
       else Acts .hallWaitExpiry s fun u => u = s)
    ∧ (∀ (subj : BitVec 16) (job : BitVec 12) c k, (c, k) ∈ [(Instr.ilkCtlExpel subj job, 1), (.ilkCtlLeave, 2), (.ilkCtlReadmit, 3)] →
      Acts c s fun u => if fget s F.ILK_STATUS_REQ_PEND = 1 then u.regs = s.regs ∧ u.ilk = s.ilk ∧ u.outbox = s.outbox
        else fget u F.ILK_STATUS_REQ_PEND = 1 ∧ fget u F.ILK_CTL_OP = k ∧ (k = 1 → fget u F.ILK_CTL_SUBJ = subj.toNat ∧ fget u F.ILK_CTL_JOB = job.toNat))
    ∧ (∀ (slot : BitVec 6) (pos : BitVec 14), Acts (.partnerCopyDone slot pos) s fun u =>
        u.regs = s.regs ∧ u.ilk.copies = s.ilk.copies.erase (slot.toNat, pos.toNat))
    ∧ (if s.ilk.prop.isSome = true ∨ s.ilk.deliver.isSome = true then Acts .districtChangeEnd s fun u => u = s
       else Acts .districtChangeEnd s fun u => ∃ v, fget v F.ILK_STATUS_CHANGE = 0 ∧ fget v F.ILK_STATUS_CHAIR = 0 ∧ v.brg.held = []
        ∧ u = s.brg.held.foldl (fun v x => presetRequest v x.1 x.2) v)

/-! ## The bridge, partial resets and the clock -/

/-- R421 to R425, R428 to R430, R438: flits and training messages of the bridge. An uncorrectable control flit is lost, and one of
another epoch is not taken; else it brings the credits, and a NAK is answered by a replay. A flit in sequence counts; one that
begins no packet is dropped with the flits it announces; an uncorrectable one is answered by a NAK. Each training message is taken
only in its training, and the last one that agrees starts the bridge.
The model's choices it rests on: log entries 5, 81, 82, 92. -/
def Obligations.BridgeFlits : Prop :=
  ∀ (h : Half) s, let x := btx s h; let y := brx s h; let up := fget s F.BRG_STATUS_UP = 1
    let count := if h = .down then F.BRG_FLITS_UD_COUNT else F.BRG_FLITS_DU_COUNT
    (∀ flit err, match decodeBlock 4 [] err with
      | .uncorrectable => exec (.brgControlFlit h flit err) s = .next s
      | .clean e | .corrected e => let v := (flit ^^^ e).toNat
        if bitsAt v 0 8 = 0xC5 ∧ bitsAt v 10 6 = 0 ∧ bitsAt v 23 9 = 0 ∧ bitsAt v 320 192 = 0
            ∧ bitsAt v 32 32 = fget s F.BRG_EPOCH_TEPOCH ∧ up then
          Acts (.brgControlFlit h flit err) s fun u =>
            (∀ c < 6, mget (btx u h).freed c 0
              = min (mget x.used c 0) (healCount (mget x.freed c 0) (bitsAt v (128 + 32 * c) 32) (2 ^ 32)))
            ∧ (bitAt v 8 = true → fget u F.BRG_ERRORS_REPLAYS
              = min (fget s F.BRG_ERRORS_REPLAYS + 1) (2 ^ F.BRG_ERRORS_REPLAYS.width - 1))
        else Acts (.brgControlFlit h flit err) s fun u => u = s)
    ∧ (s.brg.arrived = [] → ∀ (seq : BitVec 32) (f : BitVec 512) err,
      (¬ up ∨ y.discard = true ∨ seq.toNat ≠ y.exp → Acts (.brgPacket h seq [(f, err)]) s fun u => u = s)
      ∧ (up → y.discard = false → seq.toNat = y.exp → ∀ r, brec s h = some r →
        (decodeBlock 4 ((grp s (dirTo h) (flitGroup r seq.toNat)).erase).toList err = .uncorrectable →
          Acts (.brgPacket h seq [(f, err)]) s fun u => (brx u h).discard = true ∧ (brx u h).exp = y.exp
            ∧ u.outbox = s.outbox ++ [.bridge h (brgControls u h true false seq.toNat)])
        ∧ (decodeBlock 4 ((grp s (dirTo h) (flitGroup r seq.toNat)).erase).toList err = .clean 0 → y.drop = 0 → y.head = none →
          let cls := bitsAt f.toNat 2 3; let kind := bitsAt f.toNat 12 4; let n := bitsAt f.toNat 5 7
          bitsAt f.toNat 0 2 ≠ 0 →
          (bitsAt f.toNat 0 2 = 2 → cls < 5 → kindOk kind cls = true → 1 ≤ n → n ≤ 64 → Acts (.brgPacket h seq [(f, err)]) s fun u =>
            (brx u h).exp = seqNext seq.toNat ∧ (brx u h).head = some f ∧ fget u count = (fget s count + 1) % 2 ^ 64)
          ∧ (bitsAt f.toNat 0 2 = 2 → cls = 4 → kind = 6 → n = 0 → Acts (.brgPacket h seq [(f, err)]) s fun u =>
            ∃ v, u = powerMessage v h (BitVec.ofNat 448 (f.toNat / 2 ^ 64)) ∧ (brx v h).exp = seqNext seq.toNat ∧ v.pwr = s.pwr)
          ∧ (bitsAt f.toNat 0 2 ≠ 2 ∨ 5 ≤ cls ∨ kindOk kind cls = false ∨ 64 < n → Acts (.brgPacket h seq [(f, err)]) s fun u =>
            (brx u h).exp = seqNext seq.toNat ∧ (brx u h).drop = n ∧ u.brg.arrived = []
            ∧ fget u F.BRG_ERRORS_DROPS = min (fget s F.BRG_ERRORS_DROPS + 1) (2 ^ F.BRG_ERRORS_DROPS.width - 1)))))
    ∧ (∀ body, Acts (.brgPowerMessage h body) s fun u => if bitsAt body.toNat 32 2 = 3 ∨ bitsAt body.toNat 34 14 ≠ 0 ∨ body.toNat / 2 ^ 100 ≠ 0
        then u = s else u.regs = s.regs ∧ (pwrGet u h).own = (pwrGet s h).own
          ∧ (pwrGet u h).peer = some ⟨bitsAt body.toNat 0 32, bitsAt body.toNat 48 16, bitsAt body.toNat 80 16⟩)
    ∧ (if x.unacked = [] ∨ ¬ up then Acts (.brgRetryTimeout h) s fun u => u = s
       else Acts (.brgRetryTimeout h) s fun u => (btx u h).replays = x.replays + 1
        ∧ fget u F.BRG_ERRORS_REPLAYS = min (fget s F.BRG_ERRORS_REPLAYS + 1) (2 ^ F.BRG_ERRORS_REPLAYS.width - 1))
    ∧ (∀ failed, match s.brg.train with
      | none => Acts (.brgPrbsDone h failed) s fun u => u = s
      | some t => Acts (.brgPrbsDone h failed) s fun u => ∃ map, u.brg.train = some { t with good := mput t.good h.num (map + 1) 0 }
        ∧ u.outbox = s.outbox ++ [.sideband h (trainMsg 2 0 t.tepoch 0 map)]
        ∧ (∀ g < 68, bitAt map g = ((grp u (dirTo h) g).st == 1))
        ∧ ∀ (g a b : BitVec 7), g.toNat < 68 → a ≠ b → (g, a) ∈ failed → (g, b) ∈ failed → (grp u (dirTo h) g.toNat).st = 3)

/-- R428, R429, R430: training. START begins the exchange of patterns; MAP of the peer is answered by AGREE, or the training fails
where no width is filled; AGREE is written into the down half's record and echoed; an ECHO that agrees starts the bridge and one
that does not is refused; a refusal starts the next training, the third ends in a device fault.
The model's choices it rests on: log entries 5, 84, 86. -/
def Obligations.BridgeTraining : Prop :=
  ∀ s, let refuses := fun (c : Instr) (t : BrgTrain) (m : List Out) =>
      (s.brg.refused < 2 → Acts c s fun u => u.brg.refused = s.brg.refused + 1
        ∧ u.brg.train = some { cause := t.cause, tepoch := (s.brg.lastEp + 1) % 2 ^ 32 }
        ∧ u.outbox = s.outbox ++ m ++ [.sideband .up (trainMsg 1 0 ((s.brg.lastEp + 1) % 2 ^ 32) 0 0)] ∧ fget u F.BRG_STATUS_TRAINING = 1)
      ∧ (2 ≤ s.brg.refused → Acts c s fun u => ∃ v, u = deviceFault v ∧ v.brg.train = none ∧ fget v F.BRG_STATUS_TRAINING = 0)
    (match s.brg.train with
      | none => (∀ m, Acts (.brgTrainStart m) s (fun u => u = s) ∧ Acts (.brgTrainMap m) s (fun u => u = s)
          ∧ Acts (.brgTrainEcho m) s (fun u => u = s) ∧ exec (.brgTrainRefuse m) s = .next s) ∧ Acts .brgEchoTimeout s fun u => u = s
      | some t =>
        (∀ m, let mine := fun k => trainOk m k = true ∧ tmBits m 32 32 = t.tepoch
          (Acts (.brgTrainStart m) s fun u => if mine 1 then u.brg.train = some { t with good := [], agreed := none } ∧ u.regs = s.regs else u = s)
          ∧ (let own := mget t.good 0 0; let map := Nat.land (own - 1) (tmBits m 128 68); let w := widthOf map
            if mine 2 ∧ own ≠ 0 then
              if w = 0 then Acts (.brgTrainMap m) s fun u => ∃ v, u = deviceFault v ∧ v.brg.train = none
              else Acts (.brgTrainMap m) s fun u => u.brg.train = some { t with agreed := some (map, w) }
                ∧ u.outbox = s.outbox ++ [.sideband .up (trainMsg 3 w t.tepoch (brx s .up).exp map)]
            else Acts (.brgTrainMap m) s fun u => u = s)
          ∧ (match t.agreed with
            | none => Acts (.brgTrainEcho m) s fun u => u = s
            | some (map, w) => if trainOk m 4 = false then Acts (.brgTrainEcho m) s fun u => u = s
              else if tmBits m 32 32 = t.tepoch ∧ tmBits m 128 68 = map ∧ tmBits m 8 3 = w then Acts (.brgTrainEcho m) s fun u =>
                fget u F.BRG_STATUS_UP = 1 ∧ fget u F.BRG_STATUS_HOLD = 0 ∧ fget u F.BRG_STATUS_TRAINING = 0
                ∧ fget u F.MOD_STATUS_BRIDGE_UP = 1 ∧ fget u F.BRG_EPOCH_TEPOCH = t.tepoch ∧ fget u F.BRG_STATUS_WIDTH = 16 * w
                ∧ u.brg.train = none ∧ brec u .up = some { tepoch := t.tepoch, width := 16 * w, map := map }
              else s.brg.refused < 2 → Acts (.brgTrainEcho m) s fun u => u.brg.refused = s.brg.refused + 1
                ∧ u.brg.train = some { cause := t.cause, tepoch := (s.brg.lastEp + 1) % 2 ^ 32 })
          ∧ if mine 5 then refuses (.brgTrainRefuse m) t [] else exec (.brgTrainRefuse m) s = .next s)
        ∧ refuses .brgEchoTimeout t [.sideband .up (trainMsg 5 0 t.tepoch 0 0)])
    ∧ (∀ m, if trainOk m 3 = false then Acts (.brgTrainAgree m) s fun u => u = s
      else Acts (.brgTrainAgree m) s fun u => u.regs = s.regs
        ∧ brec u .down = some { tepoch := tmBits m 32 32, width := 16 * tmBits m 8 3, map := tmBits m 128 68 }
        ∧ u.outbox = s.outbox ++ [.sideband .down (trainMsg 4 (tmBits m 8 3) (tmBits m 32 32) (brx s .down).exp (tmBits m 128 68))])
    ∧ if s.brg.train.isSome = true then Acts .brgRetrain s fun u => u = s
      else Acts .brgRetrain s fun u => fget u F.BRG_STATUS_TRAINING = 1 ∧ fget u F.BRG_STATUS_HOLD = 1 ∧ fget u F.BRG_STATUS_UP = 0
        ∧ u.brg.train = some { cause := 1, tepoch := (s.brg.lastEp + 1) % 2 ^ 32 }

/-- R402, R432, R433, R435, R449: partial resets and the loss of the clock. A half that is not in partial reset enters it, or
waits for the other half or for the end of the district change; a half that causes one by itself while the other is in partial
reset is a device fault. A half comes back once the bridge is up; one that is late is a device fault, and so is a lost clock.
The model's choices it rests on: log entries 5, 87, 160. -/
def Obligations.ResetsAndClock : Prop :=
  ∀ s,
    (∀ (g : Half) (b : BitVec 6) c h why, (c, h, why) ∈ [(Instr.brgPresetUp, Half.up, 1), (.brgPresetDown, .down, 1), (.watchdogExpiry g, g, 3),
        (.blockLinkStall b, blkHalf b.toNat, 4), (.fwStoreUncorr g, g, 5)] →
      (inPreset s h = true → Acts c s fun u => u = s)
      ∧ (inPreset s h = false → inPreset s h.other = true →
        (3 ≤ why → Acts c s fun u => u = deviceFault s) ∧ (why < 3 → Acts c s fun u => (h, why) ∈ u.brg.waiting ∧ u.regs = s.regs))
      ∧ (inPreset s h = false → inPreset s h.other = false →
        (why < 3 → fget s F.ILK_STATUS_CHANGE = 1 → Acts c s fun u => (∃ x ∈ u.brg.held, x.1 = h) ∧ u.regs = s.regs)
        ∧ (3 ≤ why ∨ fget s F.ILK_STATUS_CHANGE ≠ 1 → Acts c s fun u => fget u (presetFld h) = 1 ∧ fget u (readyFld h) = 0
          ∧ fget u F.BRG_STATUS_HOLD = 1 ∧ fget u F.BRG_STATUS_UP = 0 ∧ brec u h = none)))
    ∧ (Yields .brgCntClr s fun t => fget t F.BRG_FLITS_UD_COUNT = 0 ∧ fget t F.BRG_FLITS_DU_COUNT = 0
        ∧ { t with regs := [] } = { s with regs := [] }
        ∧ ∀ f i, f.key i ≠ F.BRG_FLITS_UD_COUNT.key 0 → f.key i ≠ F.BRG_FLITS_DU_COUNT.key 0 → fget t f i = fget s f i)
    ∧ (∀ h, if inPreset s h = true ∧ fget s F.BRG_STATUS_UP = 1 ∧ s.brg.clkLost = false then
        Acts (.presetReturn h) s fun u => ∃ v, fget v (presetFld h) = 0 ∧ fget v (readyFld h) = 1 ∧ v.brg.waiting = s.brg.waiting
          ∧ u = (match s.brg.waiting with
            | [] => v
            | w :: ws => presetRequest { v with brg := { v.brg with waiting := ws } } w.1 w.2)
       else Acts (.presetReturn h) s fun u => u = s)
    ∧ (∀ h, if inPreset s h = false then Acts (.presetHoldExpiry h) s fun u => u = s
       else Acts (.presetHoldExpiry h) s fun u => ∀ p ∈ halfPorts h, fget u F.FAB_PORT_STATUS_LINK p ≠ 1)
    ∧ (Acts .clockLoss s fun u => ∃ v, u = deviceFault v ∧ fget v F.MOD_STATUS_CLK_LOSS = 1 ∧ fget v F.BRG_STATUS_HOLD = 1
        ∧ ∀ p ∈ halfPorts .down, fget v F.PORT_STATUS_UP p = 0)
    ∧ Acts .crystalLoss s fun u => ∃ v, u = lysDown (deviceFault v) 5 ∧ v.brg.crystal = true ∧ fget v F.BRG_STATUS_HOLD = 1
        ∧ ∀ p < 32, fget v F.PORT_STATUS_UP p = 0

/-! ## Power and heat -/

/-- R436 to R440, R443 to R447: the halves' power messages, grants and control, the blocks' voltage, and the thermal model.
The model's choices it rests on: log entries 88, 90, 92, 94. -/
def Obligations.PowerAndHeat : Prop :=
  ∀ (h : Half) s, let n := h.num; let x := pwrGet s h; let t := fget s F.PWR_STATUS_TARGET n
    let wide := 2 ^ F.PWR_STATUS_TARGET.width
    (∀ meas pkg input : BitVec 16, ∀ below, Acts (.powerMessageTimer h meas pkg input below) s fun u =>
      (∃ m, (pwrGet u h).own = some m ∧ m.budget = budget u ∧ m.demand = min (budget u) (if below then meas.toNat * 5 / 4 else meas.toNat)
        ∧ m.period = now s h / 100000 % 2 ^ 32)
      ∧ fget u F.PWR_DEVICE_PKG = pkg.toNat ∧ fget u F.PWR_DEVICE_INPUT = input.toNat
      ∧ (inPreset s .up = false → inPreset s .down = false → fget s F.MODE_CFG_POWER < 3 → fget u F.MODE_STATE_POWER = fget s F.MODE_CFG_POWER))
    ∧ (match x.own with
      | none => Acts (.grantEffect h) s fun u => u = s
      | some o => match x.peer.bind (fun p => if p.period = o.period then some p else none) with
        | some p => Acts (.grantEffect h) s fun u => fget u F.PWR_STATUS_FALLBACK n = 0
          ∧ (let b := min o.budget p.budget
            (pwrGet u h).grant = match h with | .up => (grants o.demand p.demand b).1 | .down => (grants p.demand o.demand b).2)
        | none => Acts (.grantEffect h) s fun u => fget u F.PWR_STATUS_FALLBACK n = 1 ∧ (pwrGet u h).grant = o.budget / 2
          ∧ fget u F.PWR_EXCH_MISSED n = min (fget s F.PWR_EXCH_MISSED n + 1) (2 ^ F.PWR_EXCH_MISSED.width - 1))
    ∧ (∀ mean : BitVec 16, if fget s F.PWR_STATUS_FAST n = 1 then Acts (.slowControlTick h mean) s fun u => u = s
      else Acts (.slowControlTick h mean) s fun u => SameRegs s u (only F.PWR_STATUS_TARGET n) ∧
        (x.grant < mean.toNat → fget u F.PWR_STATUS_TARGET n = (if t ≤ 80 then t else max 80 (t - 5)) % wide)
        ∧ (mean.toNat ≤ x.grant → mean.toNat * 100 < 95 * x.grant →
          fget u F.PWR_STATUS_TARGET n = (if fget s F.PWR_CFG_RATE ≤ t then t else min (fget s F.PWR_CFG_RATE) (t + 5)) % wide)
        ∧ (mean.toNat ≤ x.grant → 95 * x.grant ≤ mean.toNat * 100 → u = s))
    ∧ (if fget s F.PWR_STATUS_FAST n = 1 then Acts (.fastTrip h) s fun u => u = s
      else Acts (.fastTrip h) s fun u => fget u F.PWR_STATUS_FAST n = 1 ∧ fget u F.PWR_STATUS_TARGET n = t * 3 / 4 % wide
        ∧ fget u F.PWR_EXCH_TRIPS n = min (fget s F.PWR_EXCH_TRIPS n + 1) (2 ^ F.PWR_EXCH_TRIPS.width - 1))
    ∧ (Acts (.fastTripEnd h) s fun u => fget u F.PWR_STATUS_FAST n = 0 ∧ SameRegs s u (only F.PWR_STATUS_FAST n)
        ∧ { u with regs := [] } = { s with regs := [] })
    ∧ (∀ (b : BitVec 6) (waves : BitVec 12) slack, let y := blkGet s b.toNat; let want := 10 * blkTarget s b.toNat
      Acts (.adaptiveLoopTick b waves slack) s fun u =>
        (blkGet u b.toNat).volt = max 5500 (if waves.toNat < want then min 9000 (y.volt + 25) else if want < waves.toNat then y.volt - 25 else y.volt)
        ∧ fget u F.THM_BLK_VOLT b.toNat = (blkGet u b.toNat).volt / 10 % 2 ^ F.THM_BLK_VOLT.width
        ∧ fget u F.THM_BLK_RATE b.toNat = min 255 (waves.toNat / 10))
    ∧ (∀ fast tin tout (power : List (BitVec 6 × BitVec 16)), (power.map (·.1)).Nodup →
      let dt : Rat := if fast then 1 / 1000000 else 1 / 100000
      let due := fun k : Nat => k < 34 ∧ (if k < 32 then fbit s F.THM_BLK_FASTUPD (32 * n + k) else nearEdge (elGet s (34 * n + k)).est) = fast
      let step := fun (k w : Nat) => elStep s (34 * n + k) (elGet s (34 * n + k)) ((w : Rat) / 10) ((tin.toNat : Rat) / 10) dt
      let est := fun (k w : Nat) => (step k w).tj + (step k w).off + (if fget s F.THM_CAL_GUARD n = 1 then 5 else 0)
      (∀ p ∈ power, due p.1.toNat → est p.1.toNat p.2.toNat < 110) →
      Acts (.thermalModelUpdate h fast tin tout power) s fun u =>
        fget u F.THM_COOLANT_INLET n = tin.toNat ∧ fget u F.THM_COOLANT_OUTLET n = tout.toNat
        ∧ ∀ p ∈ power, due p.1.toNat → let e := 34 * n + p.1.toNat
          (elGet u e).tj = (step p.1.toNat p.2.toNat).tj ∧ (elGet u e).ts = (step p.1.toNat p.2.toNat).ts
          ∧ (elGet u e).est = est p.1.toNat p.2.toNat ∧ fget u (elTemp e).1 (elTemp e).2 = deci (est p.1.toNat p.2.toNat))
    ∧ (∀ b : BitVec 6, let y := blkGet s b.toNat; let l := blkTarget s b.toNat
      if fget s F.THM_BLK_BAND b.toNat = 4 then Acts (.t4ThrottleStep b) s fun u =>
        (blkGet u b.toNat).limit = some (if l ≤ 80 then l else max 80 (l - 5)) ∧ fget u F.PWR_STATUS_THROTTLE (b.toNat / 32) = 1
      else match y.limit with
        | none => Acts (.t4ThrottleStep b) s fun u => u = s
        | some l => Acts (.t4ThrottleStep b) s fun u =>
          (blkGet u b.toNat).limit = if fget s F.PWR_CFG_RATE ≤ l + 5 then none else some (l + 5))
    ∧ ∀ (offs : List (BitVec 6 × BitVec 16)) diode, (offs.map (·.1)).Nodup →
      if 1100 ≤ diode.toNat then Acts (.calibration h offs diode) s fun u => u = thermalShutdown s h
      else if mget s.pwr.calAt n 0 ≠ 0 ∧ now s h + 1 < mget s.pwr.calAt n 0 + 10 * secNs then Acts (.calibration h offs diode) s fun u => u = s
      else Acts (.calibration h offs diode) s fun u =>
        (∀ o ∈ offs, o.1.toNat < 34 → (elGet u (34 * n + o.1.toNat)).off = (o.2.toInt : Rat) / 10)
        ∧ fget u F.THM_CAL_COUNT n = min (fget s F.THM_CAL_COUNT n + 1) (2 ^ F.THM_CAL_COUNT.width - 1)

/-! ## The module -/

/-- R453, R454, R457 to R459, R463, R466, R467, R470, R491, R492: the module controller. Standby power resets all but the flash and
the time counters; the switch closes on the conditions of R458 and opens on a broken contact, a trip or POWER_OFF, and with it the
core loses its power; a request that does not apply changes no register; a drain begins in Drain and goes on once the slots are
free or the wait is over.
The model's choices it rests on: log entries 95, 96, 99, 100. -/
def Obligations.ModuleAndDrain : Prop :=
  ∀ s, let off := fun t : State => fget t F.MOD_MSTATUS_PGOOD = 0 ∧ devState t = dsCold
    (Yields .standbyPowerUp s fun t => devState t = dsCold ∧ t.tiles = [] ∧ t.mmc = {} ∧ t.flash = s.flash ∧ t.timeUp = s.timeUp
      ∧ t.outbox = s.outbox ∧ ∀ f i, f.key i ≠ F.MODE_STATE_STATE.key 0 → f.key i ≠ F.MOD_MSTATUS_IND.key 0 → fget t f i = f.reset i)
    ∧ (∀ (slot : BitVec 7) auto (vin : BitVec 10) (flow : BitVec 12), let even := popcount slot.toNat 7 % 2 = 0
      Yields (.presenceDebounced slot auto vin flow) s fun t =>
        fget t F.MOD_MSTATUS_PRESENT = 1 ∧ fget t F.MOD_MSTATUS_SLOT = slot.toNat % 64 ∧ fget t F.MOD_INPUT_VIN = vin.toNat
        ∧ fget t F.MOD_COOLANT_FLOW = flow.toNat ∧ fget t F.MOD_MSTATUS_SLOT_OK = (if even then 1 else 0)
        ∧ fget t F.MOD_MSTATUS_HS_ON = (if even ∧ 400 ≤ vin.toNat ∧ vin.toNat ≤ 600 ∧ 120 ≤ flow.toNat ∧ auto = true
            ∧ (fget s F.MOD_MSTATUS_PRESENT = 1 → fget s F.MOD_MSTATUS_HS_FAULT = 0) then 1 else fget s F.MOD_MSTATUS_HS_ON))
    ∧ (∀ b, Yields (.presenceContactBreak b) s fun t => fget t F.MOD_MSTATUS_PRESENT = 0 ∧ fget t F.MOD_MSTATUS_HS_ON ≠ 1
        ∧ (fget s F.MOD_MSTATUS_HS_ON = 1 → off t ∧ t.tiles = []) ∧ (fget s F.MOD_MSTATUS_HS_ON ≠ 1 → t.tiles = s.tiles))
    ∧ (∀ cause, if fget s F.MOD_MSTATUS_HS_ON ≠ 1 then exec (.hotSwapFault cause) s = .next s
      else Yields (.hotSwapFault cause) s fun t => off t ∧ fget t F.MOD_MSTATUS_HS_ON = 0 ∧ fget t F.MOD_MSTATUS_HS_FAULT = cause.val + 1)
    ∧ (Yields .modPowerOn s fun t => if mayClose s = true then fget t F.MOD_MSTATUS_HS_ON = 1 ∧ fget t F.MOD_MSTATUS_HS_FAULT = 0
        else t.regs = s.regs ∧ t.tiles = s.tiles)
    ∧ (Yields .modPowerOff s fun t =>
        if s.drain.isSome = true ∨ (fget s F.MOD_MSTATUS_DRAINED ≠ 1 ∧ devState s ≠ dsCold ∧ devState s ≠ dsStart) then
          t.regs = s.regs ∧ t.tiles = s.tiles
        else if fget s F.MOD_MSTATUS_HS_ON ≠ 1 then t = s else off t ∧ fget t F.MOD_MSTATUS_HS_ON = 0)
    ∧ (Yields .modReset s fun t => if s.drain.isSome = true ∨ fget s F.MOD_MSTATUS_HS_ON ≠ 1 ∨ cool s = false then
          t.regs = s.regs ∧ t.tiles = s.tiles
        else fget t F.MOD_MSTATUS_PGOOD = 0 ∧ t.mmc.resetting = true ∧ t.tiles = []
          ∧ devState t = if devState s = dsCold then dsCold else dsStart)
    ∧ (Yields .resetRailsOn s fun t => t.mmc.resetting = false ∧ { t with mmc := s.mmc } = s)
    ∧ (∀ on, Yields (.modLocate on) s fun t => fget t F.MOD_CTL_LOCATE = (if on then 1 else 0) ∧ (on = true → fget t F.MOD_MSTATUS_IND = 5)
        ∧ { t with regs := [] } = { s with regs := [] })
    ∧ (∀ hot low, Yields (.coolantWarning hot low) s fun t => fget t F.MOD_COOLANT_HOT_INLET = (if hot then 1 else fget s F.MOD_COOLANT_HOT_INLET)
        ∧ fget t F.MOD_COOLANT_LOW_FLOW = (if low then 1 else fget s F.MOD_COOLANT_LOW_FLOW))
    ∧ (∀ flow : BitVec 12, Yields (.coolantFlowFault flow) s fun t =>
        if 90 ≤ flow.toNat ∨ fget s F.MOD_MSTATUS_HS_ON ≠ 1 then fget t F.MOD_COOLANT_FLOW = flow.toNat ∧ SameRegs s t (only F.MOD_COOLANT_FLOW 0)
        else off t ∧ t.mmc.flowCut = true)
    ∧ (Yields .flowFaultSwitchOpen s fun t => if s.mmc.flowCut = true then fget t F.MOD_MSTATUS_HS_ON ≠ 1 ∧ t.mmc = {} else t = s)
    ∧ (∀ i3c, ∀ c ∈ [Instr.modDrain i3c, .removalButton], Acts c s fun u =>
        if s.drain.isSome = true ∨ fget s F.MOD_MSTATUS_DRAINED = 1 ∨ devState s = dsCold then u = s
        else devState u = dsDrain ∧ ∃ d, u.drain = some d
          ∧ d.at_ = if devState s = dsStart ∨ devState s = dsFenced then .finish else .release)
    ∧ match s.drain with
      | none => Acts .drainRelease s (fun u => u = s) ∧ Acts .drainWaitExpiry s fun u => u = s
      | some d => (Acts .drainRelease s fun u => u = if d.at_ = .release ∧ ∀ k ∈ List.range 64, fget s F.WIN_JOB_BOUND k ≠ 1
          then { s with drain := some { d with at_ := .recall } } else s)
        ∧ Acts .drainWaitExpiry s fun u => if d.at_ = .release then u.drain = some { d with at_ := .recall } ∧ u.regs = s.regs else u = s

/-! ## Start, security, logs and modes -/

/-- R410, R502 to R505, R534: the start. It begins only with the switch closed; a missing flash, counter or PUF stops it, and with
no bank that verifies recovery begins, where chunks are programmed into bank A; else it ends with the bridge training, or stops.
The self-test ends in READY, and discovery in forming.
The model's choices it rests on: log entries 2, 131, 132. -/
def Obligations.StartOfModule : Prop :=
  ∀ s,
    (∀ b : BootIn, if fget s F.MOD_MSTATUS_PGOOD = 1 ∨ fget s F.MOD_MSTATUS_HS_ON ≠ 1 ∨ s.mmc.resetting = true ∨ s.mmc.cut = true then
        exec (.powerGood b) s = .next s
      else
        (Yields (.powerGood b) s fun t => fget t F.MOD_MSTATUS_PGOOD = 1 ∧ devState t = if devState s = dsCold then dsStart else devState s)
        ∧ (∀ k, (if b.noFlash then some 1 else if b.noCtr then some 2 else if b.noPuf then some 3 else none) = some k →
          Yields (.powerGood b) s fun t => fget t F.SEC_BOOT_STAGE = 7 ∧ fget t F.SEC_BOOT_FAIL = k ∧ t.dep = s.dep)
        ∧ (b.noFlash = false → b.noCtr = false → b.noPuf = false → s.flash.pend = none →
          ((∀ k is, flashBank s k ≠ .ok is) → Yields (.powerGood b) s fun t => fget t F.SEC_BOOT_STAGE = 6 ∧ fget t F.SEC_BOOT_FAIL = 4)
          ∧ ∀ is, flashBank s s.flash.active = .ok is → Yields (.powerGood b) s fun t =>
            (fget t F.SEC_BOOT_STAGE = 7 ∧ fget t F.SEC_BOOT_FAIL ∈ [5, 6, 8])
            ∨ (fget t F.SEC_BOOT_STAGE = 4 ∧ t.dep.mem = [] ∧ t.logw.ringOpen = true ∧ t.brg.train.isSome = true
              ∧ fget t F.BRG_STATUS_TRAINING = 1 ∧ fget t F.CUE_STATUS_READY = 1 ∧ t.sec.runs = is)))
    ∧ (∀ failed, if fget s F.SEC_BOOT_STAGE = 4 ∧ fget s F.BRG_STATUS_UP = 1 ∧ fget s F.LYS_STATUS_FEAT_DONE = 1
          ∧ fget s F.MOD_STATUS_DEV_FAULT ≠ 1 then
        Yields (.selfTestComplete failed) s fun t => fget t F.SEC_BOOT_STAGE = 5 ∧ fget t F.MOD_STATUS_UP_READY = 1
          ∧ fget t F.MOD_STATUS_DOWN_READY = 1 ∧ t.ilk.selfchk = true
      else exec (.selfTestComplete failed) s = .next s)
    ∧ (Acts .switchDiscoveryDone s fun u => if devState s = dsStart ∧ fget s F.SEC_BOOT_STAGE = 5 ∧ fget s F.ILK_STATUS_FORMED ≠ 1 then
          u.ilk.forming = true ∧ (fget s F.ILK_DISTRICT_NEXP ≤ (heard s).length ∨ u = { s with ilk := { s.ilk with forming := true } })
        else u = s)
    ∧ ∀ (chunk : BitVec 8) last (b : BootIn), if fget s F.SEC_BOOT_STAGE ≠ 6 then exec (.recoveryChunkGo chunk last b) s = .next s
      else if 192 ≤ chunk.toNat ∨ lysOn s 4 = false then Yields (.recoveryChunkGo chunk last b) s fun t => t.regs = s.regs ∧ t.flash = s.flash
      else Yields (.recoveryChunkGo chunk last b) s fun t => fget t F.SEC_RCV_CTL_CHUNK = chunk.toNat ∧ t.flash.bankB = s.flash.bankB
        ∧ (last = false ∨ (∀ is, flashBank t 0 ≠ .ok is) → fget t F.SEC_BOOT_STAGE = 6)
        ∧ ∀ a, mget t.flash.bankA a 0 = if 0x10000 * chunk.toNat ≤ a ∧ a < 0x10000 * (chunk.toNat + 1)
            then mget s.sec.rcv (a - 0x10000 * chunk.toNat) 0 else mget s.flash.bankA a 0

/-- R508, R510 to R513, R526, R527, R530: the security core's operations. One that finds another in progress changes no register;
one that does not apply, or whose object does not verify, ends with its result code; a bank that verifies is written and becomes
pending, a live load goes core by core, waiting for a half in partial reset and stopping at a device fault, an enrolled key is
stored, and a report is written with its nonce.
The model's choices it rests on: log entries 127, 128, 129, 151. -/
def Obligations.SecurityOperations : Prop :=
  ∀ s, let busy := fget s F.SEC_UPD_STATUS_BUSY = 1
    let result := fun (op r : Nat) (t : State) =>
      fget t F.SEC_UPD_STATUS_OP = op ∧ fget t F.SEC_UPD_STATUS_RESULT = r ∧ fget t F.SEC_UPD_STATUS_BUSY = fget s F.SEC_UPD_STATUS_BUSY
        ∧ t.flash = s.flash
    let ends := fun (c : Instr) (op r : Nat) => Acts c s (result op r)
    let begins := fun (c : Instr) (op : Nat) (q : State → Prop) => Acts c s fun t =>
      fget t F.SEC_UPD_STATUS_OP = op ∧ fget t F.SEC_UPD_STATUS_RESULT = 0 ∧ q t
    let quiet := fun t : State => t.regs = s.regs ∧ t.flash = s.flash
    (busy → (∀ c ∈ [Instr.secWriteBank, .secWriteConfig, .secEnrol], Acts c s quiet) ∧ Yields .secLiveLoad s quiet)
    ∧ (¬ busy → lysOn s 5 = false → ends .secWriteBank 1 5 ∧ Yields .secLiveLoad s (result 4 5))
    ∧ (¬ busy → lysOn s 5 = true → fget s F.SEC_BOOT_STAGE ≠ 5 → ends .secWriteBank 1 6)
    ∧ (¬ busy → fget s F.SEC_BOOT_STAGE ≠ 5 → ends .secWriteConfig 2 6)
    ∧ (¬ busy → (lysOn s 5 = true → fget s F.SEC_BOOT_STAGE = 5 →
          match (stageRead s).2 with
          | none => ends .secWriteBank 1 1
          | some rd => match verifyBank rd (stageLen s) s.flash.ctr0 with
            | .error r => ends .secWriteBank 1 r
            | .ok _ => begins .secWriteBank 1 fun t => fget t F.SEC_UPD_STATUS_BUSY = 1 ∧ t.flash.active = s.flash.active
              ∧ t.sec.write = some (otherBank s, flashMem rd (stageLen s)))
      ∧ (fget s F.SEC_BOOT_STAGE = 5 → match (stageRead s).2 with
          | none => ends .secWriteConfig 2 1
          | some rd => match cfgImage s rd (min cfgSize (stageLen s)) with
            | .error r => ends .secWriteConfig 2 (if r = 3 then 1 else r)
            | .ok x => begins .secWriteConfig 2 fun t => (if fget s F.SEC_BOOT_CFG_SLOT = 1 then t.flash.cfg0 else t.flash.cfg1)
              = flashMem rd (256 + x.2.length))
      ∧ (match (stageRead s).2 with
          | none => ends .secEnrol 3 1
          | some rd => let r := bytesFrom rd 0 200
            match enrolBad s r with
            | some c => ends .secEnrol 3 (if c = 4 then 6 else 1)
            | none => begins .secEnrol 3 fun t =>
              mget t.sec.keys (leAt r 5 1) 0 = if leAt r 4 1 = 1 then ofLe ((r.drop 40).take 64) else 0))
    ∧ (¬ busy → lysOn s 5 = true →
        if devState s ≠ dsService then Yields .secLiveLoad s (result 4 3)
        else match s.flash.pend with
          | none => Yields .secLiveLoad s (result 4 6)
          | some b => match flashBank s b with
            | .error r => Yields .secLiveLoad s (result 4 r)
            | .ok is => if is.all (fun i => match s.sec.runs.find? (fun r => r.typ == i.typ) with
                | some r => decide (i.handMin ≤ r.hand)
                | none => false) then
                Yields .secLiveLoad s fun t => fget t F.SEC_UPD_STATUS_OP = 4 ∧ fget t F.SEC_UPD_STATUS_RESULT = 0
                  ∧ fget t F.SEC_UPD_STATUS_BUSY = 1 ∧ fget t F.SEC_UPD_STATUS_PROGRESS = 0 ∧ t.sec.load = some is
              else Yields .secLiveLoad s (result 4 3))
    ∧ (∀ ok, match s.sec.write with
        | none => exec (.secUpdateDone ok) s = .next s
        | some (b, m) => Yields (.secUpdateDone ok) s fun t => fget t F.SEC_UPD_STATUS_BUSY = 0 ∧ t.sec.write = none
          ∧ (ok = true → ∀ is, flashBank (setBank s b m) b = .ok is → t.flash.pend = some b ∧ t.flash.tries = 0)
          ∧ (ok = false ∨ (∀ is, flashBank (setBank s b m) b ≠ .ok is) → fget t F.SEC_UPD_STATUS_RESULT = 4 ∧ t.flash.pend = s.flash.pend))
    ∧ (∀ ok, let n := fget s F.SEC_UPD_STATUS_PROGRESS
        match s.sec.load with
        | none => exec (.liveLoadCoreDone ok) s = .next s
        | some is => match is.find? (fun i => i.typ == coreType n) with
          | none => exec (.liveLoadCoreDone ok) s = .next s
          | some i => if inPreset s (coreHalf n) = true ∨ fget s F.MOD_STATUS_DEV_FAULT = 1 then exec (.liveLoadCoreDone ok) s = .next s
            else if ok = false then Yields (.liveLoadCoreDone ok) s fun t => fget t F.SEC_UPD_STATUS_BUSY = 0
              ∧ fget t F.SEC_UPD_STATUS_RESULT = 4 ∧ t.sec.load = none
            else Yields (.liveLoadCoreDone ok) s fun t => t.sec.cores = s.sec.cores.map (fun c => if c.1 = n then (n, i) else c)
              ∧ fget t F.SEC_UPD_STATUS_PROGRESS = (n + 1) % 128
              ∧ if n + 1 < 85 then t.sec.load = s.sec.load else fget t F.SEC_UPD_STATUS_BUSY = 0 ∧ t.sec.load = none ∧ t.flash.pend = none)
    ∧ (let a := fget s F.SEC_ATT_ADDR * 64
      (Acts .secAttest s fun t => if fget s F.SEC_ATT_BUSY = 1 ∨ depotSize < a + 392 then t.regs = s.regs
        else fget t F.SEC_ATT_BUSY = 1 ∧ (∀ l, (unitRead s (a / 64)).2 = some l → t.sec.nonce = lb l 0 256)
          ∧ (AtHome s a → t.sec.nonce = depRead s a 32))
      ∧ Acts .attestDone s fun t => if fget s F.SEC_ATT_BUSY ≠ 1 then t = s
        else fget t F.SEC_ATT_BUSY = 0 ∧ ((∀ i < 7, AtHome s (a + 64 * i)) →
          depRead t a 328 = ofLe (attBody s) % 2 ^ (8 * 328) ∧ DepotOutside s t a 392))

/-- R516 to R518, R521, R523, R535, R541, R544, R545: the log writer, the logbook and the mode requests. The writer stores through
the record's home slice: where the cache holds the line and nothing holds the operation up, the record stands there at once, and no
other byte of the depot changes.
The model's choices it rests on: log entries 111, 112, 116, 118, 151. -/
def Obligations.LogsAndModes : Prop :=
  ∀ s,
    (∀ ok, match s.logw.book.find? (bookMay s) with
      | none => exec (.logbookAppend ok) s = .next s
      | some r => if fget s F.LOG_BOOK_STATE = 0 then exec (.logbookAppend ok) s = .next s
        else if ok = false then Yields (.logbookAppend ok) s fun t => fget t F.LOG_BOOK_STATE = 3 ∧ t.flash = s.flash
        else Yields (.logbookAppend ok) s fun t => fget t F.LOG_BOOK_STATE = 1 ∧ t.logw.book = s.logw.book.erase r
          ∧ (r.typ ≠ 1 → r.typ ≠ 2 → ∃ e ∈ t.flash.book, e.typ = r.typ ∧ e.item = r.item ∧ e.args = r.args))
    ∧ (Yields .classBWriteTimer s fun t => t = { s with sec := { s.sec with bRelease := true } })
    ∧ (∀ r q, s.logw.ringOpen = true → s.logw.queue = .log r :: q → let idx := fget s F.LOG_RING_HEAD_INDEX
        let a := fget s F.LOG_RING_BASE_ADDR * 0x400000 + 32 * (idx % ringRecs)
        (Acts .cuePointWrite s fun t => t = s)
        ∧ Acts .logRecordWrite s fun t => fget t F.LOG_RING_HEAD_INDEX = seqNext idx
          ∧ (AtHome s a → depRead t a 32 = logBits r idx % 2 ^ 256 ∧ DepotOutside s t a 32))
    ∧ (∀ c q, s.logw.ringOpen = true → s.logw.queue = .cue c :: q → let idx := fget s F.LOG_TRACE_HEAD_INDEX
        let cap := fget s F.LOG_TRACE_BASE_SIZE * 0x400000 / 32
        let a := fget s F.LOG_TRACE_BASE_ADDR * 0x400000 + 32 * (idx % cap)
        (Acts .logRecordWrite s fun t => t = s)
        ∧ Acts .cuePointWrite s fun t =>
          if cap < (seqNext idx + 2 ^ 32 - fget s F.LOG_TRACE_READ_INDEX) % 2 ^ 32 then t.logw.queue = q ∧ t.dep = s.dep
            ∧ fget t F.LOG_STATUS_TRACE_DROP = min (fget s F.LOG_STATUS_TRACE_DROP + 1) (2 ^ F.LOG_STATUS_TRACE_DROP.width - 1)
          else fget t F.LOG_TRACE_HEAD_INDEX = seqNext idx
            ∧ (AtHome s a → t.logw.queue = q ∧ depRead t a 32 = cueBits c idx % 2 ^ 256 ∧ DepotOutside s t a 32))
    ∧ (s.logw.ringOpen = false ∨ s.logw.queue = [] → ∀ c ∈ [Instr.logRecordWrite, .cuePointWrite], Acts c s fun t => t = s)
    ∧ (∀ target : BitVec 3, Yields (.modeCtlGo target) s fun t =>
        if target.toNat ≠ dsSingle ∧ target.toNat ≠ dsService then t.regs = s.regs
        else fget t F.MODE_CTL_TARGET = target.toNat ∧ devState t = devState s
          ∧ (devState s ≠ target.toNat → fget t F.MODE_STATE_REQ_PEND = 1))
    ∧ (∀ (power : BitVec 2) trace, Yields (.modeCfgWrite power trace) s fun t =>
        if 2 < power.toNat ∨ (trace = true ∧ traceBad s = true) then t.regs = s.regs
        else fget t F.MODE_CFG_POWER = power.toNat
          ∧ ((fget t F.MODE_CFG_TRACE = 1) = (trace = true)) ∧ fget t F.MODE_STATE_POWER = fget s F.MODE_STATE_POWER)
    ∧ (let target := fget s F.MODE_CTL_TARGET
      let runs := devState s = dsSingle ∨ devState s = dsService
      let bare := target = dsService ∧ ∃ k ∈ List.range 64, fget s F.STM_CFG_ENABLE k = 1 ∧ fget s F.ILK_PTAB_VALID k ≠ 1
      Yields .modeRequestComplete s fun t => if fget s F.MODE_STATE_REQ_PEND ≠ 1 then t = s
        else fget t F.MODE_STATE_REQ_PEND = 0 ∧ ((¬ runs ∨ bare) → devState t = devState s)
          ∧ (runs → ¬ bare → target < 8 → devState t = target))

/-! ## The Lysdex link -/

/-- R475, R476, R478, R481, R486, R488, R490, R492, R503: the link. It comes up where LRST_N is high and the core has power, with no
features agreed; the companion's FEATURE, or its absence, agrees them; a flit whose CRC is wrong is answered by a NAK and one in
sequence advances the number; a replay without progress for the sixteenth time, LRST_N, RETRAIN and a recovery without
BOOT_RECOVERY take the link down.
The model's choices it rests on: log entries 104, 105, 109. -/
def Obligations.LysdexLink : Prop :=
  ∀ s, let up := fget s F.LYS_STATUS_UP = 1
    let sat := fun (f : Fld) => min (fget s f + 1) (2 ^ f.width - 1)
    (∀ low, Acts (.lrstN low) s fun u => u.lys.lrst = low ∧ (low = true → fget u F.LYS_STATUS_UP ≠ 1) ∧ (low = false → u.regs = s.regs))
    ∧ (∀ x16, if up ∨ s.lys.lrst = true ∨ fget s F.MOD_MSTATUS_PGOOD ≠ 1 then Acts (.lysLinkUp x16) s fun u => u = s
      else Acts (.lysLinkUp x16) s fun u => fget u F.LYS_STATUS_UP = 1 ∧ fget u F.LYS_STATUS_WIDTH = (if x16 then 16 else 8)
        ∧ fget u F.LYS_STATUS_FEAT_DONE = 0 ∧ fget u F.LYS_FEATURES_BITS = 0 ∧ fget u F.LYS_FEAT_PEER_BITS = 0
        ∧ fget u F.LYS_STATUS_TRAININGS = sat F.LYS_STATUS_TRAININGS ∧ u.lys.rxExp = 0 ∧ u.lys.peer = false)
    ∧ (if up ∧ fget s F.SEC_BOOT_STAGE = 6 ∧ fget s F.LYS_STATUS_FEAT_DONE = 1 ∧ lysOn s 4 = false then
        Acts .lysTrainRetry s fun u => fget u F.LYS_STATUS_UP = 0 ∧ u.lys.gen = s.lys.gen + 1
      else if up ∨ s.lys.lrst = true ∨ fget s F.MOD_MSTATUS_PGOOD ≠ 1 then Acts .lysTrainRetry s fun u => u = s
      else Acts .lysTrainRetry s fun u => fget u F.LYS_STATUS_TRAININGS = sat F.LYS_STATUS_TRAININGS ∧ u.lys = s.lys
        ∧ SameRegs s u (only F.LYS_STATUS_TRAININGS 0))
    ∧ (if ¬ up ∨ fget s F.LYS_STATUS_FEAT_DONE = 1 then Acts .lysFeatureTimeout s fun u => u = s
      else Acts .lysFeatureTimeout s fun u => fget u F.LYS_STATUS_FEAT_DONE = 1 ∧ fget u F.LYS_FEATURES_BITS = 0)
    ∧ (∀ hdr : BitVec 128, sb hdr 0 8 = 0x21 → up → lysReserved hdr = 0 → s.lys.peer = false → Acts (.lysFeature hdr) s fun u =>
        fget u F.LYS_FEAT_PEER_BITS = sb hdr 64 7 ∧ fget u F.LYS_STATUS_FEAT_DONE = 1 ∧ u.lys.peer = true
        ∧ fget u F.LYS_FEATURES_BITS = if fget s F.LYS_STATUS_FEAT_DONE = 1 then fget s F.LYS_FEATURES_BITS
            else Nat.land (fget s F.LYS_FEAT_DEV_BITS) (sb hdr 64 7) % 2 ^ F.LYS_FEATURES_BITS.width)
    ∧ (∀ flit fec, if ¬ up then Acts (.lysFlit flit fec) s fun u => u = s
      else
        (lysFlitOk flit = false → Acts (.lysFlit flit fec) s fun u => u.lys = s.lys
          ∧ u.outbox = s.outbox ++ [.lys (lysFlitOf [] 0 (lysAck s) true true)]
          ∧ fget u F.LYS_ERRORS_FEC_CORR = if fec then sat F.LYS_ERRORS_FEC_CORR else fget s F.LYS_ERRORS_FEC_CORR)
        ∧ (lysFlitOk flit = true → bitAt flit.toNat 1940 = false → Acts (.lysFlit flit fec) s fun u =>
          if bitAt flit.toNat 1941 = false ∧ bitsAt flit.toNat 1920 10 = s.lys.rxExp then
            u.lys.rxExp = (s.lys.rxExp + 1) % 1024 ∧ fget u F.LYS_RX_FLITS_COUNT = sat F.LYS_RX_FLITS_COUNT
          else u.lys.rxExp = s.lys.rxExp ∧ u.lys.inq = s.lys.inq ∧ fget u F.LYS_RX_FLITS_COUNT = fget s F.LYS_RX_FLITS_COUNT))
    ∧ (if s.lys.unacked = [] ∨ ¬ up then Acts .lysReplayTimeout s fun u => u = s
      else if s.lys.replays < 15 then Acts .lysReplayTimeout s fun u => u.lys.replays = s.lys.replays + 1
        ∧ fget u F.LYS_ERRORS_REPLAYS = sat F.LYS_ERRORS_REPLAYS
      else Acts .lysReplayTimeout s fun u => fget u F.LYS_STATUS_UP = 0)
    ∧ (∀ tag : BitVec 12, match recallBy s tag.toNat with
      | none => Acts (.recallTimeout tag) s fun u => u = s
      | some r => Acts (.recallTimeout tag) s fun u => ∃ v, u = closeRecall v { r with keep := false } ∧ r.line ∈ v.dep.closed
        ∧ v.dep.mem = s.dep.mem ∧ fget v F.LYS_STATUS_RTO = sat F.LYS_STATUS_RTO)
    ∧ (if ¬ up then Acts .lysCtlRetrain s fun u => u = s
      else Acts .lysCtlRetrain s fun u => fget u F.LYS_STATUS_UP = 0 ∧ fget u F.LYS_STATUS_WIDTH = 0 ∧ u.lys.gen = s.lys.gen + 1)
    ∧ Acts .lysCtlCntClr s fun u => fget u F.LYS_RECALLS_COUNT = 0 ∧ fget u F.LYS_TX_FLITS_COUNT = 0 ∧ fget u F.LYS_RX_FLITS_COUNT = 0
      ∧ { u with regs := [] } = { s with regs := [] }

/-- R479 to R483, R485 to R487: the companion's messages. With the link down none is taken. A request with a reserved bit, of a
feature that is not agreed, or before the companion's FEATURE is answered BAD_OP, one for another device without GLOBAL_ACCESS
UNREACHABLE, and any other is presented to its home; a returned line is written where it is listed as owned, and leaves the
directory; a recall answer ends its recall; credits are taken; management reads and writes are answered. Messages of classes 0 and 1
keep their order: while one waits for the bridge, those after it wait too, and the first goes on once the bridge carries it.
The model's choices it rests on: log entries 81, 105, 106, 107, 108, 110. -/
def Obligations.LysdexMessages : Prop :=
  ∀ (hdr : BitVec 128) p s, let mt := sb hdr 0 8; let tag := sb hdr 8 12; let job := sb hdr 20 12; let own := isOwn s (sb hdr 96 16) = true
    let v0 := lysTake s (hdr :: p)
    let far := lysFar v0 hdr = true
    let crosses := brgOpen v0 = true ∧ v0.brg.cross = []
    let v1 := if far then brgCount v0 .up (1 + p.length / 4) else v0
    let now := s.lys.late = [] ∧ (far → crosses)
    let waits := { v0 with lys := { v0.lys with late := v0.lys.late ++ [hdr :: p] } }
    let rows := [Instr.lysLoad hdr, .lysStore hdr p, .lysAtomic hdr p, .lysRead hdr, .lysWrite hdr p, .lysReadShared hdr, .lysReadOwn hdr,
      .lysEvict hdr, .lysWriteback hdr p, .lysRecallAck hdr p, .lysCredit hdr, .lysReservedMt hdr]
    (fget s F.LYS_STATUS_UP ≠ 1 → ∀ c ∈ rows ++ [.lysFeature hdr, .lysMgmtRd hdr, .lysMgmtWr hdr p], exec c s = .next s)
    ∧ (fget s F.LYS_STATUS_UP = 1 →
      (∀ c, (1 ≤ mt ∧ mt ≤ 7 ∧ (c = .lysStore hdr p ∨ c = .lysAtomic hdr p ∨ c = .lysWrite hdr p
            ∨ (p = [] ∧ c ∈ [Instr.lysLoad hdr, .lysRead hdr, .lysReadShared hdr, .lysReadOwn hdr]))) →
        Acts c s fun u =>
          if s.lys.late ≠ [] then u = waits
          else if lysReserved hdr ≠ 0 ∨ s.lys.peer = false ∨ (mt = 3 ∧ lysOn s 1 = false) ∨ (6 ≤ mt ∧ (lysOn s 0 = false ∨ ¬ own)) then
            u = lysResp v0 tag stBadOp none 0
          else if ¬ own ∧ lysOn s 2 = false then u = lysResp v0 tag stUnreachable none 0
          else ∃ v, u = submit v (lysReq hdr p (newMsg v0).2) (.lys (tag + 4096 * s.lys.gen) mt 0) ∧ v.dep = s.dep ∧ v.tiles = s.tiles)
      ∧ (∀ c, (mt = 8 ∧ c = .lysEvict hdr ∧ p = []) ∨ (mt = 9 ∧ c = .lysWriteback hdr p) →
        let r : Req := {
          op := if mt = 8 then 4 else 5, fn := 0, job := job, addr := sb hdr 48 64, operand := 0, compare := 0, msg := 0, pkt := 0,
          total := 1, data := if mt = 8 then [] else [slotsLine p 0] }
        (¬ now → Acts c s fun u => u = waits)
        ∧ (now → lysReserved hdr ≠ 0 ∨ s.lys.peer = false ∨ ¬ own → Acts c s fun u => u = lysResp v1 tag stBadOp none 0)
        ∧ (now → lysReserved hdr = 0 → s.lys.peer = true → own → match (translate v1 .up r (deviceId s)).2 with
          | .error st => Acts c s fun u => (∃ v, u = lysResp v tag st none 0 ∧ v.dep = s.dep)
          | .ok (_, d) =>
            (mt = 8 → Acts c s fun u => (∀ e ∈ u.dep.dir, e.line ≠ d / 64) ∧ u.dep.mem = s.dep.mem)
            ∧ (mt = 9 → if ((dirEntry s (d / 64)).map (·.owned)).getD false = true then Acts c s fun u =>
                depLine u (d / 64) = slotsLine p 0 ∧ (∀ e ∈ u.dep.dir, e.line ≠ d / 64) ∧ DepotOutside s u (64 * (d / 64)) 64
              else Acts c s fun u => (∃ v, u = lysResp v tag stPerm none 0) ∧ u.dep = s.dep)))
      ∧ (mt = 0x0A → ¬ now → Acts (.lysRecallAck hdr p) s fun u => u = waits)
      ∧ (∀ m rest, s.lys.late = (hdr :: m) :: rest → lysLate s =
          guardOpt (brgOpen s && s.brg.cross.isEmpty) (lysPresent { s with lys := { s.lys with late := rest } } hdr m))
      ∧ (mt = 0x0A → now → lysReserved hdr = 0 → match recallBy s tag with
        | none => Acts (.lysRecallAck hdr p) s fun u => u.dep = s.dep
        | some r => Acts (.lysRecallAck hdr p) s fun u => ∃ v, u = closeRecall v (if sb hdr 33 1 = 1 then { r with keep := false } else r)
          ∧ v.dep.recalls = s.dep.recalls ∧ v.dep.dir = s.dep.dir
          ∧ (sb hdr 32 2 = 1 → ((dirEntry s r.line).map (·.owned)).getD false = true → depLine v r.line = slotsLine p 0)
          ∧ (sb hdr 32 2 ≠ 1 → v.dep.mem = s.dep.mem))
      ∧ (mt = 0x20 → lysReserved hdr = 0 → Acts (.lysCredit hdr) s fun u => ∀ c < 3,
          mget u.lys.freed c 0 = healCount (mget s.lys.freed c 0) (sb hdr (8 + 32 * c) 32) (2 ^ 32))
      ∧ (mt ∉ [1, 2, 3, 4, 5, 6, 7, 8, 9, 0x0A, 0x20, 0x21] → p = [] → Acts (.lysReservedMt hdr) s fun u => u = lysResp v0 tag stBadOp none 0)
      ∧ (lysReserved hdr ≠ 0 → (p = [] → Acts (.lysMgmtRd hdr) s fun u => ∃ v, u = mgmtResp v tag 1 0 ∧ v.tiles = s.tiles)
          ∧ Acts (.lysMgmtWr hdr p) s fun u => ∃ v, u = mgmtResp v tag 1 0 ∧ v.tiles = s.tiles)
      ∧ (lysReserved hdr = 0 → let wide := sb hdr 46 1 == 1
        let n := if wide then 8 else 4
        let v2 := mgmtCross v0 (sb hdr 48 64)
        ∀ r i b, mgmtAt v2 (sb hdr 48 64) wide = .reg r i b →
          (p = [] → Acts (.lysMgmtRd hdr) s fun u => ∃ v, u = mgmtResp v tag 0 (bitsAt (regRead v2 r i) (8 * b) (8 * n)) ∧ v.dep = s.dep)
          ∧ (let m := merged v2 r i b n (sb (p.getD 0 0) 0 64)
            outOfRange v2 r i b n m = false → actingRegs.contains r = false → Acts (.lysMgmtWr hdr p) s fun u =>
              ∃ v, u = mgmtResp v tag 0 0 ∧ ∀ f ∈ r.fields, f.acc = .rw → fget v f i = bitsAt m f.lo f.width)))

/-! ## Cues and the stationmaster -/

/-- R233 to R238, R318: cues. A row whose slot holds no armed cue of its operation with its threshold reached changes nothing. One
that breaks a rule is in error; any other is counted, and does what its operation says: NOP is done at once, SHIFT and PERMUTE
begin to read, INC sends its records, READY goes for the open step once that step's gradient sends have completed and waits until
then, CLOSE begins its round, POINTS asks for the steer.
The model's choices it rests on: log entries 5, 54, 123, 143. -/
def Obligations.CuesFire : Prop :=
  ∀ (slot : BitVec 14) (s : State), (∀ r ∈ s.cue.runs, r.id ≠ s.cue.nextId) →
    (∀ c op, (c, op) ∈ [(Instr.cueNop slot, 0), (.cueShift slot, 1), (.cuePermute slot, 2), (.cueInc slot, 3), (.cueClose slot, 4),
        (.cueReady slot, 5), (.cuePoints slot, 6)] →
      match s.cue.armed.find? (fun a => a.slot == slot.toNat && lb a.line 0 4 == op && ctrReached s (lb a.line 16 12) (lb a.line 32 32)) with
      | none => Acts c s fun u => u = s
      | some a => let l := a.line; let k := lb l 8 6; let n := lb l 320 22 + 1
        let dead := lb l 122 1 = 1 ∧ collLive s (lb l 112 10) = false
        (∀ e, (if dead then some 6 else cueBad s l) = some e → Acts c s fun u =>
          fget u F.CUE_LAST_ERR_CAUSE = e ∧ fget u F.CUE_LAST_ERR_VALID = 1 ∧ fget u F.CUE_FIRED_COUNT = fget s F.CUE_FIRED_COUNT
          ∧ a ∉ u.cue.armed)
        ∧ (¬ dead → cueBad s l = none → Acts c s fun u => fget u F.CUE_FIRED_COUNT = min (fget s F.CUE_FIRED_COUNT + 1) (2 ^ 64 - 1)
          ∧ (op = 0 → lb l 96 15 = 0x7FFF →
            fget u F.CUE_CTR_VALUE (lb l 64 12) = (fget s F.CUE_CTR_VALUE (lb l 64 12) + 1) % 2 ^ 32 ∧ a ∉ u.cue.armed)
          ∧ (op = 1 → ∃ t ∈ u.cue.tasks, ∃ m, t.kind = .read m ∧ m.total = n ∧ m.sent = 0 ∧ m.src = lb l 128 64 ∧ m.dstA = lb l 192 64)
          ∧ (op = 2 → ∃ t ∈ u.cue.tasks, t.kind = .list n)
          ∧ (op = 3 → ∃ t ∈ u.cue.tasks, t.kind = .recs ∧ t.open_ = (n + 254) / 255)
          ∧ (op = 4 → lb l 96 15 = 0x7FFF → (collGet s (lb l 112 10)).isSome = true → fget u F.CUE_COLL_STATE (lb l 112 10) = 2)
          ∧ (op = 5 → let st := fget s F.STM_STEP_STEP k
            (gradsDone s k st = true → s.drain = none → s.brg.noReady = [] → (stmGet u k).sentReady = some (st, n))
            ∧ (gradsDone s k st = false → lb l 96 15 = 0x7FFF →
              (stmGet u k).readyQ = (stmGet s k).readyQ ++ [(s.cue.nextId, st, n)] ∧ (stmGet u k).sentReady = (stmGet s k).sentReady))
          ∧ (op = 6 → ∃ i, (i, lb l 128 16) ∈ u.cue.points)))
    ∧ (∀ e ∈ s.cue.stm, ∀ q ∈ e.2.readyQ, gradsDone s e.1 q.2.1 = true → (readyStep s).isSome = true)
    ∧ Acts .cueCtlCntClr s fun u => fget u F.CUE_FIRED_COUNT = 0 ∧ { u with regs := [] } = { s with regs := [] }

/-- R236, R240 to R246, R254, R257, R260, R265: the mailbox records. None is taken before READY or under a job slot that is not
valid; one that is not well formed is kept as error 7; any other takes effect by its TYPE. Lines of the cue store and of a map are
read at their homes: ARM and ARMC are stated for lines that the cache holds undamaged.
The model's choices it rests on: log entries 54, 143, 155, 156. -/
def Obligations.MailboxRecords : Prop :=
  ∀ (slot : BitVec 6) (ls : List Line) (s : State), let k := slot.toNat; let l := ls.getD 0 0; let typ := lb l 0 8
    ∀ c, c = Instr.mboxConsist slot ls ∨ (ls = [l] ∧ c ∈ [Instr.mboxAnnounce slot l, .mboxInc slot l, .mboxArm slot l, .mboxArmc slot l,
        .mboxDone slot l, .mboxCommit slot l, .mboxAbort slot l, .mboxAccept slot l, .mboxReady slot l, .mboxNotYet slot l,
        .mboxPoison slot l, .mboxStepOpen slot l, .mboxTakeover slot l]) →
    let x := stmGet s k; let p := lb l 16 14; let step := lb l 64 40; let coll := lb l 64 10
    let sound := fun (a : Nat) => cached s a = true ∧ copyErr s a = 0
    let mapSound := fun (m : Nat) => fget s F.CUE_MAP_VALID m = 1 → ∀ i < mapLines (fget s F.CUE_MAP_N m), sound (fget s F.CUE_MAP_ADDR m + i)
    let on := fget s F.STM_STATUS_ACTIVE k ≠ 0; let now_ := step = x.step ∧ x.opened = true ∧ x.closing = false
    (fget s F.CUE_STATUS_READY ≠ 1 ∨ fget s F.CUE_JOB_VALID k ≠ 1 → Acts c s fun u => u.cue = s.cue ∧ u.regs = s.regs)
    ∧ (fget s F.CUE_STATUS_READY = 1 → fget s F.CUE_JOB_VALID k = 1 →
      (recOk ls = false → Acts c s fun u => u.cue = s.cue ∧ fget u F.CUE_LAST_ERR_CAUSE = 7 ∧ fget u F.CUE_LAST_ERR_VALID = 1)
      ∧ (recOk ls = true →
        (typ = 0x01 → lb l 95 1 = 0 → Acts c s fun u => u.cue.watch = s.cue.watch ++ [⟨sender s k l, slotJob s k, lb l 64 16, k, l, false⟩])
        ∧ (typ = 0x02 → Acts c s fun u => if ctrOk s k (lb l 64 12) = true then
            fget u F.CUE_CTR_VALUE (lb l 64 12) = (fget s F.CUE_CTR_VALUE (lb l 64 12) + lb l 80 8) % 2 ^ 32
            ∧ SameRegs s u (only F.CUE_CTR_VALUE (lb l 64 12)) else fget u F.CUE_LAST_ERR_CAUSE = 2)
        ∧ (typ = 0x03 → ∀ cl, sound (storeSlot s (lb l 64 14)) → storeLine s (lb l 64 14) = some cl →
            (1 ≤ lb cl 0 4 → lb cl 0 4 ≤ 3 → mapSound (lb cl 344 8)) → cueBad s cl = none → s.cue.armed.length < 4096 → Acts c s fun u =>
            u.cue.armed = s.cue.armed ++ [⟨lb l 64 14, s.cue.nextId, cl⟩])
        ∧ (typ = 0x04 → (collLive s coll = true → Acts c s fun u => u.cue = s.cue ∧ fget u F.CUE_LAST_ERR_VALID = 1)
          ∧ (collLive s coll = false → collGet s coll = none → s.cue.held = [] → s.cue.early = [] →
            ∀ d ids, sound (storeSlot s (lb l 78 14)) → storeLine s (lb l 78 14) = some d → mapSound (lb d 72 8) → descOk s d = true →
              mapIds s (lb d 72 8) = some ids → Acts c s fun u => match mget s.cue.doomed coll none with
            | some e => fget u F.CUE_COLL_STATE coll = 4 ∧ fget u F.CUE_COLL_ERROR coll = e.1 % 2 ^ F.CUE_COLL_ERROR.width
              ∧ collGet u coll = none ∧ mget u.cue.doomed coll none = none
            | none => fget u F.CUE_COLL_STATE coll = 1 ∧ ∃ y, collGet u coll = some y ∧ y.ids = ids ∧ y.hash = descHash d (fget s F.ILK_EPOCH_EPOCH) ids))
        ∧ (typ = 0x05 → match collGet s coll with
          | none => Acts c s fun u => if lateDone s coll (devAt s k p) (lb l 128 64) = true then
              u.cue.early = s.cue.early ∧ u.cue.colls = s.cue.colls ∧ u.regs = s.regs
            else (coll, p, lb l 128 64) ∈ u.cue.early
          | some y => if y.ids.getD 0 0xFFFF ≠ deviceId s then Acts c s fun u => u.cue = s.cue ∧ u.regs = s.regs
            else if lb l 128 64 = y.hash then Acts c s fun u => ∃ z, collGet u coll = some z
              ∧ (devAt s y.slot p ∈ y.ids → posOf y.ids (devAt s y.slot p) ∈ z.dones) ∧ ∀ q ∈ y.dones, q ∈ z.dones
            else Acts c s fun u => fget u F.CUE_COLL_STATE coll = 4 ∧ fget u F.CUE_COLL_ERROR coll = 1)
        ∧ (typ = 0x06 → match collGet s coll with
          | none => Acts c s fun u => u.cue = s.cue
          | some _ => Acts c s fun u => fget u F.CUE_COLL_STATE coll = 3 ∧ collGet u coll = none)
        ∧ (typ = 0x07 → if fget s F.CUE_COLL_STATE coll = 0 then Acts c s fun u => fget u F.CUE_COLL_STATE coll = 4
            ∧ fget u F.CUE_COLL_ERROR coll = lb l 76 4 ∧ mget u.cue.doomed coll none = some (lb l 76 4, false)
          else match collGet s coll with
          | none => Acts c s fun u => u.cue = s.cue
          | some _ => Acts c s fun u => fget u F.CUE_COLL_STATE coll = 4 ∧ fget u F.CUE_COLL_ERROR coll = lb l 76 4 ∧ collGet u coll = none)
        ∧ (typ = 0x08 → match s.cue.tasks.find? (fun t => match t.kind with
            | .accept m => m.dst == sender s k l && m.msg == lb l 64 16
            | _ => false) with
          | none => Acts c s fun u => u.regs = s.regs ∧ u.cue.runs = s.cue.runs
          | some t => Acts c s fun u => ∀ z ∈ u.cue.tasks, z.id ≠ t.id)
        ∧ (typ = 0x10 → (¬ on → Acts c s fun u => u.cue = s.cue ∧ u.regs = s.regs)
          ∧ (on → ¬ now_ → Acts c s fun u => u.cue = s.cue ∧ fget u F.STM_LATE_LATE k = min (fget s F.STM_LATE_LATE k + 1) 65535)
          ∧ (on → now_ → p ∉ x.poisoned → Acts c s fun u => ∃ v, (u = checkClose v k ∨ u = takeoverProceed v k)
            ∧ mget (stmGet v k).ready p 0 = lb l 104 8 ∧ p ∈ (stmGet v k).replied))
        ∧ (typ = 0x11 → if x.takeover = true ∧ step = x.step then
            Acts c s fun u => ∃ v, (u = v ∨ u = takeoverProceed v k) ∧ p ∈ (stmGet v k).replied
          else Acts c s fun u => u.cue = s.cue ∧ u.regs = s.regs)
        ∧ (typ = 0x12 → (¬ on → Acts c s fun u => u.cue = s.cue ∧ u.regs = s.regs)
          ∧ (on → now_ → lb l 104 14 ∉ x.poisoned → Acts c s fun u => ∃ v, u = checkClose v k ∧ lb l 104 14 ∈ (stmGet v k).poisoned
            ∧ fget v F.STM_LATE_POISONED k = min (fget s F.STM_LATE_POISONED k + 1) 65535))
        ∧ (typ = 0x13 → Acts c s fun u => (stmGet u k).heardOpen = some step ∧ fget u F.STM_STATUS_MIRRORED k = 0)
        ∧ (typ = 0x14 → let differs := x.taken.any (fun t => t.1 == step && t.2 != (lb l 128 32, lb l 192 64)) = true
          (x.lastStep = some step ∨ differs → Acts c s fun u => u.cue = s.cue)
          ∧ (x.lastStep ≠ some step → ¬ differs → step < fget s F.STM_STEP_STEP k → Acts c s fun u => u.cue = s.cue ∧ u.regs = s.regs)
          ∧ (x.lastStep ≠ some step → ¬ differs → fget s F.STM_STEP_STEP k ≤ step → Acts c s fun u =>
            fget u F.STM_STEP_STEP k = (step + 1) % 2 ^ 40 ∧ fget u F.STM_LAST_STEP k = step ∧ fget u F.STM_LAST_DIV_DIVISOR k = lb l 128 32
            ∧ (stmGet u k).lastStep = some step))
        ∧ (typ = 0x15 → Acts c s fun u => ∃ v, v.cue = s.cue ∧ u = mboxSend v k (sender s k l)
            [mkLine (match x.sentReady with
              | some (t, mb) => if t = step then recHdr v k 0x10 1 ++ [(64, 40, step), (104, 8, mb)] else recHdr v k 0x11 0 ++ [(64, 40, step)]
              | none => recHdr v k 0x11 0 ++ [(64, 40, step)])] (nobody k))))

/-- R236, R245, R257, R259, R261, R262, R265, R267: the rest of the cue engine. A message that completes is no longer watched; a
round that runs out at its leader aborts with error 5; the deadline and the backstop close a step, or stop Replay; a standby that
has waited proceeds; ABORT disarms the slot's cues and ends its collectives.
The model's choices it rests on: log entries 4, 5, 66, 156. -/
def Obligations.StepsAndCollectives : Prop :=
  ∀ (slot : BitVec 6) (s : State), let k := slot.toNat; let x := stmGet s k
    let closes := fun (c : Instr) => Acts c s fun u => if hasStandby s k = true then (stmGet u k).closing = true ∧ (stmGet u k).record.isSome = true
      else ∃ v r, u = issueRecord v k r ∧ (stmGet v k).record = some r
    let waits := x.opened = true ∧ x.closing = false ∧ x.stopped = false
    (Acts (.consistStandbyAck slot) s fun u => match x.record with
      | some r => if x.closing = true ∧ x.stbyDone = true then u = issueRecord s k r else u = s
      | none => u = s)
    ∧ (∀ (src : BitVec 16) (job : BitVec 12) (msg : BitVec 16),
      match s.fab.msgDone.find? (fun d => d.1 == src.toNat && d.2.1 == job.toNat && d.2.2.1 == msg.toNat),
          s.cue.watch.find? (fun w => w.src == src.toNat && w.job == job.toNat && w.msg == msg.toNat) with
      | some d, some w => Acts (.cueMessageComplete src job msg) s fun u => u.cue.watch = s.cue.watch.erase w
        ∧ (w.discard = true → u.regs = s.regs ∧ u.fab.msgDone = s.fab.msgDone.erase d)
        ∧ (w.discard = false → annAcc w.ann = 0 → (stmGet s w.slot).force.enable = false ∨ lb w.ann 95 1 = 1 → ctrOk s w.slot (lb w.ann 80 12) = true →
          fget u F.CUE_CTR_VALUE (lb w.ann 80 12) = (fget s F.CUE_CTR_VALUE (lb w.ann 80 12) + 1) % 2 ^ 32)
      | _, _ => Acts (.cueMessageComplete src job msg) s fun u => u = s)
    ∧ (∀ coll : BitVec 10, match collGet s coll.toNat with
      | none => Acts (.closeRoundTimeout coll) s fun u => u = s
      | some y => if y.begun = true ∧ y.ids.getD 0 0xFFFF = deviceId s then Acts (.closeRoundTimeout coll) s fun u =>
          fget u F.CUE_COLL_STATE coll.toNat = 4 ∧ fget u F.CUE_COLL_ERROR coll.toNat = 5 ∧ collGet u coll.toNat = none
        else Acts (.closeRoundTimeout coll) s fun u => u = s)
    ∧ (if waits ∧ x.awaiting = false ∧ x.force.allWait = false ∧ x.force.replay = false then closes (.stepDeadline slot)
      else Acts (.stepDeadline slot) s fun u => u = s)
    ∧ (if waits ∧ x.force.replay = true then Acts (.stepBackstop slot) s fun u => (stmGet u k).stopped = true ∧ (stmGet u k).opened = true
      else if waits ∧ x.force.allWait = true then closes (.stepBackstop slot)
      else Acts (.stepBackstop slot) s fun u => u = s)
    ∧ (if x.takeover = true ∧ x.opened = true ∧ x.closing = false then Acts (.takeoverWaitExpiry slot) s fun u =>
        ∃ v, (u = checkClose v k ∨ u = closeStep v k 1) ∧ ∀ p ∈ x.expected, p ∈ (stmGet v k).replied
      else Acts (.takeoverWaitExpiry slot) s fun u => u = s)
    ∧ (Acts (.stmReplayOff slot) s fun u => fget u F.STM_CFG_REPLAY k = 0
      ∧ ((x.opened = false ∨ x.stopped = false) → u.cue = s.cue ∧ SameRegs s u (only F.STM_CFG_REPLAY k)))
    ∧ Acts (.cueCtlAbort slot) s fun u => fget u F.CUE_CTL_SLOT = k ∧ (∀ a ∈ u.cue.armed, lb a.line 8 6 ≠ k) ∧ ∀ y ∈ u.cue.colls, y.slot ≠ k
end

