-- ==== Sys2Proof/Laws/NMap.lean ====
section
/-!
SUPPORT. Sparse data by key: what an update does to lookups, and that it keeps the canonical form.
-/

namespace Sys2Proof.Machine

variable {α : Type}

theorem mdel_mem {m : NMap α} {k : Nat} {e : Nat × α} (h : e ∈ mdel k m) : e ∈ m ∧ e.1 ≠ k := by
  induction m with
  | nil => simp [mdel] at h
  | cons x r ih =>
    obtain ⟨j, w⟩ := x
    by_cases hj : j = k
    · simp only [mdel, hj, if_true] at h
      exact ⟨.tail _ (ih h).1, (ih h).2⟩
    · simp only [mdel, hj, if_false, List.mem_cons] at h
      rcases h with rfl | h
      · exact ⟨.head _, hj⟩
      · exact ⟨.tail _ (ih h).1, (ih h).2⟩

theorem mins_mem {m : NMap α} {k : Nat} {v : α} {e : Nat × α} (h : e ∈ mins k v m) : e = (k, v) ∨ e ∈ m := by
  induction m with
  | nil => simp [mins] at h; exact .inl h
  | cons x r ih =>
    obtain ⟨j, w⟩ := x
    by_cases hj : k < j
    · simp only [mins, hj, if_true, List.mem_cons] at h
      simpa using h
    · simp only [mins, hj, if_false, List.mem_cons] at h
      rcases h with rfl | h
      · exact .inr (.head _)
      · exact (ih h).imp id (.tail _)

theorem rising_mdel {m : NMap α} (k : Nat) (h : Rising m) : Rising (mdel k m) := by
  induction m with
  | nil => simp [mdel, Rising]
  | cons x r ih =>
    obtain ⟨j, w⟩ := x
    have h' := List.pairwise_cons.1 h
    by_cases hj : j = k
    · simpa [mdel, hj] using ih h'.2
    · simp only [mdel, hj, if_false]
      exact List.pairwise_cons.2 ⟨fun e he => h'.1 e (mdel_mem he).1, ih h'.2⟩

theorem rising_mins {m : NMap α} (k : Nat) (v : α) (h : Rising m) (hk : ∀ e ∈ m, e.1 ≠ k) : Rising (mins k v m) := by
  induction m with
  | nil => simp [mins, Rising]
  | cons x r ih =>
    obtain ⟨j, w⟩ := x
    have h' := List.pairwise_cons.1 h
    by_cases hj : k < j
    · simp only [mins, hj, if_true]
      refine List.pairwise_cons.2 ⟨fun e he => ?_, h⟩
      rcases List.mem_cons.1 he with rfl | he
      · exact hj
      · exact Nat.lt_trans hj (h'.1 e he)
    · simp only [mins, hj, if_false]
      refine List.pairwise_cons.2 ⟨fun e he => ?_, ih h'.2 (fun e he => hk e (.tail _ he))⟩
      rcases mins_mem he with rfl | he
      · have := hk (j, w) (.head _)
        simp only at this ⊢
        omega
      · exact h'.1 e he

/-- An update keeps the keys rising. -/
theorem rising_mput [DecidableEq α] {m : NMap α} (k : Nat) (v d : α) (h : Rising m) : Rising (mput m k v d) := by
  unfold mput
  split
  · exact rising_mdel k h
  · exact rising_mins k v (rising_mdel k h) (fun e he => (mdel_mem he).2)

theorem mwfFrom_iff [DecidableEq α] {d : α} {m : NMap α} {b : Option Nat} :
    mwfFrom d b m = true ↔ Rising m ∧ (∀ e ∈ m, e.2 ≠ d) ∧ (∀ x, b = some x → ∀ e ∈ m, x < e.1) := by
  induction m generalizing b with
  | nil => simp [mwfFrom, Rising]
  | cons e r ih =>
    obtain ⟨j, w⟩ := e
    simp only [mwfFrom, Bool.and_eq_true, decide_eq_true_eq, ih, Rising, List.pairwise_cons, List.mem_cons, forall_eq_or_imp]
    cases b with
    | none =>
      simp only [true_and, reduceCtorEq, false_implies, implies_true, and_true]
      constructor
      · rintro ⟨h2, h3, h4, h5⟩
        exact ⟨⟨h5 j rfl, h3⟩, h2, h4⟩
      · rintro ⟨⟨h5, h3⟩, h2, h4⟩
        exact ⟨h2, h3, h4, fun x hx => Option.some.inj hx ▸ h5⟩
    | some x =>
      simp only [decide_eq_true_eq, Option.some.injEq, forall_eq']
      constructor
      · rintro ⟨⟨h1, h2⟩, h3, h4, h5⟩
        exact ⟨⟨h5, h3⟩, ⟨h2, h4⟩, h1, fun e he => Nat.lt_trans h1 (h5 e he)⟩
      · rintro ⟨⟨h5, h3⟩, ⟨h2, h4⟩, h1, _⟩
        exact ⟨⟨h1, h2⟩, h3, h4, h5⟩

/-- The canonical form: rising keys, and no entry that equals what an unlisted key reads as. -/
theorem mwf_iff [DecidableEq α] {d : α} {m : NMap α} : mwf d m = true ↔ Rising m ∧ ∀ e ∈ m, e.2 ≠ d := by
  simp [mwf, mwfFrom_iff]

/-- An update keeps the canonical form. -/
theorem mwf_mput [DecidableEq α] {d : α} {m : NMap α} (k : Nat) (v : α) (h : mwf d m = true) : mwf d (mput m k v d) = true := by
  rw [mwf_iff] at h ⊢
  refine ⟨rising_mput k v d h.1, fun e he => ?_⟩
  unfold mput at he
  split at he
  · exact h.2 e (mdel_mem he).1
  · rcases mins_mem he with rfl | he
    · assumption
    · exact h.2 e (mdel_mem he).1

theorem mget_mdel_self {m : NMap α} (k : Nat) (d : α) : mget (mdel k m) k d = d := by
  induction m with
  | nil => rfl
  | cons x r ih =>
    obtain ⟨j, w⟩ := x
    by_cases hj : j = k <;> simp [mdel, mget, hj, ih]

theorem mget_mdel_ne {m : NMap α} {k j : Nat} (d : α) (h : j ≠ k) : mget (mdel k m) j d = mget m j d := by
  induction m with
  | nil => rfl
  | cons x r ih =>
    obtain ⟨i, w⟩ := x
    by_cases hi : i = k
    · subst hi
      simp [mdel, mget, ih, Ne.symm h]
    · by_cases hj : i = j <;> simp [mdel, mget, hi, hj, ih]
      simp [hj ▸ hi, mget]

theorem mget_mins_self {m : NMap α} (k : Nat) (v d : α) (hk : ∀ e ∈ m, e.1 ≠ k) : mget (mins k v m) k d = v := by
  induction m with
  | nil => simp [mins, mget]
  | cons x r ih =>
    obtain ⟨j, w⟩ := x
    by_cases hj : k < j
    · simp [mins, hj, mget]
    · have := hk (j, w) (.head _)
      simp only at this
      simp [mins, hj, mget, this, ih (fun e he => hk e (.tail _ he))]

theorem mget_mins_ne {m : NMap α} {k j : Nat} (v d : α) (h : j ≠ k) : mget (mins k v m) j d = mget m j d := by
  induction m with
  | nil => simp [mins, mget, Ne.symm h]
  | cons x r ih =>
    obtain ⟨i, w⟩ := x
    by_cases hi : k < i
    · simp [mins, hi, mget, Ne.symm h]
    · simp [mins, hi, mget, ih]

/-- A read of the key just written gives the value written. -/
@[simp] theorem mget_mput_self [DecidableEq α] (m : NMap α) (k : Nat) (v d : α) : mget (mput m k v d) k d = v := by
  unfold mput
  split
  · subst_vars; exact mget_mdel_self k _
  · exact mget_mins_self k v d (fun e he => (mdel_mem he).2)

/-- A write leaves every other key alone. -/
theorem mget_mput_ne [DecidableEq α] (m : NMap α) {k j : Nat} (v d x : α) (h : j ≠ k) : mget (mput m k v d) j x = mget m j x := by
  unfold mput
  split
  · exact mget_mdel_ne x h
  · rw [mget_mins_ne v x h, mget_mdel_ne x h]

/-- Storing bytes keeps a memory's canonical form. -/
theorem wf_mwriteLE (n : Nat) : ∀ (m : Mem) (a v : Nat), Memory.wf m = true → Memory.wf (mwriteLE m a v n) = true := by
  induction n with
  | zero => intro m a v h; exact h
  | succ n ih => intro m a v h; exact ih _ _ _ (mwf_mput _ _ h)

/-- Storing a line keeps a memory's canonical form. -/
theorem wf_mputLine (m : Mem) (l : Nat) (v : Line) (h : Memory.wf m = true) : Memory.wf (mputLine m l v) = true :=
  wf_mwriteLE _ _ _ _ h

/-- Bytes outside those stored keep their value. -/
theorem mget_mwriteLE_out (n : Nat) : ∀ (m : Mem) (a v b : Nat), b < a ∨ a + n ≤ b → mget (mwriteLE m a v n) b 0 = mget m b 0 := by
  induction n with
  | zero => intro m a v b _; rfl
  | succ n ih =>
    intro m a v b h
    rw [mwriteLE, ih _ _ _ _ (by omega), mget_mput_ne _ _ _ _ (by omega)]

end Sys2Proof.Machine
end

