-- ==== Sys2Proof/Laws/State.lean ====
section
/-!
SUPPORT. What the shared updates of the state do to each of its fields, and the reads that follow a write.
-/

namespace Sys2Proof.Machine

variable (s : State) (f g : Fld) (i j v n a : Nat)

/-! ### fset -/

@[simp] theorem fset_timeUp : (fset s f i v).timeUp = s.timeUp := rfl
@[simp] theorem fset_timeDn : (fset s f i v).timeDn = s.timeDn := rfl
@[simp] theorem fset_freeCtr : (fset s f i v).freeCtr = s.freeCtr := rfl
@[simp] theorem fset_tiles : (fset s f i v).tiles = s.tiles := rfl
@[simp] theorem fset_dep : (fset s f i v).dep = s.dep := rfl
@[simp] theorem fset_fab : (fset s f i v).fab = s.fab := rfl
@[simp] theorem fset_opt : (fset s f i v).opt = s.opt := rfl
@[simp] theorem fset_links : (fset s f i v).links = s.links := rfl
@[simp] theorem fset_shn : (fset s f i v).shn = s.shn := rfl
@[simp] theorem fset_cue : (fset s f i v).cue = s.cue := rfl
@[simp] theorem fset_ilk : (fset s f i v).ilk = s.ilk := rfl
@[simp] theorem fset_app : (fset s f i v).app = s.app := rfl
@[simp] theorem fset_pwr : (fset s f i v).pwr = s.pwr := rfl
@[simp] theorem fset_brg : (fset s f i v).brg = s.brg := rfl
@[simp] theorem fset_lys : (fset s f i v).lys = s.lys := rfl
@[simp] theorem fset_mmc : (fset s f i v).mmc = s.mmc := rfl
@[simp] theorem fset_drain : (fset s f i v).drain = s.drain := rfl
@[simp] theorem fset_flash : (fset s f i v).flash = s.flash := rfl
@[simp] theorem fset_sec : (fset s f i v).sec = s.sec := rfl
@[simp] theorem fset_logw : (fset s f i v).logw = s.logw := rfl
@[simp] theorem fset_outbox : (fset s f i v).outbox = s.outbox := rfl
@[simp] theorem fset_pending : (fset s f i v).pending = s.pending := rfl

/-! ### fsetb -/

@[simp] theorem fsetb_timeUp (b : Bool) : (fsetb s f i b).timeUp = s.timeUp := rfl
@[simp] theorem fsetb_timeDn (b : Bool) : (fsetb s f i b).timeDn = s.timeDn := rfl
@[simp] theorem fsetb_freeCtr (b : Bool) : (fsetb s f i b).freeCtr = s.freeCtr := rfl
@[simp] theorem fsetb_tiles (b : Bool) : (fsetb s f i b).tiles = s.tiles := rfl
@[simp] theorem fsetb_dep (b : Bool) : (fsetb s f i b).dep = s.dep := rfl
@[simp] theorem fsetb_fab (b : Bool) : (fsetb s f i b).fab = s.fab := rfl
@[simp] theorem fsetb_opt (b : Bool) : (fsetb s f i b).opt = s.opt := rfl
@[simp] theorem fsetb_links (b : Bool) : (fsetb s f i b).links = s.links := rfl
@[simp] theorem fsetb_shn (b : Bool) : (fsetb s f i b).shn = s.shn := rfl
@[simp] theorem fsetb_cue (b : Bool) : (fsetb s f i b).cue = s.cue := rfl
@[simp] theorem fsetb_ilk (b : Bool) : (fsetb s f i b).ilk = s.ilk := rfl
@[simp] theorem fsetb_app (b : Bool) : (fsetb s f i b).app = s.app := rfl
@[simp] theorem fsetb_pwr (b : Bool) : (fsetb s f i b).pwr = s.pwr := rfl
@[simp] theorem fsetb_brg (b : Bool) : (fsetb s f i b).brg = s.brg := rfl
@[simp] theorem fsetb_lys (b : Bool) : (fsetb s f i b).lys = s.lys := rfl
@[simp] theorem fsetb_mmc (b : Bool) : (fsetb s f i b).mmc = s.mmc := rfl
@[simp] theorem fsetb_drain (b : Bool) : (fsetb s f i b).drain = s.drain := rfl
@[simp] theorem fsetb_flash (b : Bool) : (fsetb s f i b).flash = s.flash := rfl
@[simp] theorem fsetb_sec (b : Bool) : (fsetb s f i b).sec = s.sec := rfl
@[simp] theorem fsetb_logw (b : Bool) : (fsetb s f i b).logw = s.logw := rfl
@[simp] theorem fsetb_outbox (b : Bool) : (fsetb s f i b).outbox = s.outbox := rfl
@[simp] theorem fsetb_pending (b : Bool) : (fsetb s f i b).pending = s.pending := rfl

/-! ### brgCount -/

@[simp] theorem brgCount_timeUp (h : Half) : (brgCount s h n).timeUp = s.timeUp := rfl
@[simp] theorem brgCount_timeDn (h : Half) : (brgCount s h n).timeDn = s.timeDn := rfl
@[simp] theorem brgCount_freeCtr (h : Half) : (brgCount s h n).freeCtr = s.freeCtr := rfl
@[simp] theorem brgCount_tiles (h : Half) : (brgCount s h n).tiles = s.tiles := rfl
@[simp] theorem brgCount_dep (h : Half) : (brgCount s h n).dep = s.dep := rfl
@[simp] theorem brgCount_fab (h : Half) : (brgCount s h n).fab = s.fab := rfl
@[simp] theorem brgCount_opt (h : Half) : (brgCount s h n).opt = s.opt := rfl
@[simp] theorem brgCount_links (h : Half) : (brgCount s h n).links = s.links := rfl
@[simp] theorem brgCount_shn (h : Half) : (brgCount s h n).shn = s.shn := rfl
@[simp] theorem brgCount_cue (h : Half) : (brgCount s h n).cue = s.cue := rfl
@[simp] theorem brgCount_ilk (h : Half) : (brgCount s h n).ilk = s.ilk := rfl
@[simp] theorem brgCount_app (h : Half) : (brgCount s h n).app = s.app := rfl
@[simp] theorem brgCount_pwr (h : Half) : (brgCount s h n).pwr = s.pwr := rfl
@[simp] theorem brgCount_brg (h : Half) : (brgCount s h n).brg = s.brg := rfl
@[simp] theorem brgCount_lys (h : Half) : (brgCount s h n).lys = s.lys := rfl
@[simp] theorem brgCount_mmc (h : Half) : (brgCount s h n).mmc = s.mmc := rfl
@[simp] theorem brgCount_drain (h : Half) : (brgCount s h n).drain = s.drain := rfl
@[simp] theorem brgCount_flash (h : Half) : (brgCount s h n).flash = s.flash := rfl
@[simp] theorem brgCount_sec (h : Half) : (brgCount s h n).sec = s.sec := rfl
@[simp] theorem brgCount_logw (h : Half) : (brgCount s h n).logw = s.logw := rfl
@[simp] theorem brgCount_outbox (h : Half) : (brgCount s h n).outbox = s.outbox := rfl
@[simp] theorem brgCount_pending (h : Half) : (brgCount s h n).pending = s.pending := rfl

/-! ### fcount -/

@[simp] theorem fcount_timeUp : (fcount s f i n).timeUp = s.timeUp := rfl
@[simp] theorem fcount_timeDn : (fcount s f i n).timeDn = s.timeDn := rfl
@[simp] theorem fcount_freeCtr : (fcount s f i n).freeCtr = s.freeCtr := rfl
@[simp] theorem fcount_tiles : (fcount s f i n).tiles = s.tiles := rfl
@[simp] theorem fcount_dep : (fcount s f i n).dep = s.dep := rfl
@[simp] theorem fcount_fab : (fcount s f i n).fab = s.fab := rfl
@[simp] theorem fcount_opt : (fcount s f i n).opt = s.opt := rfl
@[simp] theorem fcount_links : (fcount s f i n).links = s.links := rfl
@[simp] theorem fcount_shn : (fcount s f i n).shn = s.shn := rfl
@[simp] theorem fcount_cue : (fcount s f i n).cue = s.cue := rfl
@[simp] theorem fcount_ilk : (fcount s f i n).ilk = s.ilk := rfl
@[simp] theorem fcount_app : (fcount s f i n).app = s.app := rfl
@[simp] theorem fcount_pwr : (fcount s f i n).pwr = s.pwr := rfl
@[simp] theorem fcount_brg : (fcount s f i n).brg = s.brg := rfl
@[simp] theorem fcount_lys : (fcount s f i n).lys = s.lys := rfl
@[simp] theorem fcount_mmc : (fcount s f i n).mmc = s.mmc := rfl
@[simp] theorem fcount_drain : (fcount s f i n).drain = s.drain := rfl
@[simp] theorem fcount_flash : (fcount s f i n).flash = s.flash := rfl
@[simp] theorem fcount_sec : (fcount s f i n).sec = s.sec := rfl
@[simp] theorem fcount_logw : (fcount s f i n).logw = s.logw := rfl
@[simp] theorem fcount_outbox : (fcount s f i n).outbox = s.outbox := rfl
@[simp] theorem fcount_pending : (fcount s f i n).pending = s.pending := rfl

/-! ### send -/

@[simp] theorem send_regs (m : Out) : (send s m).regs = s.regs := rfl
@[simp] theorem send_timeUp (m : Out) : (send s m).timeUp = s.timeUp := rfl
@[simp] theorem send_timeDn (m : Out) : (send s m).timeDn = s.timeDn := rfl
@[simp] theorem send_freeCtr (m : Out) : (send s m).freeCtr = s.freeCtr := rfl
@[simp] theorem send_tiles (m : Out) : (send s m).tiles = s.tiles := rfl
@[simp] theorem send_dep (m : Out) : (send s m).dep = s.dep := rfl
@[simp] theorem send_fab (m : Out) : (send s m).fab = s.fab := rfl
@[simp] theorem send_opt (m : Out) : (send s m).opt = s.opt := rfl
@[simp] theorem send_links (m : Out) : (send s m).links = s.links := rfl
@[simp] theorem send_shn (m : Out) : (send s m).shn = s.shn := rfl
@[simp] theorem send_cue (m : Out) : (send s m).cue = s.cue := rfl
@[simp] theorem send_ilk (m : Out) : (send s m).ilk = s.ilk := rfl
@[simp] theorem send_app (m : Out) : (send s m).app = s.app := rfl
@[simp] theorem send_pwr (m : Out) : (send s m).pwr = s.pwr := rfl
@[simp] theorem send_brg (m : Out) : (send s m).brg = s.brg := rfl
@[simp] theorem send_lys (m : Out) : (send s m).lys = s.lys := rfl
@[simp] theorem send_mmc (m : Out) : (send s m).mmc = s.mmc := rfl
@[simp] theorem send_drain (m : Out) : (send s m).drain = s.drain := rfl
@[simp] theorem send_flash (m : Out) : (send s m).flash = s.flash := rfl
@[simp] theorem send_sec (m : Out) : (send s m).sec = s.sec := rfl
@[simp] theorem send_logw (m : Out) : (send s m).logw = s.logw := rfl
@[simp] theorem send_pending (m : Out) : (send s m).pending = s.pending := rfl

/-! ### tset -/

@[simp] theorem tset_regs (t : Nat) (x : Tile) : (tset s t x).regs = s.regs := rfl
@[simp] theorem tset_timeUp (t : Nat) (x : Tile) : (tset s t x).timeUp = s.timeUp := rfl
@[simp] theorem tset_timeDn (t : Nat) (x : Tile) : (tset s t x).timeDn = s.timeDn := rfl
@[simp] theorem tset_freeCtr (t : Nat) (x : Tile) : (tset s t x).freeCtr = s.freeCtr := rfl
@[simp] theorem tset_dep (t : Nat) (x : Tile) : (tset s t x).dep = s.dep := rfl
@[simp] theorem tset_fab (t : Nat) (x : Tile) : (tset s t x).fab = s.fab := rfl
@[simp] theorem tset_opt (t : Nat) (x : Tile) : (tset s t x).opt = s.opt := rfl
@[simp] theorem tset_links (t : Nat) (x : Tile) : (tset s t x).links = s.links := rfl
@[simp] theorem tset_shn (t : Nat) (x : Tile) : (tset s t x).shn = s.shn := rfl
@[simp] theorem tset_cue (t : Nat) (x : Tile) : (tset s t x).cue = s.cue := rfl
@[simp] theorem tset_ilk (t : Nat) (x : Tile) : (tset s t x).ilk = s.ilk := rfl
@[simp] theorem tset_app (t : Nat) (x : Tile) : (tset s t x).app = s.app := rfl
@[simp] theorem tset_pwr (t : Nat) (x : Tile) : (tset s t x).pwr = s.pwr := rfl
@[simp] theorem tset_brg (t : Nat) (x : Tile) : (tset s t x).brg = s.brg := rfl
@[simp] theorem tset_lys (t : Nat) (x : Tile) : (tset s t x).lys = s.lys := rfl
@[simp] theorem tset_mmc (t : Nat) (x : Tile) : (tset s t x).mmc = s.mmc := rfl
@[simp] theorem tset_drain (t : Nat) (x : Tile) : (tset s t x).drain = s.drain := rfl
@[simp] theorem tset_flash (t : Nat) (x : Tile) : (tset s t x).flash = s.flash := rfl
@[simp] theorem tset_sec (t : Nat) (x : Tile) : (tset s t x).sec = s.sec := rfl
@[simp] theorem tset_logw (t : Nat) (x : Tile) : (tset s t x).logw = s.logw := rfl
@[simp] theorem tset_outbox (t : Nat) (x : Tile) : (tset s t x).outbox = s.outbox := rfl
@[simp] theorem tset_pending (t : Nat) (x : Tile) : (tset s t x).pending = s.pending := rfl

/-! ### setThread -/

@[simp] theorem setThread_regs (t k : Nat) (x : Thread) : (setThread s t k x).regs = s.regs := rfl
@[simp] theorem setThread_timeUp (t k : Nat) (x : Thread) : (setThread s t k x).timeUp = s.timeUp := rfl
@[simp] theorem setThread_timeDn (t k : Nat) (x : Thread) : (setThread s t k x).timeDn = s.timeDn := rfl
@[simp] theorem setThread_freeCtr (t k : Nat) (x : Thread) : (setThread s t k x).freeCtr = s.freeCtr := rfl
@[simp] theorem setThread_dep (t k : Nat) (x : Thread) : (setThread s t k x).dep = s.dep := rfl
@[simp] theorem setThread_fab (t k : Nat) (x : Thread) : (setThread s t k x).fab = s.fab := rfl
@[simp] theorem setThread_opt (t k : Nat) (x : Thread) : (setThread s t k x).opt = s.opt := rfl
@[simp] theorem setThread_links (t k : Nat) (x : Thread) : (setThread s t k x).links = s.links := rfl
@[simp] theorem setThread_shn (t k : Nat) (x : Thread) : (setThread s t k x).shn = s.shn := rfl
@[simp] theorem setThread_cue (t k : Nat) (x : Thread) : (setThread s t k x).cue = s.cue := rfl
@[simp] theorem setThread_ilk (t k : Nat) (x : Thread) : (setThread s t k x).ilk = s.ilk := rfl
@[simp] theorem setThread_app (t k : Nat) (x : Thread) : (setThread s t k x).app = s.app := rfl
@[simp] theorem setThread_pwr (t k : Nat) (x : Thread) : (setThread s t k x).pwr = s.pwr := rfl
@[simp] theorem setThread_brg (t k : Nat) (x : Thread) : (setThread s t k x).brg = s.brg := rfl
@[simp] theorem setThread_lys (t k : Nat) (x : Thread) : (setThread s t k x).lys = s.lys := rfl
@[simp] theorem setThread_mmc (t k : Nat) (x : Thread) : (setThread s t k x).mmc = s.mmc := rfl
@[simp] theorem setThread_drain (t k : Nat) (x : Thread) : (setThread s t k x).drain = s.drain := rfl
@[simp] theorem setThread_flash (t k : Nat) (x : Thread) : (setThread s t k x).flash = s.flash := rfl
@[simp] theorem setThread_sec (t k : Nat) (x : Thread) : (setThread s t k x).sec = s.sec := rfl
@[simp] theorem setThread_logw (t k : Nat) (x : Thread) : (setThread s t k x).logw = s.logw := rfl
@[simp] theorem setThread_outbox (t k : Nat) (x : Thread) : (setThread s t k x).outbox = s.outbox := rfl
@[simp] theorem setThread_pending (t k : Nat) (x : Thread) : (setThread s t k x).pending = s.pending := rfl

/-! ### setDepLine -/

@[simp] theorem setDepLine_regs (x : Line) : (setDepLine s a x).regs = s.regs := rfl
@[simp] theorem setDepLine_timeUp (x : Line) : (setDepLine s a x).timeUp = s.timeUp := rfl
@[simp] theorem setDepLine_timeDn (x : Line) : (setDepLine s a x).timeDn = s.timeDn := rfl
@[simp] theorem setDepLine_freeCtr (x : Line) : (setDepLine s a x).freeCtr = s.freeCtr := rfl
@[simp] theorem setDepLine_tiles (x : Line) : (setDepLine s a x).tiles = s.tiles := rfl
@[simp] theorem setDepLine_fab (x : Line) : (setDepLine s a x).fab = s.fab := rfl
@[simp] theorem setDepLine_opt (x : Line) : (setDepLine s a x).opt = s.opt := rfl
@[simp] theorem setDepLine_links (x : Line) : (setDepLine s a x).links = s.links := rfl
@[simp] theorem setDepLine_shn (x : Line) : (setDepLine s a x).shn = s.shn := rfl
@[simp] theorem setDepLine_cue (x : Line) : (setDepLine s a x).cue = s.cue := rfl
@[simp] theorem setDepLine_ilk (x : Line) : (setDepLine s a x).ilk = s.ilk := rfl
@[simp] theorem setDepLine_app (x : Line) : (setDepLine s a x).app = s.app := rfl
@[simp] theorem setDepLine_pwr (x : Line) : (setDepLine s a x).pwr = s.pwr := rfl
@[simp] theorem setDepLine_brg (x : Line) : (setDepLine s a x).brg = s.brg := rfl
@[simp] theorem setDepLine_lys (x : Line) : (setDepLine s a x).lys = s.lys := rfl
@[simp] theorem setDepLine_mmc (x : Line) : (setDepLine s a x).mmc = s.mmc := rfl
@[simp] theorem setDepLine_drain (x : Line) : (setDepLine s a x).drain = s.drain := rfl
@[simp] theorem setDepLine_flash (x : Line) : (setDepLine s a x).flash = s.flash := rfl
@[simp] theorem setDepLine_sec (x : Line) : (setDepLine s a x).sec = s.sec := rfl
@[simp] theorem setDepLine_logw (x : Line) : (setDepLine s a x).logw = s.logw := rfl
@[simp] theorem setDepLine_outbox (x : Line) : (setDepLine s a x).outbox = s.outbox := rfl
@[simp] theorem setDepLine_pending (x : Line) : (setDepLine s a x).pending = s.pending := rfl

/-! ### depWrite -/

@[simp] theorem depWrite_regs : (depWrite s a v n).regs = s.regs := rfl
@[simp] theorem depWrite_timeUp : (depWrite s a v n).timeUp = s.timeUp := rfl
@[simp] theorem depWrite_timeDn : (depWrite s a v n).timeDn = s.timeDn := rfl
@[simp] theorem depWrite_freeCtr : (depWrite s a v n).freeCtr = s.freeCtr := rfl
@[simp] theorem depWrite_tiles : (depWrite s a v n).tiles = s.tiles := rfl
@[simp] theorem depWrite_fab : (depWrite s a v n).fab = s.fab := rfl
@[simp] theorem depWrite_opt : (depWrite s a v n).opt = s.opt := rfl
@[simp] theorem depWrite_links : (depWrite s a v n).links = s.links := rfl
@[simp] theorem depWrite_shn : (depWrite s a v n).shn = s.shn := rfl
@[simp] theorem depWrite_cue : (depWrite s a v n).cue = s.cue := rfl
@[simp] theorem depWrite_ilk : (depWrite s a v n).ilk = s.ilk := rfl
@[simp] theorem depWrite_app : (depWrite s a v n).app = s.app := rfl
@[simp] theorem depWrite_pwr : (depWrite s a v n).pwr = s.pwr := rfl
@[simp] theorem depWrite_brg : (depWrite s a v n).brg = s.brg := rfl
@[simp] theorem depWrite_lys : (depWrite s a v n).lys = s.lys := rfl
@[simp] theorem depWrite_mmc : (depWrite s a v n).mmc = s.mmc := rfl
@[simp] theorem depWrite_drain : (depWrite s a v n).drain = s.drain := rfl
@[simp] theorem depWrite_flash : (depWrite s a v n).flash = s.flash := rfl
@[simp] theorem depWrite_sec : (depWrite s a v n).sec = s.sec := rfl
@[simp] theorem depWrite_logw : (depWrite s a v n).logw = s.logw := rfl
@[simp] theorem depWrite_outbox : (depWrite s a v n).outbox = s.outbox := rfl
@[simp] theorem depWrite_pending : (depWrite s a v n).pending = s.pending := rfl

/-! ### Reads after writes -/

/-- A field reads as what was written, to its width. -/
@[simp] theorem fget_fset : fget (fset s f i v) f i = v % 2 ^ f.width := by simp [fget, fset]

/-- A write leaves every other field alone. -/
theorem fget_fset_ne (h : g.key j ≠ f.key i) : fget (fset s f i v) g j = fget s g j := by
  simp only [fget, fset]
  exact mget_mput_ne _ _ _ _ h

/-- A field is unchanged by an update that leaves the register file alone. -/
theorem fget_congr {r t : State} (h : t.regs = r.regs) : fget t f i = fget r f i := by simp only [fget, h]

@[simp] theorem fget_tset (t : Nat) (x : Tile) : fget (tset s t x) f i = fget s f i := rfl
@[simp] theorem fget_send (m : Out) : fget (send s m) f i = fget s f i := rfl
@[simp] theorem fget_setThread (t k : Nat) (x : Thread) : fget (setThread s t k x) f i = fget s f i := rfl

/-- A tile reads as what was put. -/
@[simp] theorem tget_tset (t : Nat) (x : Tile) : tget (tset s t x) t = x := by simp [tget, tset]

/-- Other tiles keep what they hold. -/
theorem tget_tset_ne (t u : Nat) (x : Tile) (h : u ≠ t) : tget (tset s t x) u = tget s u := by
  simp only [tget, tset]
  exact mget_mput_ne _ _ _ _ h

@[simp] theorem tget_fset (t : Nat) : tget (fset s f i v) t = tget s t := rfl
@[simp] theorem tget_fcount (t : Nat) : tget (fcount s f i n) t = tget s t := rfl
@[simp] theorem tget_setThread (t k : Nat) (x : Thread) : tget (setThread s t k x) t = (tget s t).setTh k x := by simp [setThread]
theorem tget_setThread_ne (t k u : Nat) (x : Thread) (h : u ≠ t) : tget (setThread s t k x) u = tget s u :=
  tget_tset_ne _ _ _ _ h

/-- A thread reads as what was put, where the tile has it. -/
theorem th_setTh (ti : Tile) (k : Nat) (x : Thread) (h : k < ti.threads.length) : (ti.setTh k x).th k = x := by
  simp [Tile.setTh, Tile.th, List.getD, h]

/-- Other threads keep what they hold. -/
theorem th_setTh_ne (ti : Tile) (k l : Nat) (x : Thread) (h : l ≠ k) : (ti.setTh k x).th l = ti.th l := by
  simp [Tile.setTh, Tile.th, List.getD, Ne.symm h]

@[simp] theorem setTh_threads_length (ti : Tile) (k : Nat) (x : Thread) : (ti.setTh k x).threads.length = ti.threads.length := by
  simp [Tile.setTh]

/-- Scalar register 0 reads as 0 (R97). -/
@[simp] theorem sreg_zero (x : Thread) : x.sreg 0 = 0 := rfl

/-- A scalar register reads as what was written; register 0 keeps reading 0 (R97). -/
theorem sreg_setS (x : Thread) (d : Nat) (w : W64) : (x.setS d w).sreg d = if d = 0 then 0 else w := by
  by_cases h : d = 0 <;> simp [Thread.sreg, Thread.setS, h]

theorem sreg_setS_ne (x : Thread) (d r : Nat) (w : W64) (h : r ≠ d) : (x.setS d w).sreg r = x.sreg r := by
  unfold Thread.sreg Thread.setS
  split
  · rfl
  · split
    · rfl
    · exact mget_mput_ne _ _ _ _ h

/-- A lane reads as what was written. -/
@[simp] theorem lane_setLane (x : Thread) (r l : Nat) (w : W32) : (x.setLane r l w).lane r l = w := by simp [Thread.lane, Thread.setLane]

end Sys2Proof.Machine
end

