-- ==== Sys2Proof/Laws/Issue.lean ====
section
/-!
SUPPORT. What issuing an instruction does where nothing stands in its way: the instruction's own effect, on the tile with the
thread noted as the last to issue.
-/

namespace Sys2Proof.Machine

/-- A thread that can issue is one of the tile's. -/
theorem ready_lt {x : Issue} {s : State} (h : Ready x s) : x.thread.toNat < (ati s x).threads.length := by
  by_contra hn
  have hc := h.can
  have : (tget s x.tile.toNat).th x.thread.toNat = {} := by
    unfold Tile.th
    rw [List.getD_eq_getElem?_getD, List.getElem?_eq_none (by unfold ati at hn; omega)]
    rfl
  unfold canIssue at hc
  rw [this] at hc
  simp at hc

/-- The state an instruction's own effect starts from: its thread is the last to have issued. -/
def atIssue (s : State) (x : Issue) : State := tset s x.tile.toNat { ati s x with lastTh := x.thread.toNat }

@[simp] theorem tget_atIssue {x : Issue} {s : State} : tget (atIssue s x) x.tile.toNat = { ati s x with lastTh := x.thread.toNat } := by
  simp [atIssue]

@[simp] theorem fget_atIssue {x : Issue} {s : State} {f : Fld} {i : Nat} : fget (atIssue s x) f i = fget s f i := rfl

theorem fetch_clean {s : State} {t h : Nat} {d : Damage} (hc : mget (tget s t).progErr (((tget s t).th h).pc / 64) 0 ^^^ d = 0) :
    fetch s t h d = (s, true) := by
  unfold fetch
  exact if_pos hc

theorem issue_ready {x : Issue} {s : State} (h : Ready x s) (body : State → Nat → Nat → IRes) :
    issue x s body = .next (finish x.tile.toNat x.thread.toNat (body (atIssue s x) x.tile.toNat x.thread.toNat)) := by
  have hu : applyUpsets s x.tile.toNat x.upsets = s := by rw [h.upsets]; rfl
  have hn : ¬ (0x7FF8 < ((tget s x.tile.toNat).th x.thread.toNat).pc ∨ ((tget s x.tile.toNat).th x.thread.toNat).pc % 8 ≠ 0) :=
    not_or.mpr ⟨Nat.not_lt.mpr h.inside.1, not_not.mpr h.inside.2⟩
  have hf : fetch (atIssue s x) x.tile.toNat x.thread.toNat x.progErr = (atIssue s x, true) := by
    apply fetch_clean
    rw [tget_atIssue]
    exact h.clean
  unfold issue
  simp only [h.can, hu, Bool.not_true, Bool.false_eq_true, if_false, hn]
  change (if (fetch (atIssue s x) x.tile.toNat x.thread.toNat x.progErr).2 = true then
    Host.Outcome.next (finish x.tile.toNat x.thread.toNat (body (fetch (atIssue s x) x.tile.toNat x.thread.toNat x.progErr).1 x.tile.toNat x.thread.toNat))
    else _) = _
  rw [hf]
  rfl

theorem issue_stopped {x : Issue} {s : State} (h : canIssue s x.tile.toNat x.thread.toNat = false) (body : State → Nat → Nat → IRes) :
    issue x s body = .next s := by
  unfold issue
  simp only [h, Bool.not_false, if_true]

/-- An instruction that goes on: its thread is ready at the next instruction. -/
theorem finish_go_th {u : State} {t h : Nat} (hl : h < (tget u t).threads.length) :
    (tget (finish t h (.go u)) t).th h = { (tget u t).th h with st := .ready, pc := ((tget u t).th h).pc + 8, wait := .none } := by
  simp [finish, th_setTh _ _ _ hl]

theorem finish_go_th_ne {u : State} {t h k : Nat} (hk : k ≠ h) : (tget (finish t h (.go u)) t).th k = (tget u t).th k := by
  simp [finish, th_setTh_ne _ _ _ _ hk]

theorem finish_go_tget_ne {u : State} {t h k : Nat} (hk : k ≠ t) : tget (finish t h (.go u)) k = tget u k := by
  simp only [finish, tget_fcount]
  exact tget_setThread_ne _ _ _ _ _ hk

/-- An instruction that goes on leaves the rest of its tile as its own effect does. -/
theorem finish_go_tile {u : State} {t h : Nat} : ∃ th, tget (finish t h (.go u)) t = { tget u t with threads := th } := by
  simp only [finish, tget_fcount, tget_setThread, Tile.setTh]
  exact ⟨_, rfl⟩

/-- Of the registers, going on counts the issue. -/
theorem finish_go_fget {u : State} {t h i : Nat} {f : Fld} (hk : f.key i ≠ F.TILE_ISSUED_COUNT.key t) :
    fget (finish t h (.go u)) f i = fget u f i := by
  simp only [finish, fcount]
  rw [fget_fset_ne _ _ _ _ _ _ hk]
  rfl

end Sys2Proof.Machine
end

