-- ==== Sys2Proof/Laws/Keeps.lean ====
section
/-!
SUPPORT. How `Keeps` is shown of a function: it holds of a state itself, it survives every update that leaves queue, time,
registers and depot memory alone, and it goes through conditionals and folds.
-/

namespace Sys2Proof.Machine

theorem Keeps.rfl' (s : State) : Keeps s s := ⟨rfl, rfl, rfl, id, id⟩

theorem Keeps.trans {r s t : State} (h : Keeps r s) (g : Keeps s t) : Keeps r t :=
  ⟨g.1.trans h.1, g.2.trans h.2, g.3.trans h.3, g.4 ∘ h.4, g.5 ∘ h.5⟩

/-- An update of other fields. -/
theorem Keeps.upd {r s : State} {freeCtr tiles dep fab opt links shn cue ilk app pwr brg lys mmc drain flash sec logw outbox}
    (h : Keeps r s) (hd : dep.mem = s.dep.mem) :
    Keeps r ⟨s.regs, s.timeUp, s.timeDn, freeCtr, tiles, dep, fab, opt, links, shn, cue, ilk, app, pwr, brg, lys, mmc, drain,
      flash, sec, logw, outbox, s.pending⟩ :=
  ⟨h.1, h.2, h.3, h.4, fun x => by simpa [hd] using h.5 x⟩

theorem Keeps.foldl {α : Type} {r s : State} {f : State → α → State} (l : List α) (h : Keeps r s)
    (g : ∀ t a, Keeps r t → Keeps r (f t a)) : Keeps r (l.foldl f s) := by
  induction l generalizing s with
  | nil => exact h
  | cons a l ih => exact ih (g _ _ h)

theorem Keeps.ite {c : Prop} [Decidable c] {r a b : State} (h : c → Keeps r a) (g : ¬c → Keeps r b) : Keeps r (if c then a else b) := by
  by_cases hc : c
  · rw [if_pos hc]; exact h hc
  · rw [if_neg hc]; exact g hc

theorem Keeps.iteE {c : Prop} [Decidable c] {r a x : State} (h : Keeps r x) (g : Keeps x a) : Keeps r (if c then a else x) := by
  split
  · exact h.trans g
  · exact h

theorem Keeps.iteT {c : Prop} [Decidable c] {r a x : State} (h : Keeps r x) (g : Keeps x a) : Keeps r (if c then x else a) := by
  split
  · exact h
  · exact h.trans g

end Sys2Proof.Machine
end

