-- ==== Sys2Proof/Laws/KeepsTile.lean ====
section
/-!
SUPPORT. What the functions of the shared operations, the logbook and the tiles keep.
-/

namespace Sys2Proof.Machine

theorem fset_keeps {r s f i v} (h : Keeps r s) : Keeps r (fset s f i v) :=
  ⟨h.1, h.2, h.3, fun x => rising_mput _ _ _ (h.4 x), h.5⟩

theorem fsetb_keeps {r s a1 a2 a3} (h : Keeps r s) : Keeps r (fsetb s a1 a2 a3) := by
  unfold fsetb
  try dsimp only
  repeat'
    first
      | with_reducible assumption
      | with_reducible exact Keeps.rfl' _
      | with_reducible refine fset_keeps ?_

theorem fcount_keeps {r s a1 a2 a3} (h : Keeps r s) : Keeps r (fcount s a1 a2 a3) := by
  unfold fcount
  try dsimp only
  repeat'
    first
      | with_reducible assumption
      | with_reducible exact Keeps.rfl' _
      | with_reducible refine fset_keeps ?_

theorem fresh_keeps {r s} (h : Keeps r s) : Keeps r (fresh s).2 := ⟨h.1, h.2, h.3, h.4, h.5⟩

theorem send_keeps {r s a1} (h : Keeps r s) : Keeps r (send s a1) := by
  unfold send
  try dsimp only
  repeat'
    first
      | with_reducible assumption
      | with_reducible exact Keeps.rfl' _
      | with_reducible refine Keeps.foldl _ ?_ (fun _ _ _ => ?_)
      | with_reducible refine Keeps.ite (fun _ => ?_) (fun _ => ?_)
      | (fail_if_no_progress with_reducible refine Keeps.upd (hd := rfl) ?_)

theorem emit_keeps {r s a1 a2 a3 a4} (h : Keeps r s) : Keeps r (emit s a1 a2 a3 a4) := by
  unfold emit
  try dsimp only
  repeat'
    first
      | with_reducible assumption
      | with_reducible exact Keeps.rfl' _
      | with_reducible refine fcount_keeps ?_
      | with_reducible refine Keeps.foldl _ ?_ (fun _ _ _ => ?_)
      | with_reducible refine Keeps.ite (fun _ => ?_) (fun _ => ?_)
      | (fail_if_no_progress with_reducible refine Keeps.upd (hd := rfl) ?_)

theorem emitLim_keeps {r s a1 a2 a3 a4 a5 a6} (h : Keeps r s) : Keeps r (emitLim s a1 a2 a3 a4 a5 a6) := by
  unfold emitLim
  try dsimp only
  repeat'
    first
      | with_reducible assumption
      | with_reducible exact Keeps.rfl' _
      | with_reducible refine emit_keeps ?_
      | with_reducible refine Keeps.foldl _ ?_ (fun _ _ _ => ?_)
      | with_reducible refine Keeps.ite (fun _ => ?_) (fun _ => ?_)
      | (fail_if_no_progress with_reducible refine Keeps.upd (hd := rfl) ?_)

theorem bookA_keeps {r s a1 a2 a3} (h : Keeps r s) : Keeps r (bookA s a1 a2 a3) := by
  unfold bookA
  try dsimp only
  repeat'
    first
      | with_reducible assumption
      | with_reducible exact Keeps.rfl' _
      | with_reducible refine Keeps.foldl _ ?_ (fun _ _ _ => ?_)
      | with_reducible refine Keeps.ite (fun _ => ?_) (fun _ => ?_)
      | (fail_if_no_progress with_reducible refine Keeps.upd (hd := rfl) ?_)

theorem bookB_keeps {r s a1 a2 a3} (h : Keeps r s) : Keeps r (bookB s a1 a2 a3) := by
  unfold bookB
  try dsimp only
  repeat'
    first
      | with_reducible assumption
      | with_reducible exact Keeps.rfl' _
      | with_reducible refine Keeps.foldl _ ?_ (fun _ _ _ => ?_)
      | with_reducible refine Keeps.ite (fun _ => ?_) (fun _ => ?_)
      | (fail_if_no_progress with_reducible refine Keeps.upd (hd := rfl) ?_)

theorem bookDaily_keeps {r s a1 a2 a3 a4} (h : Keeps r s) : Keeps r (bookDaily s a1 a2 a3 a4) := by
  unfold bookDaily
  try dsimp only
  repeat'
    first
      | with_reducible assumption
      | with_reducible exact Keeps.rfl' _
      | with_reducible refine bookB_keeps ?_
      | with_reducible refine Keeps.foldl _ ?_ (fun _ _ _ => ?_)
      | with_reducible refine Keeps.ite (fun _ => ?_) (fun _ => ?_)
      | (fail_if_no_progress with_reducible refine Keeps.upd (hd := rfl) ?_)

theorem tset_keeps {r s a1 a2} (h : Keeps r s) : Keeps r (tset s a1 a2) := by
  unfold tset
  try dsimp only
  repeat'
    first
      | with_reducible assumption
      | with_reducible exact Keeps.rfl' _
      | with_reducible refine Keeps.foldl _ ?_ (fun _ _ _ => ?_)
      | with_reducible refine Keeps.ite (fun _ => ?_) (fun _ => ?_)
      | (fail_if_no_progress with_reducible refine Keeps.upd (hd := rfl) ?_)

theorem setThread_keeps {r s a1 a2 a3} (h : Keeps r s) : Keeps r (setThread s a1 a2 a3) := by
  unfold setThread
  try dsimp only
  repeat'
    first
      | with_reducible assumption
      | with_reducible exact Keeps.rfl' _
      | with_reducible refine tset_keeps ?_

theorem setDepLine_keeps {r s l v} (h : Keeps r s) : Keeps r (setDepLine s l v) :=
  ⟨h.1, h.2, h.3, h.4, fun x => wf_mputLine _ _ _ (h.5 x)⟩

theorem depWrite_keeps {r s d v n} (h : Keeps r s) : Keeps r (depWrite s d v n) :=
  ⟨h.1, h.2, h.3, h.4, fun x => wf_mwriteLE _ _ _ _ (h.5 x)⟩

theorem brgCount_keeps {r s a1 a2} (h : Keeps r s) : Keeps r (brgCount s a1 a2) := by
  unfold brgCount
  try dsimp only
  repeat'
    first
      | with_reducible assumption
      | with_reducible exact Keeps.rfl' _
      | with_reducible refine fcount_keeps ?_

theorem setBank_keeps {r s a1 a2} (h : Keeps r s) : Keeps r (setBank s a1 a2) := by
  unfold setBank
  try dsimp only
  repeat'
    first
      | with_reducible assumption
      | with_reducible exact Keeps.rfl' _
      | with_reducible refine Keeps.foldl _ ?_ (fun _ _ _ => ?_)
      | with_reducible refine Keeps.ite (fun _ => ?_) (fun _ => ?_)
      | (fail_if_no_progress with_reducible refine Keeps.upd (hd := rfl) ?_)

theorem raiseCtr_keeps {r s a1 a2} (h : Keeps r s) : Keeps r (raiseCtr s a1 a2) := by
  unfold raiseCtr
  try dsimp only
  repeat'
    first
      | with_reducible assumption
      | with_reducible exact Keeps.rfl' _
      | with_reducible refine fset_keeps ?_
      | with_reducible refine emit_keeps ?_
      | with_reducible refine Keeps.foldl _ ?_ (fun _ _ _ => ?_)
      | with_reducible refine Keeps.ite (fun _ => ?_) (fun _ => ?_)
      | (fail_if_no_progress with_reducible refine Keeps.upd (hd := rfl) ?_)

theorem writeDir_keeps {r s f} (h : Keeps r s) : Keeps r (writeDir s f) := ⟨h.1, h.2, h.3, h.4, h.5⟩

theorem bookAccount_keeps {r s a1} (h : Keeps r s) : Keeps r (bookAccount s a1) := by
  unfold bookAccount
  try dsimp only
  repeat'
    first
      | with_reducible assumption
      | with_reducible exact Keeps.rfl' _
      | with_reducible refine fset_keeps ?_
      | with_reducible refine emit_keeps ?_
      | with_reducible refine fsetb_keeps ?_
      | with_reducible refine Keeps.foldl _ ?_ (fun _ _ _ => ?_)
      | with_reducible refine Keeps.ite (fun _ => ?_) (fun _ => ?_)
      | (fail_if_no_progress with_reducible refine Keeps.upd (hd := rfl) ?_)

theorem bookSeal_keeps {r s a1 a2 a3} (h : Keeps r s) : Keeps r (bookSeal s a1 a2 a3) := by
  unfold bookSeal
  try dsimp only
  repeat'
    first
      | with_reducible assumption
      | with_reducible exact Keeps.rfl' _
      | with_reducible refine bookAccount_keeps ?_
      | with_reducible refine fset_keeps ?_
      | with_reducible refine Keeps.foldl _ ?_ (fun _ _ _ => ?_)
      | with_reducible refine Keeps.ite (fun _ => ?_) (fun _ => ?_)
      | (fail_if_no_progress with_reducible refine Keeps.upd (hd := rfl) ?_)

theorem bookCompact_keeps {r s} (h : Keeps r s) : Keeps r (bookCompact s) := by
  unfold bookCompact
  refine emit_keeps (raiseCtr_keeps (bookSeal_keeps (Keeps.foldl _ (bookSeal_keeps ?_) fun _ _ g => bookSeal_keeps g)))
  have := fset_keeps (f := F.LOG_BOOK_SEQ) (i := 0) (v := 2 ^ 32 - 1) h
  exact ⟨h.1, h.2, h.3, this.4, h.5⟩

theorem bookWrite_keeps {r s a1} (h : Keeps r s) : Keeps r (bookWrite s a1) := by
  unfold bookWrite
  try dsimp only
  repeat'
    first
      | with_reducible assumption
      | with_reducible exact Keeps.rfl' _
      | with_reducible refine bookSeal_keeps ?_
      | with_reducible refine bookCompact_keeps ?_
      | with_reducible refine Keeps.foldl _ ?_ (fun _ _ _ => ?_)
      | with_reducible refine Keeps.ite (fun _ => ?_) (fun _ => ?_)

theorem bookAppend_keeps {r s a1} (h : Keeps r s) : Keeps r (bookAppend s a1) := by
  unfold bookAppend
  try dsimp only
  repeat'
    first
      | with_reducible assumption
      | with_reducible exact Keeps.rfl' _
      | with_reducible refine emit_keeps ?_
      | with_reducible refine fset_keeps ?_
      | with_reducible refine bookWrite_keeps ?_
      | with_reducible refine Keeps.foldl _ ?_ (fun _ _ _ => ?_)
      | with_reducible refine Keeps.ite (fun _ => ?_) (fun _ => ?_)
      | (fail_if_no_progress with_reducible refine Keeps.upd (hd := rfl) ?_)
      | split

theorem bookFlush_keeps {r s} (h : Keeps r s) : Keeps r (bookFlush s) := by
  unfold bookFlush
  try dsimp only
  repeat'
    first
      | with_reducible assumption
      | with_reducible exact Keeps.rfl' _
      | with_reducible refine bookAppend_keeps ?_
      | with_reducible refine Keeps.foldl _ ?_ (fun _ _ _ => ?_)

theorem serviceReached_keeps {r s} (h : Keeps r s) : Keeps r (serviceReached s) := by
  unfold serviceReached
  try dsimp only
  repeat'
    first
      | with_reducible assumption
      | with_reducible exact Keeps.rfl' _
      | with_reducible refine writeDir_keeps ?_
      | with_reducible refine raiseCtr_keeps ?_
      | with_reducible refine Keeps.foldl _ ?_ (fun _ _ _ => ?_)
      | with_reducible refine Keeps.ite (fun _ => ?_) (fun _ => ?_)
      | (fail_if_no_progress with_reducible refine Keeps.upd (hd := rfl) ?_)
      | split

theorem orTileFlags_keeps {r s a1 a2} (h : Keeps r s) : Keeps r (orTileFlags s a1 a2) := by
  unfold orTileFlags
  try dsimp only
  repeat'
    first
      | with_reducible assumption
      | with_reducible exact Keeps.rfl' _
      | with_reducible refine fset_keeps ?_
      | with_reducible refine Keeps.foldl _ ?_ (fun _ _ _ => ?_)
      | with_reducible refine Keeps.ite (fun _ => ?_) (fun _ => ?_)

theorem orCond_keeps {r s a1 a2 a3} (h : Keeps r s) : Keeps r (orCond s a1 a2 a3) := by
  unfold orCond
  try dsimp only
  repeat'
    first
      | with_reducible assumption
      | with_reducible exact Keeps.rfl' _
      | with_reducible refine setThread_keeps ?_

theorem seqError_keeps {r s a1} (h : Keeps r s) : Keeps r (seqError s a1) := by
  unfold seqError
  try dsimp only
  repeat'
    first
      | with_reducible assumption
      | with_reducible exact Keeps.rfl' _
      | with_reducible refine emit_keeps ?_
      | with_reducible refine orTileFlags_keeps ?_

theorem retireNow_keeps {r s a1} (h : Keeps r s) : Keeps r (retireNow s a1) := by
  unfold retireNow
  try dsimp only
  repeat'
    first
      | with_reducible assumption
      | with_reducible exact Keeps.rfl' _
      | with_reducible refine fset_keeps ?_
      | with_reducible refine bookA_keeps ?_
      | with_reducible refine emit_keeps ?_

theorem requestRetire_keeps {r s a1} (h : Keeps r s) : Keeps r (requestRetire s a1) := by
  unfold requestRetire
  try dsimp only
  repeat'
    first
      | with_reducible assumption
      | with_reducible exact Keeps.rfl' _
      | with_reducible refine retireNow_keeps ?_
      | with_reducible refine emit_keeps ?_
      | with_reducible refine fset_keeps ?_
      | with_reducible refine Keeps.foldl _ ?_ (fun _ _ _ => ?_)
      | with_reducible refine Keeps.ite (fun _ => ?_) (fun _ => ?_)

theorem thresholdCrossed_keeps {r s a1} (h : Keeps r s) : Keeps r (thresholdCrossed s a1) := by
  unfold thresholdCrossed
  try dsimp only
  repeat'
    first
      | with_reducible assumption
      | with_reducible exact Keeps.rfl' _
      | with_reducible refine requestRetire_keeps ?_
      | with_reducible refine emit_keeps ?_
      | with_reducible refine Keeps.foldl _ ?_ (fun _ _ _ => ?_)
      | with_reducible refine Keeps.ite (fun _ => ?_) (fun _ => ?_)

theorem noteCorr_keeps {r s a1} (h : Keeps r s) : Keeps r (noteCorr s a1) := by
  unfold noteCorr
  try dsimp only
  repeat'
    first
      | with_reducible assumption
      | with_reducible exact Keeps.rfl' _
      | with_reducible refine tset_keeps ?_
      | with_reducible refine thresholdCrossed_keeps ?_
      | with_reducible refine Keeps.foldl _ ?_ (fun _ _ _ => ?_)
      | with_reducible refine Keeps.ite (fun _ => ?_) (fun _ => ?_)

theorem noteUncorr_keeps {r s a1 a2} (h : Keeps r s) : Keeps r (noteUncorr s a1 a2) := by
  unfold noteUncorr
  try dsimp only
  repeat'
    first
      | with_reducible assumption
      | with_reducible exact Keeps.rfl' _
      | with_reducible refine tset_keeps ?_
      | with_reducible refine thresholdCrossed_keeps ?_
      | with_reducible refine Keeps.foldl _ ?_ (fun _ _ _ => ?_)
      | with_reducible refine Keeps.ite (fun _ => ?_) (fun _ => ?_)

theorem applyUpsets_keeps {r s a1 a2} (h : Keeps r s) : Keeps r (applyUpsets s a1 a2) := by
  unfold applyUpsets
  try dsimp only
  repeat'
    first
      | with_reducible assumption
      | with_reducible exact Keeps.rfl' _
      | with_reducible refine tset_keeps ?_
      | with_reducible refine Keeps.foldl _ ?_ (fun _ _ _ => ?_)
      | with_reducible refine Keeps.ite (fun _ => ?_) (fun _ => ?_)

theorem readBlock_keeps {r s a1 a2} (h : Keeps r s) : Keeps r (readBlock s a1 a2).1 := by
  unfold readBlock
  try dsimp only
  repeat'
    first
      | with_reducible assumption
      | with_reducible exact Keeps.rfl' _
      | with_reducible refine noteCorr_keeps ?_
      | with_reducible refine noteUncorr_keeps ?_
      | with_reducible refine Keeps.foldl _ ?_ (fun _ _ _ => ?_)
      | with_reducible refine Keeps.ite (fun _ => ?_) (fun _ => ?_)
      | (fail_if_no_progress with_reducible refine Keeps.upd (hd := rfl) ?_)
      | split

theorem readBlock_keepsP {r s a1 a2 t x} (h : Keeps r s) (e : readBlock s a1 a2 = (t, x)) : Keeps r t := by
  have := readBlock_keeps (a1 := a1) (a2 := a2) h
  rw [e] at this
  exact this

theorem writeBlock_keeps {r s a1 a2 a3 a4} (h : Keeps r s) : Keeps r (writeBlock s a1 a2 a3 a4) := by
  unfold writeBlock
  try dsimp only
  repeat'
    first
      | with_reducible assumption
      | with_reducible exact Keeps.rfl' _
      | with_reducible refine tset_keeps ?_

theorem writeProg_keeps {r s a1 a2 a3} (h : Keeps r s) : Keeps r (writeProg s a1 a2 a3) := by
  unfold writeProg
  try dsimp only
  repeat'
    first
      | with_reducible assumption
      | with_reducible exact Keeps.rfl' _
      | with_reducible refine tset_keeps ?_

theorem setArray_keeps {r s a1 a2} (h : Keeps r s) : Keeps r (setArray s a1 a2) := by
  unfold setArray
  try dsimp only
  repeat'
    first
      | with_reducible assumption
      | with_reducible exact Keeps.rfl' _
      | with_reducible refine tset_keeps ?_

theorem layoutError_keeps {r s a1 a2} (h : Keeps r s) : Keeps r (layoutError s a1 a2).1 := by
  unfold layoutError
  try dsimp only
  repeat'
    first
      | with_reducible assumption
      | with_reducible exact Keeps.rfl' _
      | with_reducible refine emit_keeps ?_

theorem layoutError_keepsP {r s a1 a2 t x} (h : Keeps r s) (e : layoutError s a1 a2 = (t, x)) : Keeps r t := by
  have := layoutError_keeps (a1 := a1) (a2 := a2) h
  rw [e] at this
  exact this

theorem feedCorr_keeps {r s a1 a2} (h : Keeps r s) : Keeps r (feedCorr s a1 a2) := by
  unfold feedCorr
  try dsimp only
  repeat'
    first
      | with_reducible assumption
      | with_reducible exact Keeps.rfl' _
      | with_reducible refine orTileFlags_keeps ?_
      | with_reducible refine fcount_keeps ?_
      | with_reducible refine emitLim_keeps ?_
      | with_reducible refine noteCorr_keeps ?_
      | with_reducible refine tset_keeps ?_
      | with_reducible refine Keeps.foldl _ ?_ (fun _ _ _ => ?_)
      | with_reducible refine Keeps.ite (fun _ => ?_) (fun _ => ?_)

theorem feedUncorr_keeps {r s a1 a2} (h : Keeps r s) : Keeps r (feedUncorr s a1 a2) := by
  unfold feedUncorr
  try dsimp only
  repeat'
    first
      | with_reducible assumption
      | with_reducible exact Keeps.rfl' _
      | with_reducible refine fcount_keeps ?_
      | with_reducible refine fset_keeps ?_
      | with_reducible refine emit_keeps ?_
      | with_reducible refine noteUncorr_keeps ?_

theorem feedRead_keeps {r s a1 a2 a3} (h : Keeps r s) : Keeps r (feedRead s a1 a2 a3).1 := by
  unfold feedRead
  try dsimp only
  repeat'
    first
      | with_reducible assumption
      | with_reducible exact Keeps.rfl' _
      | with_reducible refine feedCorr_keeps ?_
      | with_reducible refine feedUncorr_keeps ?_
      | with_reducible refine Keeps.foldl _ ?_ (fun _ _ _ => ?_)
      | with_reducible refine Keeps.ite (fun _ => ?_) (fun _ => ?_)
      | (fail_if_no_progress with_reducible refine Keeps.upd (hd := rfl) ?_)
      | split

theorem feedRead_keepsP {r s a1 a2 a3 t x} (h : Keeps r s) (e : feedRead s a1 a2 a3 = (t, x)) : Keeps r t := by
  have := feedRead_keeps (a1 := a1) (a2 := a2) (a3 := a3) h
  rw [e] at this
  exact this

theorem readList_keeps {r s a1 a2 a3} (h : Keeps r s) : Keeps r (readList s a1 a2 a3).1 := by
  unfold readList
  try dsimp only
  repeat'
    first
      | with_reducible assumption
      | with_reducible exact Keeps.rfl' _
      | with_reducible refine feedRead_keeps ?_
      | with_reducible refine feedRead_keepsP ?_ (by assumption)
      | with_reducible refine layoutError_keeps ?_
      | with_reducible refine layoutError_keepsP ?_ (by assumption)
      | with_reducible refine Keeps.foldl _ ?_ (fun _ _ _ => ?_)
      | with_reducible refine Keeps.ite (fun _ => ?_) (fun _ => ?_)
      | (fail_if_no_progress with_reducible refine Keeps.upd (hd := rfl) ?_)
      | split

theorem readList_keepsP {r s a1 a2 a3 t x} (h : Keeps r s) (e : readList s a1 a2 a3 = (t, x)) : Keeps r t := by
  have := readList_keeps (a1 := a1) (a2 := a2) (a3 := a3) h
  rw [e] at this
  exact this

theorem openGroup_keeps {r s a1 a2} (h : Keeps r s) : Keeps r (openGroup s a1 a2).1 := by
  unfold openGroup
  try dsimp only
  repeat'
    first
      | with_reducible assumption
      | with_reducible exact Keeps.rfl' _
      | with_reducible refine layoutError_keeps ?_
      | with_reducible refine layoutError_keepsP ?_ (by assumption)
      | with_reducible refine readList_keeps ?_
      | with_reducible refine readList_keepsP ?_ (by assumption)
      | with_reducible refine Keeps.foldl _ ?_ (fun _ _ _ => ?_)
      | with_reducible refine Keeps.ite (fun _ => ?_) (fun _ => ?_)
      | (fail_if_no_progress with_reducible refine Keeps.upd (hd := rfl) ?_)
      | split

theorem openGroup_keepsP {r s a1 a2 t x} (h : Keeps r s) (e : openGroup s a1 a2 = (t, x)) : Keeps r t := by
  have := openGroup_keeps (a1 := a1) (a2 := a2) h
  rw [e] at this
  exact this

theorem readLists_keeps {r s a1} (h : Keeps r s) : Keeps r (readLists s a1) := by
  unfold readLists
  try dsimp only
  repeat'
    first
      | with_reducible assumption
      | with_reducible exact Keeps.rfl' _
      | with_reducible refine readList_keeps ?_
      | with_reducible refine readList_keepsP ?_ (by assumption)
      | with_reducible refine setArray_keeps ?_
      | with_reducible refine Keeps.foldl _ ?_ (fun _ _ _ => ?_)
      | with_reducible refine Keeps.ite (fun _ => ?_) (fun _ => ?_)
      | (fail_if_no_progress with_reducible refine Keeps.upd (hd := rfl) ?_)
      | split

theorem enqueue_keeps {r s a1 a2 a3} (h : Keeps r s) : Keeps r (enqueue s a1 a2 a3) := by
  unfold enqueue
  try dsimp only
  repeat'
    first
      | with_reducible assumption
      | with_reducible exact Keeps.rfl' _
      | with_reducible refine setArray_keeps ?_

theorem admitOpener_keeps {r s a1 a2} (h : Keeps r s) : Keeps r (admitOpener s a1 a2) := by
  unfold admitOpener
  try dsimp only
  repeat'
    first
      | with_reducible assumption
      | with_reducible exact Keeps.rfl' _
      | with_reducible refine openGroup_keeps ?_
      | with_reducible refine openGroup_keepsP ?_ (by assumption)
      | with_reducible refine enqueue_keeps ?_
      | with_reducible refine setArray_keeps ?_

theorem feedBlock_keeps {r s a1 a2} (h : Keeps r s) : Keeps r (feedBlock s a1 a2).1 := by
  unfold feedBlock
  try dsimp only
  repeat'
    first
      | with_reducible assumption
      | with_reducible exact Keeps.rfl' _
      | with_reducible refine feedRead_keeps ?_
      | with_reducible refine feedRead_keepsP ?_ (by assumption)
      | with_reducible refine fresh_keeps ?_
      | with_reducible refine Keeps.foldl _ ?_ (fun _ _ _ => ?_)
      | with_reducible refine Keeps.ite (fun _ => ?_) (fun _ => ?_)
      | (fail_if_no_progress with_reducible refine Keeps.upd (hd := rfl) ?_)
      | split

theorem feedBlock_keepsP {r s a1 a2 t x} (h : Keeps r s) (e : feedBlock s a1 a2 = (t, x)) : Keeps r t := by
  have := feedBlock_keeps (a1 := a1) (a2 := a2) h
  rw [e] at this
  exact this

theorem feedAll_keeps {r t} {l} : ∀ {s}, Keeps r s → Keeps r (feedAll s t l).1 := by
  induction l with
  | nil => exact id
  | cons c l ih =>
    intro s h
    unfold feedAll
    dsimp only
    split <;> exact ih (feedBlock_keeps h)

theorem feedAll_keepsP {r s t l u x} (h : Keeps r s) (e : feedAll s t l = (u, x)) : Keeps r u := by
  have := feedAll_keeps (t := t) (l := l) h
  rw [e] at this
  exact this

theorem runInstr_keeps {r s t g q get} (h : Keeps r s) : Keeps r (runInstr s t g q get).1 := by
  unfold runInstr
  split
  · exact layoutError_keeps h
  · split <;> exact h

theorem runInstr_keepsP {r s t g q get u x} (h : Keeps r s) (e : runInstr s t g q get = (u, x)) : Keeps r u := by
  have := runInstr_keeps (t := t) (g := g) (q := q) (get := get) h
  rw [e] at this
  exact this

theorem instrComplete_keeps {r s a1 a2} (h : Keeps r s) : Keeps r (instrComplete s a1 a2) := by
  unfold instrComplete
  try dsimp only
  repeat'
    first
      | with_reducible assumption
      | with_reducible exact Keeps.rfl' _
      | with_reducible refine feedAll_keeps ?_
      | with_reducible refine feedAll_keepsP ?_ (by assumption)
      | with_reducible refine fcount_keeps ?_
      | with_reducible refine setArray_keeps ?_
      | with_reducible refine runInstr_keeps ?_
      | with_reducible refine runInstr_keepsP ?_ (by assumption)
      | with_reducible refine Keeps.foldl _ ?_ (fun _ _ _ => ?_)
      | with_reducible refine Keeps.ite (fun _ => ?_) (fun _ => ?_)
      | (fail_if_no_progress with_reducible refine Keeps.upd (hd := rfl) ?_)
      | split

theorem groupLatch_keeps {r s a1} (h : Keeps r s) : Keeps r (groupLatch s a1) := by
  unfold groupLatch
  try dsimp only
  repeat'
    first
      | with_reducible assumption
      | with_reducible exact Keeps.rfl' _
      | with_reducible refine setArray_keeps ?_
      | with_reducible refine Keeps.foldl _ ?_ (fun _ _ _ => ?_)
      | with_reducible refine Keeps.ite (fun _ => ?_) (fun _ => ?_)
      | (fail_if_no_progress with_reducible refine Keeps.upd (hd := rfl) ?_)
      | split

theorem drainDone_keeps {r s a1} (h : Keeps r s) : Keeps r (drainDone s a1) := by
  unfold drainDone
  try dsimp only
  repeat'
    first
      | with_reducible assumption
      | with_reducible exact Keeps.rfl' _
      | with_reducible refine setArray_keeps ?_
      | with_reducible refine emit_keeps ?_
      | with_reducible refine writeBlock_keeps ?_
      | with_reducible refine orCond_keeps ?_
      | with_reducible refine orTileFlags_keeps ?_
      | with_reducible refine emitLim_keeps ?_
      | with_reducible refine readLists_keeps ?_
      | with_reducible refine Keeps.foldl _ ?_ (fun _ _ _ => ?_)
      | with_reducible refine Keeps.ite (fun _ => ?_) (fun _ => ?_)
      | (fail_if_no_progress with_reducible refine Keeps.upd (hd := rfl) ?_)
      | split

theorem scrubWrite_keeps {r s a1 a2} (h : Keeps r s) : Keeps r (scrubWrite s a1 a2) := by
  unfold scrubWrite
  try dsimp only
  repeat'
    first
      | with_reducible assumption
      | with_reducible exact Keeps.rfl' _
      | with_reducible refine tset_keeps ?_
      | with_reducible refine Keeps.foldl _ ?_ (fun _ _ _ => ?_)
      | with_reducible refine Keeps.ite (fun _ => ?_) (fun _ => ?_)
      | (fail_if_no_progress with_reducible refine Keeps.upd (hd := rfl) ?_)
      | split

theorem leaveArray_keeps {r s a1 a2} (h : Keeps r s) : Keeps r (leaveArray s a1 a2) := by
  unfold leaveArray
  try dsimp only
  repeat'
    first
      | with_reducible assumption
      | with_reducible exact Keeps.rfl' _
      | with_reducible refine setArray_keeps ?_
      | with_reducible refine Keeps.foldl _ ?_ (fun _ _ _ => ?_)
      | with_reducible refine Keeps.ite (fun _ => ?_) (fun _ => ?_)
      | (fail_if_no_progress with_reducible refine Keeps.upd (hd := rfl) ?_)
      | split

theorem faultThread_keeps {r s a1 a2 a3 a4 a5} (h : Keeps r s) : Keeps r (faultThread s a1 a2 a3 a4 a5) := by
  unfold faultThread
  try dsimp only
  repeat'
    first
      | with_reducible assumption
      | with_reducible exact Keeps.rfl' _
      | with_reducible refine leaveArray_keeps ?_
      | with_reducible refine tset_keeps ?_
      | with_reducible refine fset_keeps ?_
      | with_reducible refine emit_keeps ?_
      | with_reducible refine Keeps.foldl _ ?_ (fun _ _ _ => ?_)
      | with_reducible refine Keeps.ite (fun _ => ?_) (fun _ => ?_)

/-- The state that an issue leaves before its end. -/
def IRes.state : IRes → State
  | .go s | .jump s _ | .hold s | .fault s _ _ | .out s _ | .idle s => s

theorem finish_keeps {q t h i} (g : Keeps q (IRes.state i)) : Keeps q (finish t h i) := by
  unfold finish
  cases i
  · exact fcount_keeps (setThread_keeps g)
  · exact fcount_keeps (setThread_keeps g)
  · exact setThread_keeps g
  · exact faultThread_keeps (fcount_keeps g)
  · exact fcount_keeps (fcount_keeps (setThread_keeps g))
  · exact fcount_keeps (setThread_keeps g)

theorem fetch_keeps {r s a1 a2 a3} (h : Keeps r s) : Keeps r (fetch s a1 a2 a3).1 := by
  unfold fetch
  try dsimp only
  repeat'
    first
      | with_reducible assumption
      | with_reducible exact Keeps.rfl' _
      | with_reducible refine tset_keeps ?_
      | with_reducible refine noteUncorr_keeps ?_
      | with_reducible refine noteCorr_keeps ?_
      | with_reducible refine Keeps.foldl _ ?_ (fun _ _ _ => ?_)
      | with_reducible refine Keeps.ite (fun _ => ?_) (fun _ => ?_)
      | (fail_if_no_progress with_reducible refine Keeps.upd (hd := rfl) ?_)
      | split

theorem fetch_keepsP {r s a1 a2 a3 t x} (h : Keeps r s) (e : fetch s a1 a2 a3 = (t, x)) : Keeps r t := by
  have := fetch_keeps (a1 := a1) (a2 := a2) (a3 := a3) h
  rw [e] at this
  exact this

theorem issue_keepsR {r x s body u} (hb : ∀ v t h, Keeps r v → Keeps r (body v t h).state) (h : Keeps r s)
    (e : issue x s body = .next u) : Keeps r u := by
  unfold issue at e
  dsimp only at e
  split at e
  · obtain rfl := Host.Outcome.next.inj e
    exact h
  · split at e
    · obtain rfl := Host.Outcome.next.inj e
      exact finish_keeps (tset_keeps (applyUpsets_keeps h))
    · split at e
      · obtain rfl := Host.Outcome.next.inj e
        exact finish_keeps (hb _ _ _ (fetch_keeps (tset_keeps (applyUpsets_keeps h))))
      · obtain rfl := Host.Outcome.next.inj e
        exact finish_keeps (fetch_keeps (tset_keeps (applyUpsets_keeps h)))

theorem goS_keeps {r s a1 a2 a3 a4} (h : Keeps r s) : Keeps r (goS s a1 a2 a3 a4).state := by
  unfold goS
  try dsimp only
  repeat'
    first
      | with_reducible assumption
      | with_reducible exact Keeps.rfl' _
      | with_reducible refine setThread_keeps ?_
      | with_reducible refine Keeps.foldl _ ?_ (fun _ _ _ => ?_)
      | with_reducible refine Keeps.ite (fun _ => ?_) (fun _ => ?_)
      | (fail_if_no_progress with_reducible refine Keeps.upd (hd := rfl) ?_)
      | split
      | (fail_if_no_progress dsimp only [IRes.state])

theorem branchTo_keeps {r s a1} (h : Keeps r s) : Keeps r (branchTo s a1).state := by
  unfold branchTo
  try dsimp only
  repeat'
    first
      | with_reducible assumption
      | with_reducible exact Keeps.rfl' _
      | with_reducible refine Keeps.foldl _ ?_ (fun _ _ _ => ?_)
      | with_reducible refine Keeps.ite (fun _ => ?_) (fun _ => ?_)
      | (fail_if_no_progress with_reducible refine Keeps.upd (hd := rfl) ?_)
      | split
      | (fail_if_no_progress dsimp only [IRes.state])

theorem holdOpener_keeps {r s a1 a2} (h : Keeps r s) : Keeps r (holdOpener s a1 a2).state := by
  unfold holdOpener
  try dsimp only
  repeat'
    first
      | with_reducible assumption
      | with_reducible exact Keeps.rfl' _
      | with_reducible refine setArray_keeps ?_
      | with_reducible refine Keeps.foldl _ ?_ (fun _ _ _ => ?_)
      | with_reducible refine Keeps.ite (fun _ => ?_) (fun _ => ?_)
      | (fail_if_no_progress with_reducible refine Keeps.upd (hd := rfl) ?_)
      | split
      | (fail_if_no_progress dsimp only [IRes.state])

theorem goLanes_keeps {r s a1 a2 a3 a4} (h : Keeps r s) : Keeps r (goLanes s a1 a2 a3 a4).state := by
  unfold goLanes
  try dsimp only
  repeat'
    first
      | with_reducible assumption
      | with_reducible exact Keeps.rfl' _
      | with_reducible refine setThread_keeps ?_
      | with_reducible refine Keeps.foldl _ ?_ (fun _ _ _ => ?_)
      | with_reducible refine Keeps.ite (fun _ => ?_) (fun _ => ?_)
      | (fail_if_no_progress with_reducible refine Keeps.upd (hd := rfl) ?_)
      | split
      | (fail_if_no_progress dsimp only [IRes.state])

theorem readBlocks_keeps {r t} {n} : ∀ {s b}, Keeps r s → Keeps r (readBlocks s t b n).1 := by
  induction n with
  | zero => exact id
  | succ n ih =>
    intro s b h
    unfold readBlocks
    dsimp only
    split
    · exact readBlock_keeps h
    · exact ih (readBlock_keeps h)

theorem readBlocks_keepsP {r s t b n u x} (h : Keeps r s) (e : readBlocks s t b n = (u, x)) : Keeps r u := by
  have := readBlocks_keeps (t := t) (n := n) (b := b) h
  rw [e] at this
  exact this

theorem tileRefused_keeps {r s a1} (h : Keeps r s) : Keeps r (tileRefused s a1) := by
  unfold tileRefused
  try dsimp only
  repeat'
    first
      | with_reducible assumption
      | with_reducible exact Keeps.rfl' _
      | with_reducible refine emitLim_keeps ?_

theorem tileRun_keeps {r s a1 a2} (h : Keeps r s) : Keeps r (tileRun s a1 a2) := by
  unfold tileRun
  try dsimp only
  repeat'
    first
      | with_reducible assumption
      | with_reducible exact Keeps.rfl' _
      | with_reducible refine fsetb_keeps ?_
      | with_reducible refine Keeps.foldl _ ?_ (fun _ _ _ => ?_)
      | with_reducible refine Keeps.ite (fun _ => ?_) (fun _ => ?_)

theorem tileLoad_keeps {r s a1} (h : Keeps r s) : Keeps r (tileLoad s a1) := by
  unfold tileLoad
  try dsimp only
  repeat'
    first
      | with_reducible assumption
      | with_reducible exact Keeps.rfl' _
      | with_reducible refine fcount_keeps ?_
      | with_reducible refine writeProg_keeps ?_
      | with_reducible refine tset_keeps ?_
      | with_reducible refine Keeps.foldl _ ?_ (fun _ _ _ => ?_)

theorem tileStart_keeps {r s a1} (h : Keeps r s) : Keeps r (tileStart s a1) := by
  unfold tileStart
  try dsimp only
  repeat'
    first
      | with_reducible assumption
      | with_reducible exact Keeps.rfl' _
      | with_reducible refine tileLoad_keeps ?_
      | with_reducible refine tileRefused_keeps ?_
      | with_reducible refine tset_keeps ?_
      | with_reducible refine Keeps.foldl _ ?_ (fun _ _ _ => ?_)
      | with_reducible refine Keeps.ite (fun _ => ?_) (fun _ => ?_)

theorem tileAbort_keeps {r s a1} (h : Keeps r s) : Keeps r (tileAbort s a1) := by
  unfold tileAbort
  try dsimp only
  repeat'
    first
      | with_reducible assumption
      | with_reducible exact Keeps.rfl' _
      | with_reducible refine tset_keeps ?_
      | with_reducible refine Keeps.foldl _ ?_ (fun _ _ _ => ?_)
      | with_reducible refine Keeps.ite (fun _ => ?_) (fun _ => ?_)

theorem tileCntClr_keeps {r s a1} (h : Keeps r s) : Keeps r (tileCntClr s a1) := by
  unfold tileCntClr
  try dsimp only
  repeat'
    first
      | with_reducible assumption
      | with_reducible exact Keeps.rfl' _
      | with_reducible refine fset_keeps ?_
      | with_reducible refine Keeps.foldl _ ?_ (fun _ _ _ => ?_)
      | with_reducible refine Keeps.ite (fun _ => ?_) (fun _ => ?_)

theorem tileArrayCntClr_keeps {r s a1} (h : Keeps r s) : Keeps r (tileArrayCntClr s a1) := by
  unfold tileArrayCntClr
  try dsimp only
  repeat'
    first
      | with_reducible assumption
      | with_reducible exact Keeps.rfl' _
      | with_reducible refine fset_keeps ?_
      | with_reducible refine Keeps.foldl _ ?_ (fun _ _ _ => ?_)
      | with_reducible refine Keeps.ite (fun _ => ?_) (fun _ => ?_)

end Sys2Proof.Machine
end

