-- ==== Sys2Proof/Laws/KeepsDepot.lean ====
section
/-!
SUPPORT. What the functions of the depot keep.
-/

namespace Sys2Proof.Machine

theorem bookChannel_keeps {r s a1} (h : Keeps r s) : Keeps r (bookChannel s a1) := by
  unfold bookChannel
  try dsimp only
  repeat'
    first
      | with_reducible assumption
      | with_reducible exact Keeps.rfl' _
      | with_reducible refine bookA_keeps ?_

theorem startRetrain_keeps {r s a1} (h : Keeps r s) : Keeps r (startRetrain s a1) := by
  unfold startRetrain
  try dsimp only
  repeat'
    first
      | with_reducible assumption
      | with_reducible exact Keeps.rfl' _
      | with_reducible refine fcount_keeps ?_
      | with_reducible refine fset_keeps ?_
      | with_reducible refine Keeps.foldl _ ?_ (fun _ _ _ => ?_)
      | with_reducible refine Keeps.ite (fun _ => ?_) (fun _ => ?_)

theorem useSpare_keeps {r s a1 a2} (h : Keeps r s) : Keeps r (useSpare s a1 a2) := by
  unfold useSpare
  try dsimp only
  repeat'
    first
      | with_reducible assumption
      | with_reducible exact Keeps.rfl' _
      | with_reducible refine fset_keeps ?_
      | with_reducible refine emit_keeps ?_

theorem useErasure_keeps {r s a1 a2} (h : Keeps r s) : Keeps r (useErasure s a1 a2) := by
  unfold useErasure
  try dsimp only
  repeat'
    first
      | with_reducible assumption
      | with_reducible exact Keeps.rfl' _
      | with_reducible refine fset_keeps ?_

theorem failChannel_keeps {r s a1} (h : Keeps r s) : Keeps r (failChannel s a1) := by
  unfold failChannel
  try dsimp only
  repeat'
    first
      | with_reducible assumption
      | with_reducible exact Keeps.rfl' _
      | with_reducible refine fset_keeps ?_
      | with_reducible refine emit_keeps ?_

theorem failVia_keeps {r s a1 a2 a3} (h : Keeps r s) : Keeps r (failVia s a1 a2 a3) := by
  unfold failVia
  try dsimp only
  repeat'
    first
      | with_reducible assumption
      | with_reducible exact Keeps.rfl' _
      | with_reducible refine emit_keeps ?_
      | with_reducible refine bookChannel_keeps ?_
      | with_reducible refine useSpare_keeps ?_
      | with_reducible refine useErasure_keeps ?_
      | with_reducible refine failChannel_keeps ?_
      | with_reducible refine Keeps.foldl _ ?_ (fun _ _ _ => ?_)
      | with_reducible refine Keeps.ite (fun _ => ?_) (fun _ => ?_)

theorem markVia_keeps {r s a1 a2 a3} (h : Keeps r s) : Keeps r (markVia s a1 a2 a3) := by
  unfold markVia
  try dsimp only
  repeat'
    first
      | with_reducible assumption
      | with_reducible exact Keeps.rfl' _
      | with_reducible refine failVia_keeps ?_
      | with_reducible refine startRetrain_keeps ?_
      | with_reducible refine Keeps.foldl _ ?_ (fun _ _ _ => ?_)
      | with_reducible refine Keeps.ite (fun _ => ?_) (fun _ => ?_)

theorem noteSymbol_keeps {r s a1 a2} (h : Keeps r s) : Keeps r (noteSymbol s a1 a2) := by
  unfold noteSymbol
  try dsimp only
  repeat'
    first
      | with_reducible assumption
      | with_reducible exact Keeps.rfl' _
      | with_reducible refine fset_keeps ?_
      | with_reducible refine markVia_keeps ?_
      | with_reducible refine Keeps.foldl _ ?_ (fun _ _ _ => ?_)
      | with_reducible refine Keeps.ite (fun _ => ?_) (fun _ => ?_)
      | (fail_if_no_progress with_reducible refine Keeps.upd (hd := rfl) ?_)

theorem noteCorrected_keeps {r s a1 a2} (h : Keeps r s) : Keeps r (noteCorrected s a1 a2) := by
  unfold noteCorrected
  try dsimp only
  repeat'
    first
      | with_reducible assumption
      | with_reducible exact Keeps.rfl' _
      | with_reducible refine fcount_keeps ?_
      | with_reducible refine emitLim_keeps ?_
      | with_reducible refine noteSymbol_keeps ?_
      | with_reducible refine Keeps.foldl _ ?_ (fun _ _ _ => ?_)

theorem noteLost_keeps {r s a1} (h : Keeps r s) : Keeps r (noteLost s a1) := by
  unfold noteLost
  try dsimp only
  repeat'
    first
      | with_reducible assumption
      | with_reducible exact Keeps.rfl' _
      | with_reducible refine fset_keeps ?_
      | with_reducible refine emit_keeps ?_
      | with_reducible refine fcount_keeps ?_

theorem noteUncorrectable_keeps {r s a1} (h : Keeps r s) : Keeps r (noteUncorrectable s a1) := by
  unfold noteUncorrectable
  try dsimp only
  repeat'
    first
      | with_reducible assumption
      | with_reducible exact Keeps.rfl' _
      | with_reducible refine fcount_keeps ?_
      | with_reducible refine noteLost_keeps ?_

theorem setLineErr_keeps {r s a1 a2} (h : Keeps r s) : Keeps r (setLineErr s a1 a2) := by
  unfold setLineErr
  try dsimp only
  repeat'
    first
      | with_reducible assumption
      | with_reducible exact Keeps.rfl' _
      | with_reducible refine Keeps.foldl _ ?_ (fun _ _ _ => ?_)
      | with_reducible refine Keeps.ite (fun _ => ?_) (fun _ => ?_)
      | (fail_if_no_progress with_reducible refine Keeps.upd (hd := rfl) ?_)

theorem repair_keeps {r s a1 a2} (h : Keeps r s) : Keeps r (repair s a1 a2) := by
  unfold repair
  try dsimp only
  repeat'
    first
      | with_reducible assumption
      | with_reducible exact Keeps.rfl' _
      | with_reducible refine setLineErr_keeps ?_
      | with_reducible refine setDepLine_keeps ?_

theorem stackRead_keeps {r s a1 a2 a3} (h : Keeps r s) : Keeps r (stackRead s a1 a2 a3).1 := by
  unfold stackRead
  try dsimp only
  repeat'
    first
      | with_reducible assumption
      | with_reducible exact Keeps.rfl' _
      | with_reducible refine noteUncorrectable_keeps ?_
      | with_reducible refine repair_keeps ?_
      | with_reducible refine noteCorrected_keeps ?_
      | with_reducible refine setLineErr_keeps ?_
      | with_reducible refine Keeps.foldl _ ?_ (fun _ _ _ => ?_)
      | with_reducible refine Keeps.ite (fun _ => ?_) (fun _ => ?_)
      | (fail_if_no_progress with_reducible refine Keeps.upd (hd := rfl) ?_)
      | split

theorem stackRead_keepsP {r s a1 a2 a3 t x} (h : Keeps r s) (e : stackRead s a1 a2 a3 = (t, x)) : Keeps r t := by
  have := stackRead_keeps (a1 := a1) (a2 := a2) (a3 := a3) h
  rw [e] at this
  exact this

theorem setLineSet_keeps {r s a1 a2} (h : Keeps r s) : Keeps r (setLineSet s a1 a2) := by
  unfold setLineSet
  try dsimp only
  repeat'
    first
      | with_reducible assumption
      | with_reducible exact Keeps.rfl' _
      | with_reducible refine Keeps.foldl _ ?_ (fun _ _ _ => ?_)
      | with_reducible refine Keeps.ite (fun _ => ?_) (fun _ => ?_)
      | (fail_if_no_progress with_reducible refine Keeps.upd (hd := rfl) ?_)

theorem touch_keeps {r s a1 a2} (h : Keeps r s) : Keeps r (touch s a1 a2) := by
  unfold touch
  try dsimp only
  repeat'
    first
      | with_reducible assumption
      | with_reducible exact Keeps.rfl' _
      | with_reducible refine setLineSet_keeps ?_
      | with_reducible refine Keeps.foldl _ ?_ (fun _ _ _ => ?_)
      | with_reducible refine Keeps.ite (fun _ => ?_) (fun _ => ?_)
      | (fail_if_no_progress with_reducible refine Keeps.upd (hd := rfl) ?_)
      | split

theorem setCopyErr_keeps {r s a1 a2} (h : Keeps r s) : Keeps r (setCopyErr s a1 a2) := by
  unfold setCopyErr
  try dsimp only
  repeat'
    first
      | with_reducible assumption
      | with_reducible exact Keeps.rfl' _
      | with_reducible refine Keeps.foldl _ ?_ (fun _ _ _ => ?_)
      | with_reducible refine Keeps.ite (fun _ => ?_) (fun _ => ?_)
      | (fail_if_no_progress with_reducible refine Keeps.upd (hd := rfl) ?_)

theorem dropCached_keeps {r s a1} (h : Keeps r s) : Keeps r (dropCached s a1) := by
  unfold dropCached
  try dsimp only
  repeat'
    first
      | with_reducible assumption
      | with_reducible exact Keeps.rfl' _
      | with_reducible refine setCopyErr_keeps ?_
      | with_reducible refine setLineSet_keeps ?_
      | with_reducible refine Keeps.foldl _ ?_ (fun _ _ _ => ?_)
      | with_reducible refine Keeps.ite (fun _ => ?_) (fun _ => ?_)
      | (fail_if_no_progress with_reducible refine Keeps.upd (hd := rfl) ?_)
      | split

theorem writeBack_keeps {r s a1 a2} (h : Keeps r s) : Keeps r (writeBack s a1 a2) := by
  unfold writeBack
  try dsimp only
  repeat'
    first
      | with_reducible assumption
      | with_reducible exact Keeps.rfl' _
      | with_reducible refine repair_keeps ?_
      | with_reducible refine fcount_keeps ?_
      | with_reducible refine noteLost_keeps ?_
      | with_reducible refine setLineErr_keeps ?_
      | with_reducible refine setDepLine_keeps ?_
      | with_reducible refine Keeps.foldl _ ?_ (fun _ _ _ => ?_)
      | with_reducible refine Keeps.ite (fun _ => ?_) (fun _ => ?_)
      | (fail_if_no_progress with_reducible refine Keeps.upd (hd := rfl) ?_)
      | split

theorem allocate_keeps {r s a1 a2} (h : Keeps r s) : Keeps r (allocate s a1 a2) := by
  unfold allocate
  try dsimp only
  repeat'
    first
      | with_reducible assumption
      | with_reducible exact Keeps.rfl' _
      | with_reducible refine setLineSet_keeps ?_
      | with_reducible refine setCopyErr_keeps ?_
      | with_reducible refine writeBack_keeps ?_
      | with_reducible refine Keeps.foldl _ ?_ (fun _ _ _ => ?_)
      | with_reducible refine Keeps.ite (fun _ => ?_) (fun _ => ?_)
      | (fail_if_no_progress with_reducible refine Keeps.upd (hd := rfl) ?_)
      | split

theorem commandWritten_keeps {r s a1 a2} (h : Keeps r s) : Keeps r (commandWritten s a1 a2) := by
  unfold commandWritten
  try dsimp only
  repeat'
    first
      | with_reducible assumption
      | with_reducible exact Keeps.rfl' _
      | with_reducible refine Keeps.foldl _ ?_ (fun _ _ _ => ?_)
      | with_reducible refine Keeps.ite (fun _ => ?_) (fun _ => ?_)
      | (fail_if_no_progress with_reducible refine Keeps.upd (hd := rfl) ?_)
      | split

theorem answer_keeps {r s a1 a2} (h : Keeps r s) : Keeps r (answer s a1 a2) := by
  unfold answer
  try dsimp only
  repeat'
    first
      | with_reducible assumption
      | with_reducible exact Keeps.rfl' _
      | with_reducible refine send_keeps ?_
      | with_reducible refine commandWritten_keeps ?_
      | with_reducible refine Keeps.foldl _ ?_ (fun _ _ _ => ?_)
      | with_reducible refine Keeps.ite (fun _ => ?_) (fun _ => ?_)
      | (fail_if_no_progress with_reducible refine Keeps.upd (hd := rfl) ?_)
      | split

theorem enterDir_keeps {r s a1 a2} (h : Keeps r s) : Keeps r (enterDir s a1 a2) := by
  unfold enterDir
  try dsimp only
  repeat'
    first
      | with_reducible assumption
      | with_reducible exact Keeps.rfl' _
      | with_reducible refine Keeps.foldl _ ?_ (fun _ _ _ => ?_)
      | with_reducible refine Keeps.ite (fun _ => ?_) (fun _ => ?_)
      | (fail_if_no_progress with_reducible refine Keeps.upd (hd := rfl) ?_)

theorem perform_keeps {r s a1} (h : Keeps r s) : Keeps r (perform s a1) := by
  unfold perform
  try dsimp only
  repeat'
    first
      | with_reducible assumption
      | with_reducible exact Keeps.rfl' _
      | with_reducible refine emitLim_keeps ?_
      | with_reducible refine fcount_keeps ?_
      | with_reducible refine depWrite_keeps ?_
      | with_reducible refine touch_keeps ?_
      | with_reducible refine enterDir_keeps ?_
      | with_reducible refine setLineErr_keeps ?_
      | with_reducible refine dropCached_keeps ?_
      | with_reducible refine answer_keeps ?_
      | with_reducible refine Keeps.foldl _ ?_ (fun _ _ _ => ?_)
      | with_reducible refine Keeps.ite (fun _ => ?_) (fun _ => ?_)
      | (fail_if_no_progress with_reducible refine Keeps.upd (hd := rfl) ?_)
      | split

theorem performLine_keeps {r s a1} (h : Keeps r s) : Keeps r (performLine s a1) := by
  unfold performLine
  try dsimp only
  repeat'
    first
      | with_reducible assumption
      | with_reducible exact Keeps.rfl' _
      | with_reducible refine perform_keeps ?_
      | with_reducible refine setLineErr_keeps ?_

theorem hitCopy_keeps {r s a1 a2} (h : Keeps r s) : Keeps r (hitCopy s a1 a2) := by
  unfold hitCopy
  try dsimp only
  repeat'
    first
      | with_reducible assumption
      | with_reducible exact Keeps.rfl' _
      | with_reducible refine setCopyErr_keeps ?_
      | with_reducible refine Keeps.foldl _ ?_ (fun _ _ _ => ?_)
      | with_reducible refine Keeps.ite (fun _ => ?_) (fun _ => ?_)

theorem cacheDamage_keeps {r s a1} (h : Keeps r s) : Keeps r (cacheDamage s a1) := by
  unfold cacheDamage
  try dsimp only
  repeat'
    first
      | with_reducible assumption
      | with_reducible exact Keeps.rfl' _
      | with_reducible refine setCopyErr_keeps ?_
      | with_reducible refine setDepLine_keeps ?_
      | with_reducible refine fcount_keeps ?_
      | with_reducible refine dropCached_keeps ?_
      | with_reducible refine writeBack_keeps ?_
      | with_reducible refine Keeps.foldl _ ?_ (fun _ _ _ => ?_)
      | with_reducible refine Keeps.ite (fun _ => ?_) (fun _ => ?_)
      | (fail_if_no_progress with_reducible refine Keeps.upd (hd := rfl) ?_)
      | split

theorem serveNow_keeps {r s a1} (h : Keeps r s) : Keeps r (serveNow s a1) := by
  unfold serveNow
  try dsimp only
  repeat'
    first
      | with_reducible assumption
      | with_reducible exact Keeps.rfl' _
      | with_reducible refine setCopyErr_keeps ?_
      | with_reducible refine cacheDamage_keeps ?_
      | with_reducible refine perform_keeps ?_
      | with_reducible refine performLine_keeps ?_
      | with_reducible refine Keeps.foldl _ ?_ (fun _ _ _ => ?_)
      | with_reducible refine Keeps.ite (fun _ => ?_) (fun _ => ?_)
      | (fail_if_no_progress with_reducible refine Keeps.upd (hd := rfl) ?_)

theorem waitRecall_keeps {r s a1 a2 a3} (h : Keeps r s) : Keeps r (waitRecall s a1 a2 a3) := by
  unfold waitRecall
  try dsimp only
  repeat'
    first
      | with_reducible assumption
      | with_reducible exact Keeps.rfl' _
      | with_reducible refine Keeps.foldl _ ?_ (fun _ _ _ => ?_)
      | with_reducible refine Keeps.ite (fun _ => ?_) (fun _ => ?_)
      | (fail_if_no_progress with_reducible refine Keeps.upd (hd := rfl) ?_)

theorem serve_keeps {r s a1} (h : Keeps r s) : Keeps r (serve s a1) := by
  unfold serve
  try dsimp only
  repeat'
    first
      | with_reducible assumption
      | with_reducible exact Keeps.rfl' _
      | with_reducible refine waitRecall_keeps ?_
      | with_reducible refine serveNow_keeps ?_
      | with_reducible refine Keeps.foldl _ ?_ (fun _ _ _ => ?_)
      | with_reducible refine Keeps.ite (fun _ => ?_) (fun _ => ?_)
      | (fail_if_no_progress with_reducible refine Keeps.upd (hd := rfl) ?_)
      | split

theorem closeRecall_keeps {r s a1} (h : Keeps r s) : Keeps r (closeRecall s a1) := by
  unfold closeRecall
  try dsimp only
  repeat'
    first
      | with_reducible assumption
      | with_reducible exact Keeps.rfl' _
      | with_reducible refine serve_keeps ?_
      | with_reducible refine Keeps.foldl _ ?_ (fun _ _ _ => ?_)
      | with_reducible refine Keeps.ite (fun _ => ?_) (fun _ => ?_)
      | (fail_if_no_progress with_reducible refine Keeps.upd (hd := rfl) ?_)

theorem placeBlock_keeps {r s a1 a2 a3} (h : Keeps r s) : Keeps r (placeBlock s a1 a2 a3) := by
  unfold placeBlock
  try dsimp only
  repeat'
    first
      | with_reducible assumption
      | with_reducible exact Keeps.rfl' _
      | with_reducible refine emitLim_keeps ?_
      | with_reducible refine Keeps.foldl _ ?_ (fun _ _ _ => ?_)
      | with_reducible refine Keeps.ite (fun _ => ?_) (fun _ => ?_)
      | (fail_if_no_progress with_reducible refine Keeps.upd (hd := rfl) ?_)

theorem bookDelay_keeps {r s a1} (h : Keeps r s) : Keeps r (bookDelay s a1).1 := by
  unfold bookDelay
  try dsimp only
  repeat'
    first
      | with_reducible assumption
      | with_reducible exact Keeps.rfl' _
      | with_reducible refine Keeps.foldl _ ?_ (fun _ _ _ => ?_)
      | with_reducible refine Keeps.ite (fun _ => ?_) (fun _ => ?_)
      | (fail_if_no_progress with_reducible refine Keeps.upd (hd := rfl) ?_)
      | split

theorem bookDelay_keepsP {r s a1 t x} (h : Keeps r s) (e : bookDelay s a1 = (t, x)) : Keeps r t := by
  have := bookDelay_keeps (a1 := a1) h
  rw [e] at this
  exact this

theorem refuseWith_keeps {r s a1 a2} (h : Keeps r s) : Keeps r (refuseWith s a1 a2) := by
  unfold refuseWith
  try dsimp only
  repeat'
    first
      | with_reducible assumption
      | with_reducible exact Keeps.rfl' _
      | with_reducible refine fcount_keeps ?_
      | with_reducible refine placeBlock_keeps ?_
      | with_reducible refine answer_keeps ?_
      | with_reducible refine Keeps.foldl _ ?_ (fun _ _ _ => ?_)
      | with_reducible refine Keeps.ite (fun _ => ?_) (fun _ => ?_)
      | (fail_if_no_progress with_reducible refine Keeps.upd (hd := rfl) ?_)
      | split

theorem refuse_keeps {r s a1} (h : Keeps r s) : Keeps r (refuse s a1) := by
  unfold refuse
  try dsimp only
  repeat'
    first
      | with_reducible assumption
      | with_reducible exact Keeps.rfl' _
      | with_reducible refine bookDelay_keeps ?_
      | with_reducible refine bookDelay_keepsP ?_ (by assumption)
      | with_reducible refine refuseWith_keeps ?_

theorem liftBlock_keeps {r s a1} (h : Keeps r s) : Keeps r (liftBlock s a1) := by
  unfold liftBlock
  try dsimp only
  repeat'
    first
      | with_reducible assumption
      | with_reducible exact Keeps.rfl' _
      | with_reducible refine Keeps.foldl _ ?_ (fun _ _ _ => ?_)
      | with_reducible refine Keeps.ite (fun _ => ?_) (fun _ => ?_)
      | (fail_if_no_progress with_reducible refine Keeps.upd (hd := rfl) ?_)
      | split

theorem giveQueue_keeps {r s a1} (h : Keeps r s) : Keeps r (giveQueue s a1) := by
  unfold giveQueue
  try dsimp only
  repeat'
    first
      | with_reducible assumption
      | with_reducible exact Keeps.rfl' _
      | with_reducible refine fset_keeps ?_
      | with_reducible refine Keeps.foldl _ ?_ (fun _ _ _ => ?_)
      | with_reducible refine Keeps.ite (fun _ => ?_) (fun _ => ?_)
      | (fail_if_no_progress with_reducible refine Keeps.upd (hd := rfl) ?_)

theorem enqueueHot_keeps {r s a1} (h : Keeps r s) : Keeps r (enqueueHot s a1) := by
  unfold enqueueHot
  try dsimp only
  repeat'
    first
      | with_reducible assumption
      | with_reducible exact Keeps.rfl' _
      | with_reducible refine refuse_keeps ?_
      | with_reducible refine liftBlock_keeps ?_
      | with_reducible refine Keeps.foldl _ ?_ (fun _ _ _ => ?_)
      | with_reducible refine Keeps.ite (fun _ => ?_) (fun _ => ?_)
      | (fail_if_no_progress with_reducible refine Keeps.upd (hd := rfl) ?_)
      | split

theorem stall_keeps {r s a1} (h : Keeps r s) : Keeps r (stall s a1) := by
  unfold stall
  try dsimp only
  repeat'
    first
      | with_reducible assumption
      | with_reducible exact Keeps.rfl' _
      | with_reducible refine Keeps.foldl _ ?_ (fun _ _ _ => ?_)
      | with_reducible refine Keeps.ite (fun _ => ?_) (fun _ => ?_)
      | (fail_if_no_progress with_reducible refine Keeps.upd (hd := rfl) ?_)

theorem arrive_keeps {r s a1} (h : Keeps r s) : Keeps r (arrive s a1) := by
  unfold arrive
  try dsimp only
  repeat'
    first
      | with_reducible assumption
      | with_reducible exact Keeps.rfl' _
      | with_reducible refine stall_keeps ?_
      | with_reducible refine answer_keeps ?_
      | with_reducible refine refuse_keeps ?_
      | with_reducible refine enqueueHot_keeps ?_
      | with_reducible refine giveQueue_keeps ?_
      | with_reducible refine refuseWith_keeps ?_
      | with_reducible refine emitLim_keeps ?_
      | with_reducible refine serve_keeps ?_
      | with_reducible refine liftBlock_keeps ?_
      | with_reducible refine Keeps.foldl _ ?_ (fun _ _ _ => ?_)
      | with_reducible refine Keeps.ite (fun _ => ?_) (fun _ => ?_)

theorem restart_keeps {r s} (h : Keeps r s) : Keeps r (restart s) := by
  unfold restart
  try dsimp only
  repeat'
    first
      | with_reducible assumption
      | with_reducible exact Keeps.rfl' _
      | with_reducible refine arrive_keeps ?_
      | with_reducible refine Keeps.foldl _ ?_ (fun _ _ _ => ?_)
      | with_reducible refine Keeps.ite (fun _ => ?_) (fun _ => ?_)
      | (fail_if_no_progress with_reducible refine Keeps.upd (hd := rfl) ?_)

theorem fillDone_keeps {r s a1 a2 a3 a4} (h : Keeps r s) : Keeps r (fillDone s a1 a2 a3 a4) := by
  unfold fillDone
  try dsimp only
  repeat'
    first
      | with_reducible assumption
      | with_reducible exact Keeps.rfl' _
      | with_reducible refine performLine_keeps ?_
      | with_reducible refine stackRead_keeps ?_
      | with_reducible refine stackRead_keepsP ?_ (by assumption)
      | with_reducible refine answer_keeps ?_
      | with_reducible refine perform_keeps ?_
      | with_reducible refine allocate_keeps ?_
      | with_reducible refine Keeps.foldl _ ?_ (fun _ _ _ => ?_)
      | with_reducible refine Keeps.ite (fun _ => ?_) (fun _ => ?_)
      | (fail_if_no_progress with_reducible refine Keeps.upd (hd := rfl) ?_)
      | split

theorem hotSlot_keeps {r s a1} (h : Keeps r s) : Keeps r (hotSlot s a1) := by
  unfold hotSlot
  try dsimp only
  repeat'
    first
      | with_reducible assumption
      | with_reducible exact Keeps.rfl' _
      | with_reducible refine restart_keeps ?_
      | with_reducible refine serve_keeps ?_
      | with_reducible refine fcount_keeps ?_
      | with_reducible refine Keeps.foldl _ ?_ (fun _ _ _ => ?_)
      | with_reducible refine Keeps.ite (fun _ => ?_) (fun _ => ?_)
      | (fail_if_no_progress with_reducible refine Keeps.upd (hd := rfl) ?_)
      | split

theorem hotRelease_keeps {r s a1} (h : Keeps r s) : Keeps r (hotRelease s a1) := by
  unfold hotRelease
  try dsimp only
  repeat'
    first
      | with_reducible assumption
      | with_reducible exact Keeps.rfl' _
      | with_reducible refine restart_keeps ?_
      | with_reducible refine Keeps.foldl _ ?_ (fun _ _ _ => ?_)
      | with_reducible refine Keeps.ite (fun _ => ?_) (fun _ => ?_)
      | (fail_if_no_progress with_reducible refine Keeps.upd (hd := rfl) ?_)
      | split

theorem closureMove_keeps {r s a1} (h : Keeps r s) : Keeps r (closureMove s a1) := by
  unfold closureMove
  try dsimp only
  repeat'
    first
      | with_reducible assumption
      | with_reducible exact Keeps.rfl' _
      | with_reducible refine restart_keeps ?_
      | with_reducible refine Keeps.foldl _ ?_ (fun _ _ _ => ?_)
      | with_reducible refine Keeps.ite (fun _ => ?_) (fun _ => ?_)
      | (fail_if_no_progress with_reducible refine Keeps.upd (hd := rfl) ?_)
      | split

theorem retrainDone_keeps {r s a1 a2} (h : Keeps r s) : Keeps r (retrainDone s a1 a2) := by
  unfold retrainDone
  try dsimp only
  repeat'
    first
      | with_reducible assumption
      | with_reducible exact Keeps.rfl' _
      | with_reducible refine fset_keeps ?_
      | with_reducible refine failVia_keeps ?_
      | with_reducible refine performLine_keeps ?_
      | with_reducible refine Keeps.foldl _ ?_ (fun _ _ _ => ?_)
      | with_reducible refine Keeps.ite (fun _ => ?_) (fun _ => ?_)
      | (fail_if_no_progress with_reducible refine Keeps.upd (hd := rfl) ?_)
      | split

theorem depCntClr_keeps {r s a1} (h : Keeps r s) : Keeps r (depCntClr s a1) := by
  unfold depCntClr
  try dsimp only
  repeat'
    first
      | with_reducible assumption
      | with_reducible exact Keeps.rfl' _
      | with_reducible refine fset_keeps ?_

theorem scrubNow_keeps {r s a1} (h : Keeps r s) : Keeps r (scrubNow s a1) := by
  unfold scrubNow
  try dsimp only
  repeat'
    first
      | with_reducible assumption
      | with_reducible exact Keeps.rfl' _
      | with_reducible refine Keeps.foldl _ ?_ (fun _ _ _ => ?_)
      | with_reducible refine Keeps.ite (fun _ => ?_) (fun _ => ?_)
      | (fail_if_no_progress with_reducible refine Keeps.upd (hd := rfl) ?_)

theorem scrubAccess_keeps {r s a1 a2 a3} (h : Keeps r s) : Keeps r (scrubAccess s a1 a2 a3) := by
  unfold scrubAccess
  try dsimp only
  repeat'
    first
      | with_reducible assumption
      | with_reducible exact Keeps.rfl' _
      | with_reducible refine stackRead_keeps ?_
      | with_reducible refine stackRead_keepsP ?_ (by assumption)
      | with_reducible refine setLineErr_keeps ?_
      | with_reducible refine setDepLine_keeps ?_
      | with_reducible refine fcount_keeps ?_
      | with_reducible refine Keeps.foldl _ ?_ (fun _ _ _ => ?_)
      | with_reducible refine Keeps.ite (fun _ => ?_) (fun _ => ?_)
      | (fail_if_no_progress with_reducible refine Keeps.upd (hd := rfl) ?_)

theorem unitRead_keeps {r s a1} (h : Keeps r s) : Keeps r (unitRead s a1).1 := by
  unfold unitRead
  try dsimp only
  repeat'
    first
      | with_reducible assumption
      | with_reducible exact Keeps.rfl' _
      | with_reducible refine cacheDamage_keeps ?_
      | with_reducible refine touch_keeps ?_
      | with_reducible refine stackRead_keeps ?_
      | with_reducible refine stackRead_keepsP ?_ (by assumption)
      | with_reducible refine allocate_keeps ?_
      | with_reducible refine Keeps.foldl _ ?_ (fun _ _ _ => ?_)
      | with_reducible refine Keeps.ite (fun _ => ?_) (fun _ => ?_)
      | (fail_if_no_progress with_reducible refine Keeps.upd (hd := rfl) ?_)
      | split

theorem unitRead_keepsP {r s a1 t x} (h : Keeps r s) (e : unitRead s a1 = (t, x)) : Keeps r t := by
  have := unitRead_keeps (a1 := a1) h
  rw [e] at this
  exact this

theorem unitReads_keeps {r n} : ∀ {s l}, Keeps r s → Keeps r (unitReads n l s).1 := by
  induction n with
  | zero => exact id
  | succ n ih =>
    intro s l h
    unfold unitReads
    exact ih (unitRead_keeps h)

theorem unitStore_keeps {r s a1 a2 a3} (h : Keeps r s) : Keeps r (unitStore s a1 a2 a3) := by
  unfold unitStore
  try dsimp only
  repeat'
    first
      | with_reducible assumption
      | with_reducible exact Keeps.rfl' _
      | with_reducible refine arrive_keeps ?_

theorem bandAtTraining_keeps {r s a1 a2} (h : Keeps r s) : Keeps r (bandAtTraining s a1 a2) := by
  unfold bandAtTraining
  try dsimp only
  repeat'
    first
      | with_reducible assumption
      | with_reducible exact Keeps.rfl' _
      | with_reducible refine fset_keeps ?_

theorem depBand_keeps {r s a1 a2} (h : Keeps r s) : Keeps r (depBand s a1 a2) := by
  unfold depBand
  try dsimp only
  repeat'
    first
      | with_reducible assumption
      | with_reducible exact Keeps.rfl' _
      | with_reducible refine fset_keeps ?_
      | with_reducible refine emit_keeps ?_
      | with_reducible refine Keeps.foldl _ ?_ (fun _ _ _ => ?_)
      | with_reducible refine Keeps.ite (fun _ => ?_) (fun _ => ?_)
      | (fail_if_no_progress with_reducible refine Keeps.upd (hd := rfl) ?_)

theorem refresh_keeps {r s a1} (h : Keeps r s) : Keeps r (refresh s a1) := by
  unfold refresh
  try dsimp only
  repeat'
    first
      | with_reducible assumption
      | with_reducible exact Keeps.rfl' _
      | with_reducible refine fset_keeps ?_
      | with_reducible refine Keeps.foldl _ ?_ (fun _ _ _ => ?_)
      | with_reducible refine Keeps.ite (fun _ => ?_) (fun _ => ?_)
      | (fail_if_no_progress with_reducible refine Keeps.upd (hd := rfl) ?_)

theorem oset_keeps {r s a1 a2} (h : Keeps r s) : Keeps r (oset s a1 a2) := by
  unfold oset
  try dsimp only
  repeat'
    first
      | with_reducible assumption
      | with_reducible exact Keeps.rfl' _
      | with_reducible refine Keeps.foldl _ ?_ (fun _ _ _ => ?_)
      | with_reducible refine Keeps.ite (fun _ => ?_) (fun _ => ?_)
      | (fail_if_no_progress with_reducible refine Keeps.upd (hd := rfl) ?_)

theorem setLaneRx_keeps {r s a1 a2 a3} (h : Keeps r s) : Keeps r (setLaneRx s a1 a2 a3) := by
  unfold setLaneRx
  try dsimp only
  repeat'
    first
      | with_reducible assumption
      | with_reducible exact Keeps.rfl' _
      | with_reducible refine oset_keeps ?_

theorem laneBit_keeps {r s a1 a2 a3 a4} (h : Keeps r s) : Keeps r (laneBit s a1 a2 a3 a4) := by
  unfold laneBit
  try dsimp only
  repeat'
    first
      | with_reducible assumption
      | with_reducible exact Keeps.rfl' _
      | with_reducible refine fset_keeps ?_

theorem excludeLane_keeps {r s a1 a2 a3} (h : Keeps r s) : Keeps r (excludeLane s a1 a2 a3) := by
  unfold excludeLane
  try dsimp only
  repeat'
    first
      | with_reducible assumption
      | with_reducible exact Keeps.rfl' _
      | with_reducible refine setLaneRx_keeps ?_
      | with_reducible refine laneBit_keeps ?_
      | with_reducible refine emitLim_keeps ?_
      | with_reducible refine Keeps.foldl _ ?_ (fun _ _ _ => ?_)
      | with_reducible refine Keeps.ite (fun _ => ?_) (fun _ => ?_)

theorem restoreLane_keeps {r s a1 a2} (h : Keeps r s) : Keeps r (restoreLane s a1 a2) := by
  unfold restoreLane
  try dsimp only
  repeat'
    first
      | with_reducible assumption
      | with_reducible exact Keeps.rfl' _
      | with_reducible refine setLaneRx_keeps ?_
      | with_reducible refine laneBit_keeps ?_
      | with_reducible refine emitLim_keeps ?_

theorem noteLaneCorr_keeps {r s a1 a2} (h : Keeps r s) : Keeps r (noteLaneCorr s a1 a2) := by
  unfold noteLaneCorr
  try dsimp only
  repeat'
    first
      | with_reducible assumption
      | with_reducible exact Keeps.rfl' _
      | with_reducible refine fcount_keeps ?_
      | with_reducible refine setLaneRx_keeps ?_
      | with_reducible refine excludeLane_keeps ?_
      | with_reducible refine Keeps.foldl _ ?_ (fun _ _ _ => ?_)
      | with_reducible refine Keeps.ite (fun _ => ?_) (fun _ => ?_)

theorem noteSlotCorr_keeps {r s a1 a2} (h : Keeps r s) : Keeps r (noteSlotCorr s a1 a2) := by
  unfold noteSlotCorr
  try dsimp only
  repeat'
    first
      | with_reducible assumption
      | with_reducible exact Keeps.rfl' _
      | with_reducible refine noteLaneCorr_keeps ?_
      | with_reducible refine Keeps.foldl _ ?_ (fun _ _ _ => ?_)
      | with_reducible refine Keeps.ite (fun _ => ?_) (fun _ => ?_)
      | (fail_if_no_progress with_reducible refine Keeps.upd (hd := rfl) ?_)
      | split

end Sys2Proof.Machine
end

