-- ==== Sys2Proof/Laws/KeepsFabric.lean ====
section
/-!
SUPPORT. What the functions of links, the memory space and remote accesses keep.
-/

namespace Sys2Proof.Machine

theorem lset_keeps {r s a1 a2} (h : Keeps r s) : Keeps r (lset s a1 a2) := by
  unfold lset
  try dsimp only
  repeat'
    first
      | with_reducible assumption
      | with_reducible exact Keeps.rfl' _
      | with_reducible refine Keeps.foldl _ ?_ (fun _ _ _ => ?_)
      | with_reducible refine Keeps.ite (fun _ => ?_) (fun _ => ?_)
      | (fail_if_no_progress with_reducible refine Keeps.upd (hd := rfl) ?_)

theorem pumpN_keeps {r p n} : ∀ {s}, Keeps r s → Keeps r (pumpN p n s) := by
  induction n with
  | zero => exact id
  | succ n ih =>
    intro s h
    unfold pumpN
    refine Keeps.ite (fun _ => h) (fun _ => ?_)
    dsimp only
    split
    · exact h
    · exact ih (send_keeps (fcount_keeps (lset_keeps h)))

theorem pump_keeps {r s a1} (h : Keeps r s) : Keeps r (pump s a1) := by
  unfold pump
  try dsimp only
  repeat'
    first
      | with_reducible assumption
      | with_reducible exact Keeps.rfl' _
      | with_reducible refine pumpN_keeps ?_

theorem dropPkt_keeps {r s a1 a2 a3 a4} (h : Keeps r s) : Keeps r (dropPkt s a1 a2 a3 a4) := by
  unfold dropPkt
  try dsimp only
  repeat'
    first
      | with_reducible assumption
      | with_reducible exact Keeps.rfl' _
      | with_reducible refine fcount_keeps ?_
      | with_reducible refine fset_keeps ?_
      | with_reducible refine emitLim_keeps ?_
      | with_reducible refine Keeps.foldl _ ?_ (fun _ _ _ => ?_)
      | with_reducible refine Keeps.ite (fun _ => ?_) (fun _ => ?_)

theorem engage_keeps {r s a1} (h : Keeps r s) : Keeps r (engage s a1) := by
  unfold engage
  try dsimp only
  repeat'
    first
      | with_reducible assumption
      | with_reducible exact Keeps.rfl' _
      | with_reducible refine emitLim_keeps ?_
      | with_reducible refine fset_keeps ?_
      | with_reducible refine Keeps.foldl _ ?_ (fun _ _ _ => ?_)
      | with_reducible refine Keeps.ite (fun _ => ?_) (fun _ => ?_)

theorem egress_keeps {r s a1 a2} (h : Keeps r s) : Keeps r (egress s a1 a2) := by
  unfold egress
  try dsimp only
  repeat'
    first
      | with_reducible assumption
      | with_reducible exact Keeps.rfl' _
      | with_reducible refine engage_keeps ?_
      | with_reducible refine pump_keeps ?_
      | with_reducible refine lset_keeps ?_

theorem enterEgress_keeps {r s a1 a2} (h : Keeps r s) : Keeps r (enterEgress s a1 a2) := by
  unfold enterEgress
  try dsimp only
  repeat'
    first
      | with_reducible assumption
      | with_reducible exact Keeps.rfl' _
      | with_reducible refine egress_keeps ?_
      | with_reducible refine brgCount_keeps ?_
      | with_reducible refine Keeps.foldl _ ?_ (fun _ _ _ => ?_)
      | with_reducible refine Keeps.ite (fun _ => ?_) (fun _ => ?_)

theorem admitPkt_keeps {r s a1 a2} (h : Keeps r s) : Keeps r (admitPkt s a1 a2) := by
  unfold admitPkt
  try dsimp only
  repeat'
    first
      | with_reducible assumption
      | with_reducible exact Keeps.rfl' _
      | with_reducible refine dropPkt_keeps ?_
      | with_reducible refine enterEgress_keeps ?_
      | with_reducible refine Keeps.foldl _ ?_ (fun _ _ _ => ?_)
      | with_reducible refine Keeps.ite (fun _ => ?_) (fun _ => ?_)
      | (fail_if_no_progress with_reducible refine Keeps.upd (hd := rfl) ?_)
      | split

theorem admitWaiting_keepsO {r s t} (h : Keeps r s) (e : admitWaiting s = some t) : Keeps r t := by
  unfold admitWaiting at e
  try dsimp only at e
  repeat' split at e
  all_goals first
    | contradiction
    | (obtain rfl := Option.some.inj e
       repeat'
      first
        | with_reducible assumption
        | with_reducible exact Keeps.rfl' _
        | with_reducible refine admitPkt_keeps ?_
        | with_reducible refine Keeps.foldl _ ?_ (fun _ _ _ => ?_)
        | with_reducible refine Keeps.ite (fun _ => ?_) (fun _ => ?_)
        | (fail_if_no_progress with_reducible refine Keeps.upd (hd := rfl) ?_))

theorem linkUp_keeps {r s a1} (h : Keeps r s) : Keeps r (linkUp s a1) := by
  unfold linkUp
  try dsimp only
  repeat'
    first
      | with_reducible assumption
      | with_reducible exact Keeps.rfl' _
      | with_reducible refine lset_keeps ?_
      | with_reducible refine fset_keeps ?_
      | with_reducible refine pump_keeps ?_

theorem linkDown_keeps {r s a1} (h : Keeps r s) : Keeps r (linkDown s a1) := by
  unfold linkDown
  try dsimp only
  repeat'
    first
      | with_reducible assumption
      | with_reducible exact Keeps.rfl' _
      | with_reducible refine fset_keeps ?_
      | with_reducible refine lset_keeps ?_
      | with_reducible refine dropPkt_keeps ?_
      | with_reducible refine admitPkt_keeps ?_
      | with_reducible refine Keeps.foldl _ ?_ (fun _ _ _ => ?_)
      | with_reducible refine Keeps.ite (fun _ => ?_) (fun _ => ?_)

theorem notify_keeps {r s a1 a2} (h : Keeps r s) : Keeps r (notify s a1 a2) := by
  unfold notify
  try dsimp only
  repeat'
    first
      | with_reducible assumption
      | with_reducible exact Keeps.rfl' _
      | with_reducible refine send_keeps ?_
      | with_reducible refine Keeps.foldl _ ?_ (fun _ _ _ => ?_)

theorem announcing_keeps {r s f} (g : ∀ t, Keeps r t → Keeps r (f t)) (h : Keeps r s) : Keeps r (announcing s f) := by
  unfold announcing
  refine Keeps.ite (fun _ => g _ h) (fun _ => ?_)
  exact Keeps.foldl _ (Keeps.foldl _ (g _ h) fun _ _ k => notify_keeps k) fun _ _ k => notify_keeps k

theorem linkLost_keeps {r s a1} (h : Keeps r s) : Keeps r (linkLost s a1) := by
  unfold linkLost
  try dsimp only
  repeat'
    first
      | with_reducible assumption
      | with_reducible exact Keeps.rfl' _
      | with_reducible refine announcing_keeps (fun _ _ => ?_) ?_
      | with_reducible refine oset_keeps ?_
      | with_reducible refine linkDown_keeps ?_

theorem linkFail_keeps {r s a1} (h : Keeps r s) : Keeps r (linkFail s a1) := by
  unfold linkFail
  try dsimp only
  repeat'
    first
      | with_reducible assumption
      | with_reducible exact Keeps.rfl' _
      | with_reducible refine emit_keeps ?_
      | with_reducible refine linkLost_keeps ?_

theorem sendOn_keeps {r s a1 a2 a3} (h : Keeps r s) : Keeps r (sendOn s a1 a2 a3) := by
  unfold sendOn
  try dsimp only
  repeat'
    first
      | with_reducible assumption
      | with_reducible exact Keeps.rfl' _
      | with_reducible refine pump_keeps ?_
      | with_reducible refine lset_keeps ?_
      | with_reducible refine Keeps.foldl _ ?_ (fun _ _ _ => ?_)
      | with_reducible refine Keeps.ite (fun _ => ?_) (fun _ => ?_)

theorem replay_keeps {r s a1 a2} (h : Keeps r s) : Keeps r (replay s a1 a2) := by
  unfold replay
  try dsimp only
  repeat'
    first
      | with_reducible assumption
      | with_reducible exact Keeps.rfl' _
      | with_reducible refine send_keeps ?_
      | with_reducible refine emitLim_keeps ?_
      | with_reducible refine fcount_keeps ?_
      | with_reducible refine lset_keeps ?_

theorem tryReplay_keeps {r s a1 a2} (h : Keeps r s) : Keeps r (tryReplay s a1 a2) := by
  unfold tryReplay
  try dsimp only
  repeat'
    first
      | with_reducible assumption
      | with_reducible exact Keeps.rfl' _
      | with_reducible refine linkFail_keeps ?_
      | with_reducible refine replay_keeps ?_
      | with_reducible refine Keeps.foldl _ ?_ (fun _ _ _ => ?_)
      | with_reducible refine Keeps.ite (fun _ => ?_) (fun _ => ?_)

theorem takeNak_keeps {r s a1 a2} (h : Keeps r s) : Keeps r (takeNak s a1 a2) := by
  unfold takeNak
  try dsimp only
  repeat'
    first
      | with_reducible assumption
      | with_reducible exact Keeps.rfl' _
      | with_reducible refine tryReplay_keeps ?_
      | with_reducible refine Keeps.foldl _ ?_ (fun _ _ _ => ?_)
      | with_reducible refine Keeps.ite (fun _ => ?_) (fun _ => ?_)
      | (fail_if_no_progress with_reducible refine Keeps.upd (hd := rfl) ?_)
      | split

theorem enterDiscard_keeps {r s a1} (h : Keeps r s) : Keeps r (enterDiscard s a1) := by
  unfold enterDiscard
  try dsimp only
  repeat'
    first
      | with_reducible assumption
      | with_reducible exact Keeps.rfl' _
      | with_reducible refine fset_keeps ?_
      | with_reducible refine send_keeps ?_
      | with_reducible refine fcount_keeps ?_

theorem takeReplay_keeps {r s a1 a2} (h : Keeps r s) : Keeps r (takeReplay s a1 a2) := by
  unfold takeReplay
  try dsimp only
  repeat'
    first
      | with_reducible assumption
      | with_reducible exact Keeps.rfl' _
      | with_reducible refine lset_keeps ?_
      | with_reducible refine fset_keeps ?_
      | with_reducible refine Keeps.foldl _ ?_ (fun _ _ _ => ?_)
      | with_reducible refine Keeps.ite (fun _ => ?_) (fun _ => ?_)

theorem takeAck_keeps {r s a1 a2} (h : Keeps r s) : Keeps r (takeAck s a1 a2) := by
  unfold takeAck
  try dsimp only
  repeat'
    first
      | with_reducible assumption
      | with_reducible exact Keeps.rfl' _
      | with_reducible refine lset_keeps ?_
      | with_reducible refine Keeps.foldl _ ?_ (fun _ _ _ => ?_)
      | with_reducible refine Keeps.ite (fun _ => ?_) (fun _ => ?_)

theorem takeCredit_keeps {r s a1 a2 a3} (h : Keeps r s) : Keeps r (takeCredit s a1 a2 a3) := by
  unfold takeCredit
  try dsimp only
  repeat'
    first
      | with_reducible assumption
      | with_reducible exact Keeps.rfl' _
      | with_reducible refine lset_keeps ?_
      | with_reducible refine Keeps.foldl _ ?_ (fun _ _ _ => ?_)
      | with_reducible refine Keeps.ite (fun _ => ?_) (fun _ => ?_)

theorem freeIngress_keeps {r s a1 a2} (h : Keeps r s) : Keeps r (freeIngress s a1 a2) := by
  unfold freeIngress
  try dsimp only
  repeat'
    first
      | with_reducible assumption
      | with_reducible exact Keeps.rfl' _
      | with_reducible refine lset_keeps ?_
      | with_reducible refine send_keeps ?_
      | with_reducible refine Keeps.foldl _ ?_ (fun _ _ _ => ?_)
      | with_reducible refine Keeps.ite (fun _ => ?_) (fun _ => ?_)

theorem takeIngress_keeps {r s a1 a2 a3} (h : Keeps r s) : Keeps r (takeIngress s a1 a2 a3).1 := by
  unfold takeIngress
  try dsimp only
  repeat'
    first
      | with_reducible assumption
      | with_reducible exact Keeps.rfl' _
      | with_reducible refine freeIngress_keeps ?_
      | with_reducible refine lset_keeps ?_
      | with_reducible refine Keeps.foldl _ ?_ (fun _ _ _ => ?_)
      | with_reducible refine Keeps.ite (fun _ => ?_) (fun _ => ?_)
      | (fail_if_no_progress with_reducible refine Keeps.upd (hd := rfl) ?_)
      | split

theorem takeIngress_keepsP {r s a1 a2 a3 t x} (h : Keeps r s) (e : takeIngress s a1 a2 a3 = (t, x)) : Keeps r t := by
  have := takeIngress_keeps (a1 := a1) (a2 := a2) (a3 := a3) h
  rw [e] at this
  exact this

theorem admitHeld_keepsO {r s t} (h : Keeps r s) (e : admitHeld s = some t) : Keeps r t := by
  unfold admitHeld at e
  try dsimp only at e
  repeat' split at e
  all_goals first
    | contradiction
    | (obtain rfl := Option.some.inj e
       repeat'
      first
        | with_reducible assumption
        | with_reducible exact Keeps.rfl' _
        | with_reducible refine lset_keeps ?_)

theorem deliverPkt_keeps {r s a1 a2} (h : Keeps r s) : Keeps r (deliverPkt s a1 a2) := by
  unfold deliverPkt
  try dsimp only
  repeat'
    first
      | with_reducible assumption
      | with_reducible exact Keeps.rfl' _
      | with_reducible refine freeIngress_keeps ?_
      | with_reducible refine dropPkt_keeps ?_
      | with_reducible refine lset_keeps ?_
      | with_reducible refine admitPkt_keeps ?_
      | with_reducible refine Keeps.foldl _ ?_ (fun _ _ _ => ?_)
      | with_reducible refine Keeps.ite (fun _ => ?_) (fun _ => ?_)
      | (fail_if_no_progress with_reducible refine Keeps.upd (hd := rfl) ?_)

theorem releaseHold_keeps {r s a1} (h : Keeps r s) : Keeps r (releaseHold s a1) := by
  unfold releaseHold
  try dsimp only
  repeat'
    first
      | with_reducible assumption
      | with_reducible exact Keeps.rfl' _
      | with_reducible refine fset_keeps ?_
      | with_reducible refine replay_keeps ?_
      | with_reducible refine lset_keeps ?_

theorem receive_keeps {r s p flit err body} (g : ∀ t n f, Keeps r t → Keeps r (body t n f)) (h : Keeps r s) :
    Keeps r (receive p flit err s body) := by
  unfold receive
  dsimp only
  have h1 : Keeps r (if fbit s F.FAB_PORT_STATUS_HELD p.idx then releaseHold s p.idx else s) :=
    Keeps.ite (fun _ => releaseHold_keeps h) (fun _ => h)
  refine Keeps.ite (fun _ => h) (fun _ => ?_)
  split
  · exact Keeps.ite (fun _ => noteSlotCorr_keeps h1) (fun _ => enterDiscard_keeps (noteSlotCorr_keeps h1))
  · exact Keeps.ite (fun _ => noteSlotCorr_keeps h1) (fun _ => g _ _ _ (noteSlotCorr_keeps h1))

theorem skipOld_keeps {r s p body} (g : ∀ t, Keeps r t → Keeps r (body t)) (h : Keeps r s) : Keeps r (skipOld s p body) := by
  unfold skipOld
  exact Keeps.ite (fun _ => g _ h) (fun _ => lset_keeps h)

theorem acceptNumbered_keeps {r s a1 a2} (h : Keeps r s) : Keeps r (acceptNumbered s a1 a2).1 := by
  unfold acceptNumbered
  try dsimp only
  repeat'
    first
      | with_reducible assumption
      | with_reducible exact Keeps.rfl' _
      | with_reducible refine fcount_keeps ?_
      | with_reducible refine lset_keeps ?_
      | with_reducible refine linkFail_keeps ?_
      | with_reducible refine Keeps.foldl _ ?_ (fun _ _ _ => ?_)
      | with_reducible refine Keeps.ite (fun _ => ?_) (fun _ => ?_)
      | (fail_if_no_progress with_reducible refine Keeps.upd (hd := rfl) ?_)
      | split

theorem acceptNumbered_keepsP {r s a1 a2 t x} (h : Keeps r s) (e : acceptNumbered s a1 a2 = (t, x)) : Keeps r t := by
  have := acceptNumbered_keeps (a1 := a1) (a2 := a2) h
  rw [e] at this
  exact this

theorem headIn_keeps {r s a1 a2} (h : Keeps r s) : Keeps r (headIn s a1 a2) := by
  unfold headIn
  try dsimp only
  repeat'
    first
      | with_reducible assumption
      | with_reducible exact Keeps.rfl' _
      | with_reducible refine acceptNumbered_keeps ?_
      | with_reducible refine acceptNumbered_keepsP ?_ (by assumption)
      | with_reducible refine pump_keeps ?_
      | with_reducible refine deliverPkt_keeps ?_
      | with_reducible refine lset_keeps ?_
      | with_reducible refine Keeps.foldl _ ?_ (fun _ _ _ => ?_)
      | with_reducible refine Keeps.ite (fun _ => ?_) (fun _ => ?_)

theorem takeHead_keeps {r s a1 a2} (h : Keeps r s) : Keeps r (takeHead s a1 a2) := by
  unfold takeHead
  try dsimp only
  repeat'
    first
      | with_reducible assumption
      | with_reducible exact Keeps.rfl' _
      | with_reducible refine skipOld_keeps (fun _ _ => ?_) ?_
      | with_reducible refine takeCredit_keeps ?_
      | with_reducible refine takeAck_keeps ?_
      | with_reducible refine headIn_keeps ?_

theorem dataIn_keeps {r s a1 a2} (h : Keeps r s) : Keeps r (dataIn s a1 a2) := by
  unfold dataIn
  try dsimp only
  repeat'
    first
      | with_reducible assumption
      | with_reducible exact Keeps.rfl' _
      | with_reducible refine acceptNumbered_keeps ?_
      | with_reducible refine acceptNumbered_keepsP ?_ (by assumption)
      | with_reducible refine lset_keeps ?_
      | with_reducible refine deliverPkt_keeps ?_
      | with_reducible refine Keeps.foldl _ ?_ (fun _ _ _ => ?_)
      | with_reducible refine Keeps.ite (fun _ => ?_) (fun _ => ?_)
      | (fail_if_no_progress with_reducible refine Keeps.upd (hd := rfl) ?_)
      | split

theorem takeData_keeps {r s a1 a2} (h : Keeps r s) : Keeps r (takeData s a1 a2) := by
  unfold takeData
  try dsimp only
  repeat'
    first
      | with_reducible assumption
      | with_reducible exact Keeps.rfl' _
      | with_reducible refine skipOld_keeps (fun _ _ => ?_) ?_
      | with_reducible refine dataIn_keeps ?_

theorem missNotice_keeps {r s a1 a2 a3 a4} (h : Keeps r s) : Keeps r (missNotice s a1 a2 a3 a4) := by
  unfold missNotice
  try dsimp only
  repeat'
    first
      | with_reducible assumption
      | with_reducible exact Keeps.rfl' _
      | with_reducible refine emit_keeps ?_
      | with_reducible refine admitPkt_keeps ?_
      | with_reducible refine lset_keeps ?_
      | with_reducible refine Keeps.foldl _ ?_ (fun _ _ _ => ?_)
      | with_reducible refine Keeps.ite (fun _ => ?_) (fun _ => ?_)
      | (fail_if_no_progress with_reducible refine Keeps.upd (hd := rfl) ?_)

theorem takeMiss_keeps {r s a1 a2 a3 a4} (h : Keeps r s) : Keeps r (takeMiss s a1 a2 a3 a4) := by
  unfold takeMiss
  try dsimp only
  repeat'
    first
      | with_reducible assumption
      | with_reducible exact Keeps.rfl' _
      | with_reducible refine announcing_keeps (fun _ _ => ?_) ?_
      | with_reducible refine missNotice_keeps ?_

theorem routeWritten_keeps {r s a1 a2} (h : Keeps r s) : Keeps r (routeWritten s a1 a2) := by
  unfold routeWritten
  try dsimp only
  repeat'
    first
      | with_reducible assumption
      | with_reducible exact Keeps.rfl' _
      | with_reducible refine emit_keeps ?_
      | with_reducible refine Keeps.foldl _ ?_ (fun _ _ _ => ?_)
      | with_reducible refine Keeps.ite (fun _ => ?_) (fun _ => ?_)
      | (fail_if_no_progress with_reducible refine Keeps.upd (hd := rfl) ?_)

theorem takeControl_keeps {r s a1 a2} (h : Keeps r s) : Keeps r (takeControl s a1 a2) := by
  unfold takeControl
  try dsimp only
  repeat'
    first
      | with_reducible assumption
      | with_reducible exact Keeps.rfl' _
      | with_reducible refine takeAck_keeps ?_
      | with_reducible refine lset_keeps ?_
      | with_reducible refine takeReplay_keeps ?_
      | with_reducible refine takeNak_keeps ?_
      | with_reducible refine takeMiss_keeps ?_
      | with_reducible refine pump_keeps ?_
      | with_reducible refine Keeps.foldl _ ?_ (fun _ _ _ => ?_)
      | with_reducible refine Keeps.ite (fun _ => ?_) (fun _ => ?_)

theorem windowEntry_keeps {r s a1 a2 a3} (h : Keeps r s) : Keeps r (windowEntry s a1 a2 a3).1 := by
  unfold windowEntry
  try dsimp only
  repeat'
    first
      | with_reducible assumption
      | with_reducible exact Keeps.rfl' _
      | with_reducible refine fresh_keeps ?_
      | with_reducible refine Keeps.foldl _ ?_ (fun _ _ _ => ?_)
      | with_reducible refine Keeps.ite (fun _ => ?_) (fun _ => ?_)
      | (fail_if_no_progress with_reducible refine Keeps.upd (hd := rfl) ?_)
      | split

theorem windowEntry_keepsP {r s a1 a2 a3 t x} (h : Keeps r s) (e : windowEntry s a1 a2 a3 = (t, x)) : Keeps r t := by
  have := windowEntry_keeps (a1 := a1) (a2 := a2) (a3 := a3) h
  rw [e] at this
  exact this

theorem translate_keeps {r s a1 a2 a3} (h : Keeps r s) : Keeps r (translate s a1 a2 a3).1 := by
  unfold translate
  try dsimp only
  repeat'
    first
      | with_reducible assumption
      | with_reducible exact Keeps.rfl' _
      | with_reducible refine windowEntry_keeps ?_
      | with_reducible refine windowEntry_keepsP ?_ (by assumption)
      | with_reducible refine Keeps.foldl _ ?_ (fun _ _ _ => ?_)
      | with_reducible refine Keeps.ite (fun _ => ?_) (fun _ => ?_)
      | (fail_if_no_progress with_reducible refine Keeps.upd (hd := rfl) ?_)
      | split

theorem translate_keepsP {r s a1 a2 a3 t x} (h : Keeps r s) (e : translate s a1 a2 a3 = (t, x)) : Keeps r t := by
  have := translate_keeps (a1 := a1) (a2 := a2) (a3 := a3) h
  rw [e] at this
  exact this

theorem noteRefusal_keeps {r s a1 a2 a3 a4} (h : Keeps r s) : Keeps r (noteRefusal s a1 a2 a3 a4) := by
  unfold noteRefusal
  try dsimp only
  repeat'
    first
      | with_reducible assumption
      | with_reducible exact Keeps.rfl' _
      | with_reducible refine fcount_keeps ?_
      | with_reducible refine fset_keeps ?_
      | with_reducible refine emitLim_keeps ?_
      | with_reducible refine Keeps.foldl _ ?_ (fun _ _ _ => ?_)
      | with_reducible refine Keeps.ite (fun _ => ?_) (fun _ => ?_)

theorem gatewayFrom_keeps {r j d ngw} {l} : ∀ {s}, Keeps r s → Keeps r (gatewayFrom s j d ngw l).1 := by
  induction l with
  | nil => exact id
  | cons k l ih =>
    intro s h
    unfold gatewayFrom
    dsimp only
    split
    · exact h
    · refine ih (Keeps.ite (fun _ => h) (fun _ => emit_keeps ?_))
      exact ⟨h.1, h.2, h.3, h.4, h.5⟩

theorem gatewayFrom_keepsP {r s j d ngw l u x} (h : Keeps r s) (e : gatewayFrom s j d ngw l = (u, x)) : Keeps r u := by
  have := gatewayFrom_keeps (j := j) (d := d) (ngw := ngw) (l := l) h
  rw [e] at this
  exact this

theorem gatewayFor_keeps {r s a1 a2} (h : Keeps r s) : Keeps r (gatewayFor s a1 a2).1 := by
  unfold gatewayFor
  try dsimp only
  repeat'
    first
      | with_reducible assumption
      | with_reducible exact Keeps.rfl' _
      | with_reducible refine gatewayFrom_keeps ?_
      | with_reducible refine gatewayFrom_keepsP ?_ (by assumption)
      | with_reducible refine Keeps.foldl _ ?_ (fun _ _ _ => ?_)
      | with_reducible refine Keeps.ite (fun _ => ?_) (fun _ => ?_)
      | (fail_if_no_progress with_reducible refine Keeps.upd (hd := rfl) ?_)
      | split

theorem gatewayFor_keepsP {r s a1 a2 t x} (h : Keeps r s) (e : gatewayFor s a1 a2 = (t, x)) : Keeps r t := by
  have := gatewayFor_keeps (a1 := a1) (a2 := a2) h
  rw [e] at this
  exact this

theorem gwTake_keeps {r s a1 a2} (h : Keeps r s) : Keeps r (gwTake s a1 a2) := by
  unfold gwTake
  try dsimp only
  repeat'
    first
      | with_reducible assumption
      | with_reducible exact Keeps.rfl' _
      | with_reducible refine admitPkt_keeps ?_
      | with_reducible refine Keeps.foldl _ ?_ (fun _ _ _ => ?_)
      | with_reducible refine Keeps.ite (fun _ => ?_) (fun _ => ?_)
      | (fail_if_no_progress with_reducible refine Keeps.upd (hd := rfl) ?_)
      | split

theorem sendTo_keeps {r s a1 a2 a3 a4 a5 a6} (h : Keeps r s) : Keeps r (sendTo s a1 a2 a3 a4 a5 a6) := by
  unfold sendTo
  try dsimp only
  repeat'
    first
      | with_reducible assumption
      | with_reducible exact Keeps.rfl' _
      | with_reducible refine admitPkt_keeps ?_
      | with_reducible refine gatewayFor_keeps ?_
      | with_reducible refine gatewayFor_keepsP ?_ (by assumption)
      | with_reducible refine gwTake_keeps ?_
      | with_reducible refine Keeps.foldl _ ?_ (fun _ _ _ => ?_)
      | with_reducible refine Keeps.ite (fun _ => ?_) (fun _ => ?_)
      | (fail_if_no_progress with_reducible refine Keeps.upd (hd := rfl) ?_)
      | split

theorem txSet_keeps {r s a1} (h : Keeps r s) : Keeps r (txSet s a1) := by
  unfold txSet
  try dsimp only
  repeat'
    first
      | with_reducible assumption
      | with_reducible exact Keeps.rfl' _
      | with_reducible refine Keeps.foldl _ ?_ (fun _ _ _ => ?_)
      | with_reducible refine Keeps.ite (fun _ => ?_) (fun _ => ?_)
      | (fail_if_no_progress with_reducible refine Keeps.upd (hd := rfl) ?_)

theorem result_keeps {r s a1} (h : Keeps r s) : Keeps r (result s a1) := by
  unfold result
  try dsimp only
  repeat'
    first
      | with_reducible assumption
      | with_reducible exact Keeps.rfl' _
      | with_reducible refine Keeps.foldl _ ?_ (fun _ _ _ => ?_)
      | with_reducible refine Keeps.ite (fun _ => ?_) (fun _ => ?_)
      | (fail_if_no_progress with_reducible refine Keeps.upd (hd := rfl) ?_)

theorem crossOp_keeps {r s a1 a2} (h : Keeps r s) : Keeps r (crossOp s a1 a2) := by
  unfold crossOp
  try dsimp only
  repeat'
    first
      | with_reducible assumption
      | with_reducible exact Keeps.rfl' _
      | with_reducible refine arrive_keeps ?_
      | with_reducible refine brgCount_keeps ?_

theorem goHome_keeps {r s a0 a2} (h : Keeps r s) : Keeps r (goHome a0 s a2) := by
  unfold goHome
  try dsimp only
  repeat'
    first
      | with_reducible assumption
      | with_reducible exact Keeps.rfl' _
      | with_reducible refine arrive_keeps ?_
      | with_reducible refine crossOp_keeps ?_
      | with_reducible refine Keeps.foldl _ ?_ (fun _ _ _ => ?_)
      | with_reducible refine Keeps.ite (fun _ => ?_) (fun _ => ?_)
      | (fail_if_no_progress with_reducible refine Keeps.upd (hd := rfl) ?_)

theorem startProg_keeps {r s a1 a2 a3 a4 a5 a6} (h : Keeps r s) : Keeps r (startProg s a1 a2 a3 a4 a5 a6) := by
  unfold startProg
  try dsimp only
  repeat'
    first
      | with_reducible assumption
      | with_reducible exact Keeps.rfl' _
      | with_reducible refine goHome_keeps ?_
      | with_reducible refine Keeps.foldl _ ?_ (fun _ _ _ => ?_)
      | with_reducible refine Keeps.ite (fun _ => ?_) (fun _ => ?_)
      | (fail_if_no_progress with_reducible refine Keeps.upd (hd := rfl) ?_)

theorem progAnswer_keeps {r s a1 a2 a3 a4} (h : Keeps r s) : Keeps r (progAnswer s a1 a2 a3 a4) := by
  unfold progAnswer
  try dsimp only
  repeat'
    first
      | with_reducible assumption
      | with_reducible exact Keeps.rfl' _
      | with_reducible refine Keeps.foldl _ ?_ (fun _ _ _ => ?_)
      | with_reducible refine Keeps.ite (fun _ => ?_) (fun _ => ?_)
      | (fail_if_no_progress with_reducible refine Keeps.upd (hd := rfl) ?_)

theorem ownStart_keeps {r s a1 a2 a3 a4 a5 a6} (h : Keeps r s) : Keeps r (ownStart s a1 a2 a3 a4 a5 a6) := by
  unfold ownStart
  try dsimp only
  repeat'
    first
      | with_reducible assumption
      | with_reducible exact Keeps.rfl' _
      | with_reducible refine progAnswer_keeps ?_
      | with_reducible refine translate_keeps ?_
      | with_reducible refine translate_keepsP ?_ (by assumption)
      | with_reducible refine startProg_keeps ?_
      | with_reducible refine Keeps.foldl _ ?_ (fun _ _ _ => ?_)
      | with_reducible refine Keeps.ite (fun _ => ?_) (fun _ => ?_)
      | (fail_if_no_progress with_reducible refine Keeps.upd (hd := rfl) ?_)
      | split

theorem present_keeps {r s a1 a2 a3 a4} (h : Keeps r s) : Keeps r (present s a1 a2 a3 a4) := by
  unfold present
  try dsimp only
  repeat'
    first
      | with_reducible assumption
      | with_reducible exact Keeps.rfl' _
      | with_reducible refine txSet_keeps ?_
      | with_reducible refine tset_keeps ?_
      | with_reducible refine ownStart_keeps ?_
      | with_reducible refine sendTo_keeps ?_
      | with_reducible refine Keeps.foldl _ ?_ (fun _ _ _ => ?_)
      | with_reducible refine Keeps.ite (fun _ => ?_) (fun _ => ?_)
      | (fail_if_no_progress with_reducible refine Keeps.upd (hd := rfl) ?_)
      | split

theorem senderStatus_keeps {r s a1 a2} (h : Keeps r s) : Keeps r (senderStatus s a1 a2).1 := by
  unfold senderStatus
  try dsimp only
  repeat'
    first
      | with_reducible assumption
      | with_reducible exact Keeps.rfl' _
      | with_reducible refine gatewayFor_keeps ?_
      | with_reducible refine gatewayFor_keepsP ?_ (by assumption)
      | with_reducible refine Keeps.foldl _ ?_ (fun _ _ _ => ?_)
      | with_reducible refine Keeps.ite (fun _ => ?_) (fun _ => ?_)
      | (fail_if_no_progress with_reducible refine Keeps.upd (hd := rfl) ?_)
      | split

theorem senderStatus_keepsP {r s a1 a2 t x} (h : Keeps r s) (e : senderStatus s a1 a2 = (t, x)) : Keeps r t := by
  have := senderStatus_keeps (a1 := a1) (a2 := a2) h
  rw [e] at this
  exact this

theorem selfAnswer_keeps {r s a1 a2 a3} (h : Keeps r s) : Keeps r (selfAnswer s a1 a2 a3) := by
  unfold selfAnswer
  try dsimp only
  repeat'
    first
      | with_reducible assumption
      | with_reducible exact Keeps.rfl' _
      | with_reducible refine result_keeps ?_
      | with_reducible refine noteRefusal_keeps ?_

theorem presentOr_keeps {r s a1 a2 a3 a4} (h : Keeps r s) : Keeps r (presentOr s a1 a2 a3 a4) := by
  unfold presentOr
  try dsimp only
  repeat'
    first
      | with_reducible assumption
      | with_reducible exact Keeps.rfl' _
      | with_reducible refine senderStatus_keeps ?_
      | with_reducible refine senderStatus_keepsP ?_ (by assumption)
      | with_reducible refine present_keeps ?_
      | with_reducible refine txSet_keeps ?_
      | with_reducible refine selfAnswer_keeps ?_
      | with_reducible refine Keeps.foldl _ ?_ (fun _ _ _ => ?_)
      | with_reducible refine Keeps.ite (fun _ => ?_) (fun _ => ?_)
      | (fail_if_no_progress with_reducible refine Keeps.upd (hd := rfl) ?_)
      | split

theorem submit_keeps {r s a1 a2} (h : Keeps r s) : Keeps r (submit s a1 a2) := by
  unfold submit
  try dsimp only
  repeat'
    first
      | with_reducible assumption
      | with_reducible exact Keeps.rfl' _
      | with_reducible refine selfAnswer_keeps ?_
      | with_reducible refine senderStatus_keeps ?_
      | with_reducible refine senderStatus_keepsP ?_ (by assumption)
      | with_reducible refine txSet_keeps ?_
      | with_reducible refine present_keeps ?_
      | with_reducible refine Keeps.foldl _ ?_ (fun _ _ _ => ?_)
      | with_reducible refine Keeps.ite (fun _ => ?_) (fun _ => ?_)
      | (fail_if_no_progress with_reducible refine Keeps.upd (hd := rfl) ?_)
      | split

theorem drainBacklog_keepsO {r s a1 t} (h : Keeps r s) (e : drainBacklog s a1 = some t) : Keeps r t := by
  unfold drainBacklog at e
  try dsimp only at e
  repeat' split at e
  all_goals first
    | contradiction
    | (obtain rfl := Option.some.inj e
       repeat'
      first
        | with_reducible assumption
        | with_reducible exact Keeps.rfl' _
        | with_reducible refine presentOr_keeps ?_
        | with_reducible refine txSet_keeps ?_)

theorem drainOne_keepsO {r s a1 t} (h : Keeps r s) (e : drainOne s a1 = some t) : Keeps r t := by
  unfold drainOne at e
  try dsimp only at e
  repeat' split at e
  all_goals first
    | contradiction
    | exact drainBacklog_keepsO h e
    | (obtain rfl := Option.some.inj e
       repeat'
      first
        | with_reducible assumption
        | with_reducible exact Keeps.rfl' _
        | with_reducible refine presentOr_keeps ?_)

theorem fillDelayList_keeps {r s a1} (h : Keeps r s) : Keeps r (fillDelayList s a1) := by
  unfold fillDelayList
  try dsimp only
  repeat'
    first
      | with_reducible assumption
      | with_reducible exact Keeps.rfl' _
      | with_reducible refine txSet_keeps ?_
      | with_reducible refine Keeps.foldl _ ?_ (fun _ _ _ => ?_)
      | with_reducible refine Keeps.ite (fun _ => ?_) (fun _ => ?_)
      | (fail_if_no_progress with_reducible refine Keeps.upd (hd := rfl) ?_)
      | split

theorem takeAnswer_keeps {r s a1 a2 a3 a4 a5 a6 a7} (h : Keeps r s) : Keeps r (takeAnswer s a1 a2 a3 a4 a5 a6 a7) := by
  unfold takeAnswer
  try dsimp only
  repeat'
    first
      | with_reducible assumption
      | with_reducible exact Keeps.rfl' _
      | with_reducible refine txSet_keeps ?_
      | with_reducible refine result_keeps ?_
      | with_reducible refine Keeps.foldl _ ?_ (fun _ _ _ => ?_)
      | with_reducible refine Keeps.ite (fun _ => ?_) (fun _ => ?_)
      | (fail_if_no_progress with_reducible refine Keeps.upd (hd := rfl) ?_)
      | split

theorem failStream_keeps {r s a1 a2} (h : Keeps r s) : Keeps r (failStream s a1 a2) := by
  unfold failStream
  try dsimp only
  repeat'
    first
      | with_reducible assumption
      | with_reducible exact Keeps.rfl' _
      | with_reducible refine result_keeps ?_
      | with_reducible refine txSet_keeps ?_
      | with_reducible refine Keeps.foldl _ ?_ (fun _ _ _ => ?_)

theorem failDest_keeps {r s a1 a2} (h : Keeps r s) : Keeps r (failDest s a1 a2) := by
  unfold failDest
  try dsimp only
  repeat'
    first
      | with_reducible assumption
      | with_reducible exact Keeps.rfl' _
      | with_reducible refine failStream_keeps ?_
      | with_reducible refine Keeps.foldl _ ?_ (fun _ _ _ => ?_)

theorem discardStreams_keeps {r s gone} (h : Keeps r s) : Keeps r (discardStreams s gone) := by
  unfold discardStreams
  exact restart_keeps ⟨h.1, h.2, h.3, h.4, h.5⟩

theorem rxSet_keeps {r s a1} (h : Keeps r s) : Keeps r (rxSet s a1) := by
  unfold rxSet
  try dsimp only
  repeat'
    first
      | with_reducible assumption
      | with_reducible exact Keeps.rfl' _
      | with_reducible refine Keeps.foldl _ ?_ (fun _ _ _ => ?_)
      | with_reducible refine Keeps.ite (fun _ => ?_) (fun _ => ?_)
      | (fail_if_no_progress with_reducible refine Keeps.upd (hd := rfl) ?_)

theorem takeRespAck_keeps {r s a1 a2 a3} (h : Keeps r s) : Keeps r (takeRespAck s a1 a2 a3) := by
  unfold takeRespAck
  try dsimp only
  repeat'
    first
      | with_reducible assumption
      | with_reducible exact Keeps.rfl' _
      | with_reducible refine rxSet_keeps ?_
      | with_reducible refine Keeps.foldl _ ?_ (fun _ _ _ => ?_)
      | with_reducible refine Keeps.ite (fun _ => ?_) (fun _ => ?_)

theorem sendResp_keeps {r s a1 a2 a3} (h : Keeps r s) : Keeps r (sendResp s a1 a2 a3) := by
  unfold sendResp
  try dsimp only
  repeat'
    first
      | with_reducible assumption
      | with_reducible exact Keeps.rfl' _
      | with_reducible refine sendTo_keeps ?_
      | with_reducible refine Keeps.foldl _ ?_ (fun _ _ _ => ?_)
      | with_reducible refine Keeps.ite (fun _ => ?_) (fun _ => ?_)

theorem answerUncounted_keeps {r s a1 a2} (h : Keeps r s) : Keeps r (answerUncounted s a1 a2) := by
  unfold answerUncounted
  try dsimp only
  repeat'
    first
      | with_reducible assumption
      | with_reducible exact Keeps.rfl' _
      | with_reducible refine sendResp_keeps ?_
      | with_reducible refine noteRefusal_keeps ?_

theorem noteWrite_keeps {r s a1 a2} (h : Keeps r s) : Keeps r (noteWrite s a1 a2) := by
  unfold noteWrite
  try dsimp only
  repeat'
    first
      | with_reducible assumption
      | with_reducible exact Keeps.rfl' _
      | with_reducible refine Keeps.foldl _ ?_ (fun _ _ _ => ?_)
      | with_reducible refine Keeps.ite (fun _ => ?_) (fun _ => ?_)
      | (fail_if_no_progress with_reducible refine Keeps.upd (hd := rfl) ?_)

theorem noteMbox_keeps {r s a1 a2} (h : Keeps r s) : Keeps r (noteMbox s a1 a2) := by
  unfold noteMbox
  try dsimp only
  repeat'
    first
      | with_reducible assumption
      | with_reducible exact Keeps.rfl' _
      | with_reducible refine Keeps.foldl _ ?_ (fun _ _ _ => ?_)
      | with_reducible refine Keeps.ite (fun _ => ?_) (fun _ => ?_)
      | (fail_if_no_progress with_reducible refine Keeps.upd (hd := rfl) ?_)
      | split

theorem shnErr_keeps {r s a1 a2 a3 a4} (h : Keeps r s) : Keeps r (shnErr s a1 a2 a3 a4) := by
  unfold shnErr
  try dsimp only
  repeat'
    first
      | with_reducible assumption
      | with_reducible exact Keeps.rfl' _
      | with_reducible refine fset_keeps ?_

theorem shnRefused_keeps {r s a1 a2 a3 a4 a5} (h : Keeps r s) : Keeps r (shnRefused s a1 a2 a3 a4 a5) := by
  unfold shnRefused
  try dsimp only
  repeat'
    first
      | with_reducible assumption
      | with_reducible exact Keeps.rfl' _
      | with_reducible refine emitLim_keeps ?_
      | with_reducible refine shnErr_keeps ?_

theorem noteShn_keeps {r s a1} (h : Keeps r s) : Keeps r (noteShn s a1) := by
  unfold noteShn
  try dsimp only
  repeat'
    first
      | with_reducible assumption
      | with_reducible exact Keeps.rfl' _
      | with_reducible refine shnRefused_keeps ?_
      | with_reducible refine Keeps.foldl _ ?_ (fun _ _ _ => ?_)
      | with_reducible refine Keeps.ite (fun _ => ?_) (fun _ => ?_)
      | (fail_if_no_progress with_reducible refine Keeps.upd (hd := rfl) ?_)
      | split

theorem notePerformed_keeps {r s a1 a2 a3} (h : Keeps r s) : Keeps r (notePerformed s a1 a2 a3) := by
  unfold notePerformed
  try dsimp only
  repeat'
    first
      | with_reducible assumption
      | with_reducible exact Keeps.rfl' _
      | with_reducible refine noteShn_keeps ?_
      | with_reducible refine noteMbox_keeps ?_
      | with_reducible refine noteWrite_keeps ?_
      | with_reducible refine Keeps.foldl _ ?_ (fun _ _ _ => ?_)
      | with_reducible refine Keeps.ite (fun _ => ?_) (fun _ => ?_)

theorem crossBack_keeps {r s a1} (h : Keeps r s) : Keeps r (crossBack s a1) := by
  unfold crossBack
  try dsimp only
  repeat'
    first
      | with_reducible assumption
      | with_reducible exact Keeps.rfl' _
      | with_reducible refine brgCount_keeps ?_
      | with_reducible refine Keeps.foldl _ ?_ (fun _ _ _ => ?_)
      | with_reducible refine Keeps.ite (fun _ => ?_) (fun _ => ?_)

theorem finishProg_keeps {r s a1} (h : Keeps r s) : Keeps r (finishProg s a1) := by
  unfold finishProg
  try dsimp only
  repeat'
    first
      | with_reducible assumption
      | with_reducible exact Keeps.rfl' _
      | with_reducible refine crossBack_keeps ?_
      | with_reducible refine notePerformed_keeps ?_
      | with_reducible refine noteRefusal_keeps ?_
      | with_reducible refine takeAnswer_keeps ?_
      | with_reducible refine sendResp_keeps ?_
      | with_reducible refine rxSet_keeps ?_
      | with_reducible refine Keeps.foldl _ ?_ (fun _ _ _ => ?_)
      | with_reducible refine Keeps.ite (fun _ => ?_) (fun _ => ?_)
      | (fail_if_no_progress with_reducible refine Keeps.upd (hd := rfl) ?_)
      | split

theorem noPoolRoom_keeps {r s a1 a2} (h : Keeps r s) : Keeps r (noPoolRoom s a1 a2) := by
  unfold noPoolRoom
  try dsimp only
  repeat'
    first
      | with_reducible assumption
      | with_reducible exact Keeps.rfl' _
      | with_reducible refine emitLim_keeps ?_

theorem takeRequest_keeps {r s a1 a2} (h : Keeps r s) : Keeps r (takeRequest s a1 a2) := by
  unfold takeRequest
  try dsimp only
  repeat'
    first
      | with_reducible assumption
      | with_reducible exact Keeps.rfl' _
      | with_reducible refine rxSet_keeps ?_
      | with_reducible refine noPoolRoom_keeps ?_
      | with_reducible refine progAnswer_keeps ?_
      | with_reducible refine translate_keeps ?_
      | with_reducible refine translate_keepsP ?_ (by assumption)
      | with_reducible refine startProg_keeps ?_
      | with_reducible refine Keeps.foldl _ ?_ (fun _ _ _ => ?_)
      | with_reducible refine Keeps.ite (fun _ => ?_) (fun _ => ?_)
      | (fail_if_no_progress with_reducible refine Keeps.upd (hd := rfl) ?_)
      | split

theorem takeDuplicate_keeps {r s a1 a2 a3} (h : Keeps r s) : Keeps r (takeDuplicate s a1 a2 a3) := by
  unfold takeDuplicate
  try dsimp only
  repeat'
    first
      | with_reducible assumption
      | with_reducible exact Keeps.rfl' _
      | with_reducible refine sendResp_keeps ?_
      | with_reducible refine translate_keeps ?_
      | with_reducible refine translate_keepsP ?_ (by assumption)
      | with_reducible refine startProg_keeps ?_
      | with_reducible refine Keeps.foldl _ ?_ (fun _ _ _ => ?_)
      | with_reducible refine Keeps.ite (fun _ => ?_) (fun _ => ?_)
      | (fail_if_no_progress with_reducible refine Keeps.upd (hd := rfl) ?_)
      | split

theorem ingressReq_keeps {r s a1 a2} (h : Keeps r s) : Keeps r (ingressReq s a1 a2) := by
  unfold ingressReq
  try dsimp only
  repeat'
    first
      | with_reducible assumption
      | with_reducible exact Keeps.rfl' _
      | with_reducible refine takeRespAck_keeps ?_
      | with_reducible refine answerUncounted_keeps ?_
      | with_reducible refine takeDuplicate_keeps ?_
      | with_reducible refine emit_keeps ?_
      | with_reducible refine takeRequest_keeps ?_
      | with_reducible refine rxSet_keeps ?_
      | with_reducible refine Keeps.foldl _ ?_ (fun _ _ _ => ?_)
      | with_reducible refine Keeps.ite (fun _ => ?_) (fun _ => ?_)

theorem takeWaiting_keeps {r s a1 a2} (h : Keeps r s) : Keeps r (takeWaiting s a1 a2) := by
  unfold takeWaiting
  try dsimp only
  repeat'
    first
      | with_reducible assumption
      | with_reducible exact Keeps.rfl' _
      | with_reducible refine takeRequest_keeps ?_
      | with_reducible refine rxSet_keeps ?_
      | with_reducible refine Keeps.foldl _ ?_ (fun _ _ _ => ?_)
      | with_reducible refine Keeps.ite (fun _ => ?_) (fun _ => ?_)
      | (fail_if_no_progress with_reducible refine Keeps.upd (hd := rfl) ?_)
      | split

theorem cutRead_keeps {r s a1} (h : Keeps r s) : Keeps r (cutRead s a1).1 := by
  unfold cutRead
  try dsimp only
  repeat'
    first
      | with_reducible assumption
      | with_reducible exact Keeps.rfl' _
      | with_reducible refine fresh_keeps ?_
      | with_reducible refine Keeps.foldl _ ?_ (fun _ _ _ => ?_)
      | with_reducible refine Keeps.ite (fun _ => ?_) (fun _ => ?_)
      | (fail_if_no_progress with_reducible refine Keeps.upd (hd := rfl) ?_)
      | split

theorem cutRead_keepsP {r s a1 t x} (h : Keeps r s) (e : cutRead s a1 = (t, x)) : Keeps r t := by
  have := cutRead_keeps (a1 := a1) h
  rw [e] at this
  exact this

theorem responseIn_keeps {r s a1 a2} (h : Keeps r s) : Keeps r (responseIn s a1 a2) := by
  unfold responseIn
  try dsimp only
  repeat'
    first
      | with_reducible assumption
      | with_reducible exact Keeps.rfl' _
      | with_reducible refine txSet_keeps ?_
      | with_reducible refine cutRead_keeps ?_
      | with_reducible refine cutRead_keepsP ?_ (by assumption)
      | with_reducible refine takeAnswer_keeps ?_
      | with_reducible refine Keeps.foldl _ ?_ (fun _ _ _ => ?_)
      | with_reducible refine Keeps.ite (fun _ => ?_) (fun _ => ?_)
      | (fail_if_no_progress with_reducible refine Keeps.upd (hd := rfl) ?_)
      | split

theorem packetIn_keeps {r s a1 a2 a3 a4} (h : Keeps r s) : Keeps r (packetIn s a1 a2 a3 a4) := by
  unfold packetIn
  try dsimp only
  repeat'
    first
      | with_reducible assumption
      | with_reducible exact Keeps.rfl' _
      | with_reducible refine responseIn_keeps ?_
      | with_reducible refine ingressReq_keeps ?_
      | with_reducible refine admitPkt_keeps ?_
      | with_reducible refine gwTake_keeps ?_
      | with_reducible refine answerUncounted_keeps ?_
      | with_reducible refine Keeps.foldl _ ?_ (fun _ _ _ => ?_)
      | with_reducible refine Keeps.ite (fun _ => ?_) (fun _ => ?_)

theorem portIn_keeps {r s a1 a2 a3} (h : Keeps r s) : Keeps r (portIn s a1 a2 a3) := by
  unfold portIn
  try dsimp only
  repeat'
    first
      | with_reducible assumption
      | with_reducible exact Keeps.rfl' _
      | with_reducible refine brgCount_keeps ?_
      | with_reducible refine takeIngress_keeps ?_
      | with_reducible refine takeIngress_keepsP ?_ (by assumption)
      | with_reducible refine packetIn_keeps ?_
      | with_reducible refine Keeps.foldl _ ?_ (fun _ _ _ => ?_)
      | with_reducible refine Keeps.ite (fun _ => ?_) (fun _ => ?_)

theorem arriveAt_keeps {r s a1 a2 a3} (h : Keeps r s) : Keeps r (arriveAt s a1 a2 a3) := by
  unfold arriveAt
  try dsimp only
  repeat'
    first
      | with_reducible assumption
      | with_reducible exact Keeps.rfl' _
      | with_reducible refine portIn_keeps ?_
      | with_reducible refine Keeps.foldl _ ?_ (fun _ _ _ => ?_)
      | with_reducible refine Keeps.ite (fun _ => ?_) (fun _ => ?_)
      | (fail_if_no_progress with_reducible refine Keeps.upd (hd := rfl) ?_)

theorem unpack_keeps {r s a1 a2} (h : Keeps r s) : Keeps r (unpack s a1 a2) := by
  unfold unpack
  try dsimp only
  repeat'
    first
      | with_reducible assumption
      | with_reducible exact Keeps.rfl' _
      | with_reducible refine packetIn_keeps ?_
      | with_reducible refine Keeps.foldl _ ?_ (fun _ _ _ => ?_)

theorem flushOne_keeps {r s a1} (h : Keeps r s) : Keeps r (flushOne s a1) := by
  unfold flushOne
  try dsimp only
  repeat'
    first
      | with_reducible assumption
      | with_reducible exact Keeps.rfl' _
      | with_reducible refine submit_keeps ?_
      | with_reducible refine Keeps.foldl _ ?_ (fun _ _ _ => ?_)
      | with_reducible refine Keeps.ite (fun _ => ?_) (fun _ => ?_)
      | (fail_if_no_progress with_reducible refine Keeps.upd (hd := rfl) ?_)
      | split

theorem flushBatch_keeps {r s a1} (h : Keeps r s) : Keeps r (flushBatch s a1) := by
  unfold flushBatch
  try dsimp only
  repeat'
    first
      | with_reducible assumption
      | with_reducible exact Keeps.rfl' _
      | with_reducible refine flushOne_keeps ?_

theorem newMsg_keeps {r s} (h : Keeps r s) : Keeps r (newMsg s).1 := by
  unfold newMsg
  try dsimp only
  repeat'
    first
      | with_reducible assumption
      | with_reducible exact Keeps.rfl' _
      | with_reducible refine Keeps.foldl _ ?_ (fun _ _ _ => ?_)
      | with_reducible refine Keeps.ite (fun _ => ?_) (fun _ => ?_)
      | (fail_if_no_progress with_reducible refine Keeps.upd (hd := rfl) ?_)

theorem newMsg_keepsP {r s t x} (h : Keeps r s) (e : newMsg s = (t, x)) : Keeps r t := by
  have := newMsg_keeps h
  rw [e] at this
  exact this

theorem crossStep_keepsO {r s t} (h : Keeps r s) (e : crossStep s = some t) : Keeps r t := by
  unfold crossStep at e
  try dsimp only at e
  repeat' split at e
  all_goals first
    | contradiction
    | (obtain rfl := Option.some.inj e
       repeat'
      first
        | with_reducible assumption
        | with_reducible exact Keeps.rfl' _
        | with_reducible refine crossOp_keeps ?_
        | with_reducible refine portIn_keeps ?_
        | with_reducible refine Keeps.foldl _ ?_ (fun _ _ _ => ?_)
        | with_reducible refine Keeps.ite (fun _ => ?_) (fun _ => ?_)
        | (fail_if_no_progress with_reducible refine Keeps.upd (hd := rfl) ?_))

theorem fabStep_keepsO {r s t} (h : Keeps r s) (e : fabStep s = some t) : Keeps r t := by
  unfold fabStep at e
  split at e
  · obtain rfl := Option.some.inj e
    exact crossStep_keepsO h (by assumption)
  · obtain rfl := Option.some.inj e
    split
    · exact Keeps.ite (fun _ => unpack_keeps (finishProg_keeps h)) (fun _ => finishProg_keeps h)
    · exact finishProg_keeps h
  · split at e
    · obtain rfl := Option.some.inj e
      exact flushOne_keeps h
    · obtain rfl := Option.some.inj e
      exact admitWaiting_keepsO h (by assumption)
    · obtain rfl := Option.some.inj e
      exact admitHeld_keepsO h (by assumption)
    · obtain ⟨x, _, hx⟩ := List.exists_of_findSome?_eq_some e
      exact drainOne_keepsO h hx

theorem fabRun_keeps {r} {n} : ∀ {s}, Keeps r s → Keeps r (fabRun n s) := by
  induction n with
  | zero => exact id
  | succ n ih =>
    intro s h
    unfold fabRun
    split
    · exact ih (fabStep_keepsO h (by assumption))
    · exact h

theorem linkRd_keeps {r s a1 a2} (h : Keeps r s) : Keeps r (linkRd s a1 a2) := by
  unfold linkRd
  try dsimp only
  repeat'
    first
      | with_reducible assumption
      | with_reducible exact Keeps.rfl' _
      | with_reducible refine fcount_keeps ?_
      | with_reducible refine Keeps.foldl _ ?_ (fun _ _ _ => ?_)
      | with_reducible refine Keeps.ite (fun _ => ?_) (fun _ => ?_)

theorem linkWr_keeps {r s a1 a2} (h : Keeps r s) : Keeps r (linkWr s a1 a2) := by
  unfold linkWr
  try dsimp only
  repeat'
    first
      | with_reducible assumption
      | with_reducible exact Keeps.rfl' _
      | with_reducible refine fcount_keeps ?_
      | with_reducible refine Keeps.foldl _ ?_ (fun _ _ _ => ?_)
      | with_reducible refine Keeps.ite (fun _ => ?_) (fun _ => ?_)

theorem newOp_keeps {r s a1 a2 a3 a4 a5} (h : Keeps r s) : Keeps r (newOp s a1 a2 a3 a4 a5).1 := by
  unfold newOp
  try dsimp only
  repeat'
    first
      | with_reducible assumption
      | with_reducible exact Keeps.rfl' _
      | with_reducible refine tset_keeps ?_

theorem newOp_keepsP {r s a1 a2 a3 a4 a5 t x} (h : Keeps r s) (e : newOp s a1 a2 a3 a4 a5 = (t, x)) : Keeps r t := by
  have := newOp_keeps (a1 := a1) (a2 := a2) (a3 := a3) (a4 := a4) (a5 := a5) h
  rw [e] at this
  exact this

theorem recordStream_keeps {r s a1 a2 a3 a4} (h : Keeps r s) : Keeps r (recordStream s a1 a2 a3 a4) := by
  unfold recordStream
  try dsimp only
  repeat'
    first
      | with_reducible assumption
      | with_reducible exact Keeps.rfl' _
      | with_reducible refine setThread_keeps ?_
      | with_reducible refine Keeps.foldl _ ?_ (fun _ _ _ => ?_)
      | with_reducible refine Keeps.ite (fun _ => ?_) (fun _ => ?_)

theorem issueWait_keeps {r s a1 a2 a3 a4 a5} (h : Keeps r s) : Keeps r (issueWait s a1 a2 a3 a4 a5).state := by
  unfold issueWait
  try dsimp only
  repeat'
    first
      | with_reducible assumption
      | with_reducible exact Keeps.rfl' _
      | with_reducible refine newOp_keeps ?_
      | with_reducible refine newOp_keepsP ?_ (by assumption)
      | with_reducible refine submit_keeps ?_
      | with_reducible refine linkWr_keeps ?_
      | with_reducible refine Keeps.foldl _ ?_ (fun _ _ _ => ?_)
      | with_reducible refine Keeps.ite (fun _ => ?_) (fun _ => ?_)
      | (fail_if_no_progress with_reducible refine Keeps.upd (hd := rfl) ?_)
      | split
      | (fail_if_no_progress dsimp only [IRes.state])

theorem issuePosted_keeps {r s a1 a2 a3} (h : Keeps r s) : Keeps r (issuePosted s a1 a2 a3).state := by
  unfold issuePosted
  try dsimp only
  repeat'
    first
      | with_reducible assumption
      | with_reducible exact Keeps.rfl' _
      | with_reducible refine newOp_keeps ?_
      | with_reducible refine newOp_keepsP ?_ (by assumption)
      | with_reducible refine recordStream_keeps ?_
      | with_reducible refine submit_keeps ?_
      | with_reducible refine linkWr_keeps ?_
      | with_reducible refine Keeps.foldl _ ?_ (fun _ _ _ => ?_)
      | with_reducible refine Keeps.ite (fun _ => ?_) (fun _ => ?_)
      | (fail_if_no_progress with_reducible refine Keeps.upd (hd := rfl) ?_)
      | split
      | (fail_if_no_progress dsimp only [IRes.state])

theorem bodyLdg_keeps {r s a0 a2 a3} (h : Keeps r s) : Keeps r (bodyLdg a0 s a2 a3).state := by
  unfold bodyLdg
  try dsimp only
  repeat'
    first
      | with_reducible assumption
      | with_reducible exact Keeps.rfl' _
      | with_reducible refine issueWait_keeps ?_
      | with_reducible refine Keeps.foldl _ ?_ (fun _ _ _ => ?_)
      | with_reducible refine Keeps.ite (fun _ => ?_) (fun _ => ?_)
      | (fail_if_no_progress with_reducible refine Keeps.upd (hd := rfl) ?_)
      | split
      | (fail_if_no_progress dsimp only [IRes.state])

theorem bodyStg_keeps {r s a0 a2 a3} (h : Keeps r s) : Keeps r (bodyStg a0 s a2 a3).state := by
  unfold bodyStg
  try dsimp only
  repeat'
    first
      | with_reducible assumption
      | with_reducible exact Keeps.rfl' _
      | with_reducible refine issuePosted_keeps ?_
      | with_reducible refine Keeps.foldl _ ?_ (fun _ _ _ => ?_)
      | with_reducible refine Keeps.ite (fun _ => ?_) (fun _ => ?_)
      | (fail_if_no_progress with_reducible refine Keeps.upd (hd := rfl) ?_)
      | split
      | (fail_if_no_progress dsimp only [IRes.state])

theorem bodyAmo_keeps {r s a0 a2 a3} (h : Keeps r s) : Keeps r (bodyAmo a0 s a2 a3).state := by
  unfold bodyAmo
  try dsimp only
  repeat'
    first
      | with_reducible assumption
      | with_reducible exact Keeps.rfl' _
      | with_reducible refine issuePosted_keeps ?_
      | with_reducible refine issueWait_keeps ?_
      | with_reducible refine Keeps.foldl _ ?_ (fun _ _ _ => ?_)
      | with_reducible refine Keeps.ite (fun _ => ?_) (fun _ => ?_)
      | (fail_if_no_progress with_reducible refine Keeps.upd (hd := rfl) ?_)
      | split
      | (fail_if_no_progress dsimp only [IRes.state])

theorem bodyGet_keeps {r s a0 a1 a3 a4} (h : Keeps r s) : Keeps r (bodyGet a0 a1 s a3 a4).state := by
  unfold bodyGet
  try dsimp only
  repeat'
    first
      | with_reducible assumption
      | with_reducible exact Keeps.rfl' _
      | with_reducible refine newOp_keeps ?_
      | with_reducible refine newOp_keepsP ?_ (by assumption)
      | with_reducible refine newMsg_keeps ?_
      | with_reducible refine newMsg_keepsP ?_ (by assumption)
      | with_reducible refine recordStream_keeps ?_
      | with_reducible refine submit_keeps ?_
      | with_reducible refine Keeps.foldl _ ?_ (fun _ _ _ => ?_)
      | with_reducible refine Keeps.ite (fun _ => ?_) (fun _ => ?_)
      | (fail_if_no_progress with_reducible refine Keeps.upd (hd := rfl) ?_)
      | split
      | (fail_if_no_progress dsimp only [IRes.state])

theorem putBlocks_keeps {r t} {l} : ∀ {s ls}, Keeps r s → Keeps r (putBlocks t l s ls).1 := by
  induction l with
  | nil => exact id
  | cons b l ih =>
    intro s ls h
    unfold putBlocks
    split
    · exact ih (readBlock_keepsP h (by assumption))
    · exact readBlock_keepsP h (by assumption)

theorem putBlocks_keepsP {r s t l ls u x} (h : Keeps r s) (e : putBlocks t l s ls = (u, x)) : Keeps r u := by
  have := putBlocks_keeps (t := t) (l := l) (ls := ls) h
  rw [e] at this
  exact this

theorem bodyPut_keeps {r s a0 a2 a3} (h : Keeps r s) : Keeps r (bodyPut a0 s a2 a3).state := by
  unfold bodyPut
  try dsimp only
  repeat'
    first
      | with_reducible assumption
      | with_reducible exact Keeps.rfl' _
      | with_reducible refine putBlocks_keeps ?_
      | with_reducible refine putBlocks_keepsP ?_ (by assumption)
      | with_reducible refine newMsg_keeps ?_
      | with_reducible refine newMsg_keepsP ?_ (by assumption)
      | with_reducible refine newOp_keeps ?_
      | with_reducible refine newOp_keepsP ?_ (by assumption)
      | with_reducible refine submit_keeps ?_
      | with_reducible refine linkWr_keeps ?_
      | with_reducible refine recordStream_keeps ?_
      | with_reducible refine Keeps.foldl _ ?_ (fun _ _ _ => ?_)
      | with_reducible refine Keeps.ite (fun _ => ?_) (fun _ => ?_)
      | (fail_if_no_progress with_reducible refine Keeps.upd (hd := rfl) ?_)
      | split
      | (fail_if_no_progress dsimp only [IRes.state])

theorem bodyXwait_keeps {r s a0 a2 a3} (h : Keeps r s) : Keeps r (bodyXwait a0 s a2 a3).state := by
  unfold bodyXwait
  try dsimp only
  repeat'
    first
      | with_reducible assumption
      | with_reducible exact Keeps.rfl' _
      | with_reducible refine Keeps.foldl _ ?_ (fun _ _ _ => ?_)
      | with_reducible refine Keeps.ite (fun _ => ?_) (fun _ => ?_)
      | (fail_if_no_progress with_reducible refine Keeps.upd (hd := rfl) ?_)
      | split
      | (fail_if_no_progress dsimp only [IRes.state])

theorem bodyFence_keeps {r s a0 a2 a3} (h : Keeps r s) : Keeps r (bodyFence a0 s a2 a3).state := by
  unfold bodyFence
  try dsimp only
  repeat'
    first
      | with_reducible assumption
      | with_reducible exact Keeps.rfl' _
      | with_reducible refine setThread_keeps ?_
      | with_reducible refine Keeps.foldl _ ?_ (fun _ _ _ => ?_)
      | with_reducible refine Keeps.ite (fun _ => ?_) (fun _ => ?_)
      | (fail_if_no_progress with_reducible refine Keeps.upd (hd := rfl) ?_)
      | split
      | (fail_if_no_progress dsimp only [IRes.state])

theorem readyThread_keeps {r s a1 a2 a3} (h : Keeps r s) : Keeps r (readyThread s a1 a2 a3) := by
  unfold readyThread
  try dsimp only
  repeat'
    first
      | with_reducible assumption
      | with_reducible exact Keeps.rfl' _
      | with_reducible refine setThread_keeps ?_

theorem wakeThread_keeps {r s a1 a2} (h : Keeps r s) : Keeps r (wakeThread s a1 a2) := by
  unfold wakeThread
  try dsimp only
  repeat'
    first
      | with_reducible assumption
      | with_reducible exact Keeps.rfl' _
      | with_reducible refine faultThread_keeps ?_
      | with_reducible refine readyThread_keeps ?_
      | with_reducible refine Keeps.foldl _ ?_ (fun _ _ _ => ?_)
      | with_reducible refine Keeps.ite (fun _ => ?_) (fun _ => ?_)
      | (fail_if_no_progress with_reducible refine Keeps.upd (hd := rfl) ?_)
      | split

theorem wakeAll_keeps {r s} (h : Keeps r s) : Keeps r (wakeAll s) := by
  unfold wakeAll
  try dsimp only
  repeat'
    first
      | with_reducible assumption
      | with_reducible exact Keeps.rfl' _
      | with_reducible refine wakeThread_keeps ?_
      | with_reducible refine tset_keeps ?_
      | with_reducible refine Keeps.foldl _ ?_ (fun _ _ _ => ?_)

theorem writeLines_keeps {r s a1 a2 a3 a4} (h : Keeps r s) : Keeps r (writeLines s a1 a2 a3 a4) := by
  unfold writeLines
  try dsimp only
  repeat'
    first
      | with_reducible assumption
      | with_reducible exact Keeps.rfl' _
      | with_reducible refine writeProg_keeps ?_
      | with_reducible refine writeBlock_keeps ?_
      | with_reducible refine Keeps.foldl _ ?_ (fun _ _ _ => ?_)
      | with_reducible refine Keeps.ite (fun _ => ?_) (fun _ => ?_)

theorem takeArrival_keeps {r s a1} (h : Keeps r s) : Keeps r (takeArrival s a1) := by
  unfold takeArrival
  try dsimp only
  repeat'
    first
      | with_reducible assumption
      | with_reducible exact Keeps.rfl' _
      | with_reducible refine tset_keeps ?_
      | with_reducible refine linkRd_keeps ?_
      | with_reducible refine faultThread_keeps ?_
      | with_reducible refine setThread_keeps ?_
      | with_reducible refine writeLines_keeps ?_
      | with_reducible refine Keeps.foldl _ ?_ (fun _ _ _ => ?_)
      | with_reducible refine Keeps.ite (fun _ => ?_) (fun _ => ?_)
      | (fail_if_no_progress with_reducible refine Keeps.upd (hd := rfl) ?_)
      | split

end Sys2Proof.Machine
end

