-- ==== Sys2Proof/Laws/KeepsUnits.lean ====
section
/-!
SUPPORT. What the functions of the Lysdex link, the log, cues, the shunter and light keep.
-/

namespace Sys2Proof.Machine

theorem lysFlits_keeps {r} {n} : ∀ {s sl}, Keeps r s → Keeps r (lysFlits n s sl) := by
  induction n with
  | zero => exact id
  | succ n ih =>
    intro s sl h
    unfold lysFlits
    refine ih (send_keeps (fcount_keeps ?_))
    exact ⟨h.1, h.2, h.3, h.4, h.5⟩

theorem lysShow_keeps {r s} (h : Keeps r s) : Keeps r (lysShow s) := by
  unfold lysShow
  try dsimp only
  repeat'
    first
      | with_reducible assumption
      | with_reducible exact Keeps.rfl' _
      | with_reducible refine send_keeps ?_
      | with_reducible refine Keeps.foldl _ ?_ (fun _ _ _ => ?_)
      | with_reducible refine Keeps.ite (fun _ => ?_) (fun _ => ?_)
      | (fail_if_no_progress with_reducible refine Keeps.upd (hd := rfl) ?_)

theorem lysPumpN_keeps {r n} : ∀ {s}, Keeps r s → Keeps r (lysPumpN n s) := by
  induction n with
  | zero => exact id
  | succ n ih =>
    intro s h
    unfold lysPumpN
    split
    · exact h
    · refine ih (lysFlits_keeps ?_)
      exact ⟨h.1, h.2, h.3, h.4, h.5⟩

theorem lysPump_keeps {r s} (h : Keeps r s) : Keeps r (lysPump s) := by
  unfold lysPump
  try dsimp only
  repeat'
    first
      | with_reducible assumption
      | with_reducible exact Keeps.rfl' _
      | with_reducible refine lysPumpN_keeps ?_
      | with_reducible refine Keeps.foldl _ ?_ (fun _ _ _ => ?_)
      | with_reducible refine Keeps.ite (fun _ => ?_) (fun _ => ?_)

theorem lysSend_keeps {r s a1 a2} (h : Keeps r s) : Keeps r (lysSend s a1 a2) := by
  unfold lysSend
  try dsimp only
  repeat'
    first
      | with_reducible assumption
      | with_reducible exact Keeps.rfl' _
      | with_reducible refine lysPump_keeps ?_
      | with_reducible refine Keeps.foldl _ ?_ (fun _ _ _ => ?_)
      | with_reducible refine Keeps.ite (fun _ => ?_) (fun _ => ?_)
      | (fail_if_no_progress with_reducible refine Keeps.upd (hd := rfl) ?_)

theorem lysFree_keeps {r s a1 a2} (h : Keeps r s) : Keeps r (lysFree s a1 a2) := by
  unfold lysFree
  try dsimp only
  repeat'
    first
      | with_reducible assumption
      | with_reducible exact Keeps.rfl' _
      | with_reducible refine lysSend_keeps ?_
      | with_reducible refine Keeps.foldl _ ?_ (fun _ _ _ => ?_)
      | with_reducible refine Keeps.ite (fun _ => ?_) (fun _ => ?_)
      | (fail_if_no_progress with_reducible refine Keeps.upd (hd := rfl) ?_)
      | split

theorem lysResp_keeps {r s a1 a2 a3 a4} (h : Keeps r s) : Keeps r (lysResp s a1 a2 a3 a4) := by
  unfold lysResp
  try dsimp only
  repeat'
    first
      | with_reducible assumption
      | with_reducible exact Keeps.rfl' _
      | with_reducible refine lysSend_keeps ?_

theorem lysRequest_keeps {r s a1 a2} (h : Keeps r s) : Keeps r (lysRequest s a1 a2) := by
  unfold lysRequest
  try dsimp only
  repeat'
    first
      | with_reducible assumption
      | with_reducible exact Keeps.rfl' _
      | with_reducible refine lysResp_keeps ?_
      | with_reducible refine newMsg_keeps ?_
      | with_reducible refine newMsg_keepsP ?_ (by assumption)
      | with_reducible refine translate_keeps ?_
      | with_reducible refine translate_keepsP ?_ (by assumption)
      | with_reducible refine submit_keeps ?_
      | with_reducible refine Keeps.foldl _ ?_ (fun _ _ _ => ?_)
      | with_reducible refine Keeps.ite (fun _ => ?_) (fun _ => ?_)
      | (fail_if_no_progress with_reducible refine Keeps.upd (hd := rfl) ?_)
      | split

theorem lysDown_keeps {r s a1} (h : Keeps r s) : Keeps r (lysDown s a1) := by
  unfold lysDown
  try dsimp only
  repeat'
    first
      | with_reducible assumption
      | with_reducible exact Keeps.rfl' _
      | with_reducible refine fset_keeps ?_
      | with_reducible refine lysRequest_keeps ?_
      | with_reducible refine closeRecall_keeps ?_
      | with_reducible refine emit_keeps ?_
      | with_reducible refine Keeps.foldl _ ?_ (fun _ _ _ => ?_)
      | with_reducible refine Keeps.ite (fun _ => ?_) (fun _ => ?_)
      | (fail_if_no_progress with_reducible refine Keeps.upd (hd := rfl) ?_)

theorem lysUp_keeps {r s a1} (h : Keeps r s) : Keeps r (lysUp s a1) := by
  unfold lysUp
  try dsimp only
  repeat'
    first
      | with_reducible assumption
      | with_reducible exact Keeps.rfl' _
      | with_reducible refine fset_keeps ?_
      | with_reducible refine fcount_keeps ?_
      | with_reducible refine lysSend_keeps ?_
      | with_reducible refine Keeps.foldl _ ?_ (fun _ _ _ => ?_)
      | with_reducible refine Keeps.ite (fun _ => ?_) (fun _ => ?_)
      | (fail_if_no_progress with_reducible refine Keeps.upd (hd := rfl) ?_)

theorem lysAgreed_keeps {r s a1} (h : Keeps r s) : Keeps r (lysAgreed s a1) := by
  unfold lysAgreed
  try dsimp only
  repeat'
    first
      | with_reducible assumption
      | with_reducible exact Keeps.rfl' _
      | with_reducible refine fsetb_keeps ?_
      | with_reducible refine fset_keeps ?_
      | with_reducible refine emit_keeps ?_

theorem lysFeature_keeps {r s a1} (h : Keeps r s) : Keeps r (lysFeature s a1) := by
  unfold lysFeature
  try dsimp only
  repeat'
    first
      | with_reducible assumption
      | with_reducible exact Keeps.rfl' _
      | with_reducible refine fset_keeps ?_
      | with_reducible refine lysAgreed_keeps ?_
      | with_reducible refine Keeps.foldl _ ?_ (fun _ _ _ => ?_)
      | with_reducible refine Keeps.ite (fun _ => ?_) (fun _ => ?_)
      | (fail_if_no_progress with_reducible refine Keeps.upd (hd := rfl) ?_)

theorem lysFeatureTimeout_keeps {r s} (h : Keeps r s) : Keeps r (lysFeatureTimeout s) := by
  unfold lysFeatureTimeout
  try dsimp only
  repeat'
    first
      | with_reducible assumption
      | with_reducible exact Keeps.rfl' _
      | with_reducible refine lysAgreed_keeps ?_
      | with_reducible refine Keeps.foldl _ ?_ (fun _ _ _ => ?_)
      | with_reducible refine Keeps.ite (fun _ => ?_) (fun _ => ?_)

theorem lysTrainRetry_keeps {r s} (h : Keeps r s) : Keeps r (lysTrainRetry s) := by
  unfold lysTrainRetry
  try dsimp only
  repeat'
    first
      | with_reducible assumption
      | with_reducible exact Keeps.rfl' _
      | with_reducible refine lysDown_keeps ?_
      | with_reducible refine emit_keeps ?_
      | with_reducible refine fcount_keeps ?_
      | with_reducible refine Keeps.foldl _ ?_ (fun _ _ _ => ?_)
      | with_reducible refine Keeps.ite (fun _ => ?_) (fun _ => ?_)

theorem lysReset_keeps {r s a1} (h : Keeps r s) : Keeps r (lysReset s a1) := by
  unfold lysReset
  try dsimp only
  repeat'
    first
      | with_reducible assumption
      | with_reducible exact Keeps.rfl' _
      | with_reducible refine lysDown_keeps ?_
      | with_reducible refine Keeps.foldl _ ?_ (fun _ _ _ => ?_)
      | with_reducible refine Keeps.ite (fun _ => ?_) (fun _ => ?_)
      | (fail_if_no_progress with_reducible refine Keeps.upd (hd := rfl) ?_)

theorem lysReplay_keeps {r s a1} (h : Keeps r s) : Keeps r (lysReplay s a1) := by
  unfold lysReplay
  try dsimp only
  repeat'
    first
      | with_reducible assumption
      | with_reducible exact Keeps.rfl' _
      | with_reducible refine lysDown_keeps ?_
      | with_reducible refine fcount_keeps ?_
      | with_reducible refine send_keeps ?_
      | with_reducible refine Keeps.foldl _ ?_ (fun _ _ _ => ?_)
      | with_reducible refine Keeps.ite (fun _ => ?_) (fun _ => ?_)
      | (fail_if_no_progress with_reducible refine Keeps.upd (hd := rfl) ?_)

theorem lysReplayTimeout_keeps {r s} (h : Keeps r s) : Keeps r (lysReplayTimeout s) := by
  unfold lysReplayTimeout
  try dsimp only
  repeat'
    first
      | with_reducible assumption
      | with_reducible exact Keeps.rfl' _
      | with_reducible refine lysReplay_keeps ?_
      | with_reducible refine Keeps.foldl _ ?_ (fun _ _ _ => ?_)
      | with_reducible refine Keeps.ite (fun _ => ?_) (fun _ => ?_)
      | (fail_if_no_progress with_reducible refine Keeps.upd (hd := rfl) ?_)
      | split

theorem lysTakeAck_keeps {r s a1} (h : Keeps r s) : Keeps r (lysTakeAck s a1) := by
  unfold lysTakeAck
  try dsimp only
  repeat'
    first
      | with_reducible assumption
      | with_reducible exact Keeps.rfl' _
      | with_reducible refine lysPump_keeps ?_
      | with_reducible refine Keeps.foldl _ ?_ (fun _ _ _ => ?_)
      | with_reducible refine Keeps.ite (fun _ => ?_) (fun _ => ?_)
      | (fail_if_no_progress with_reducible refine Keeps.upd (hd := rfl) ?_)

theorem lysFlitIn_keeps {r s a1 a2} (h : Keeps r s) : Keeps r (lysFlitIn s a1 a2) := by
  unfold lysFlitIn
  try dsimp only
  repeat'
    first
      | with_reducible assumption
      | with_reducible exact Keeps.rfl' _
      | with_reducible refine fcount_keeps ?_
      | with_reducible refine send_keeps ?_
      | with_reducible refine lysTakeAck_keeps ?_
      | with_reducible refine lysReplay_keeps ?_
      | with_reducible refine Keeps.foldl _ ?_ (fun _ _ _ => ?_)
      | with_reducible refine Keeps.ite (fun _ => ?_) (fun _ => ?_)
      | (fail_if_no_progress with_reducible refine Keeps.upd (hd := rfl) ?_)

theorem lysResult_keeps {r s a1 a2 a3 a4 a5 a6} (h : Keeps r s) : Keeps r (lysResult s a1 a2 a3 a4 a5 a6) := by
  unfold lysResult
  try dsimp only
  repeat'
    first
      | with_reducible assumption
      | with_reducible exact Keeps.rfl' _
      | with_reducible refine lysResp_keeps ?_
      | with_reducible refine lysSend_keeps ?_
      | with_reducible refine Keeps.foldl _ ?_ (fun _ _ _ => ?_)
      | with_reducible refine Keeps.ite (fun _ => ?_) (fun _ => ?_)

theorem lysLine_keeps {r s a1 a2} (h : Keeps r s) : Keeps r (lysLine s a1 a2) := by
  unfold lysLine
  try dsimp only
  repeat'
    first
      | with_reducible assumption
      | with_reducible exact Keeps.rfl' _
      | with_reducible refine setDepLine_keeps ?_
      | with_reducible refine touch_keeps ?_
      | with_reducible refine setLineErr_keeps ?_
      | with_reducible refine Keeps.foldl _ ?_ (fun _ _ _ => ?_)
      | with_reducible refine Keeps.ite (fun _ => ?_) (fun _ => ?_)

theorem lysForget_keeps {r s a1} (h : Keeps r s) : Keeps r (lysForget s a1) := by
  unfold lysForget
  try dsimp only
  repeat'
    first
      | with_reducible assumption
      | with_reducible exact Keeps.rfl' _
      | with_reducible refine Keeps.foldl _ ?_ (fun _ _ _ => ?_)
      | with_reducible refine Keeps.ite (fun _ => ?_) (fun _ => ?_)
      | (fail_if_no_progress with_reducible refine Keeps.upd (hd := rfl) ?_)

theorem lysReturn_keeps {r s a1 a2} (h : Keeps r s) : Keeps r (lysReturn s a1 a2) := by
  unfold lysReturn
  try dsimp only
  repeat'
    first
      | with_reducible assumption
      | with_reducible exact Keeps.rfl' _
      | with_reducible refine lysResp_keeps ?_
      | with_reducible refine translate_keeps ?_
      | with_reducible refine translate_keepsP ?_ (by assumption)
      | with_reducible refine noteRefusal_keeps ?_
      | with_reducible refine lysForget_keeps ?_
      | with_reducible refine lysLine_keeps ?_
      | with_reducible refine emitLim_keeps ?_
      | with_reducible refine Keeps.foldl _ ?_ (fun _ _ _ => ?_)
      | with_reducible refine Keeps.ite (fun _ => ?_) (fun _ => ?_)
      | (fail_if_no_progress with_reducible refine Keeps.upd (hd := rfl) ?_)
      | split

theorem lysRecallAck_keeps {r s a1 a2} (h : Keeps r s) : Keeps r (lysRecallAck s a1 a2) := by
  unfold lysRecallAck
  try dsimp only
  repeat'
    first
      | with_reducible assumption
      | with_reducible exact Keeps.rfl' _
      | with_reducible refine emitLim_keeps ?_
      | with_reducible refine lysLine_keeps ?_
      | with_reducible refine closeRecall_keeps ?_
      | with_reducible refine Keeps.foldl _ ?_ (fun _ _ _ => ?_)
      | with_reducible refine Keeps.ite (fun _ => ?_) (fun _ => ?_)
      | (fail_if_no_progress with_reducible refine Keeps.upd (hd := rfl) ?_)
      | split

theorem recallTimeout_keeps {r s a1} (h : Keeps r s) : Keeps r (recallTimeout s a1) := by
  unfold recallTimeout
  try dsimp only
  repeat'
    first
      | with_reducible assumption
      | with_reducible exact Keeps.rfl' _
      | with_reducible refine fcount_keeps ?_
      | with_reducible refine closeRecall_keeps ?_
      | with_reducible refine emitLim_keeps ?_
      | with_reducible refine Keeps.foldl _ ?_ (fun _ _ _ => ?_)
      | with_reducible refine Keeps.ite (fun _ => ?_) (fun _ => ?_)
      | (fail_if_no_progress with_reducible refine Keeps.upd (hd := rfl) ?_)
      | split

theorem sendRecalls_keeps {r s} (h : Keeps r s) : Keeps r (sendRecalls s) := by
  unfold sendRecalls
  try dsimp only
  repeat'
    first
      | with_reducible assumption
      | with_reducible exact Keeps.rfl' _
      | with_reducible refine closeRecall_keeps ?_
      | with_reducible refine brgCount_keeps ?_
      | with_reducible refine lysSend_keeps ?_
      | with_reducible refine fcount_keeps ?_
      | with_reducible refine Keeps.foldl _ ?_ (fun _ _ _ => ?_)
      | with_reducible refine Keeps.ite (fun _ => ?_) (fun _ => ?_)
      | (fail_if_no_progress with_reducible refine Keeps.upd (hd := rfl) ?_)
      | split

theorem lysTakeCredit_keeps {r s a1} (h : Keeps r s) : Keeps r (lysTakeCredit s a1) := by
  unfold lysTakeCredit
  try dsimp only
  repeat'
    first
      | with_reducible assumption
      | with_reducible exact Keeps.rfl' _
      | with_reducible refine lysPump_keeps ?_
      | with_reducible refine Keeps.foldl _ ?_ (fun _ _ _ => ?_)
      | with_reducible refine Keeps.ite (fun _ => ?_) (fun _ => ?_)
      | (fail_if_no_progress with_reducible refine Keeps.upd (hd := rfl) ?_)

theorem lysEvent_keeps {r s a1 a2 a3 a4} (h : Keeps r s) : Keeps r (lysEvent s a1 a2 a3 a4) := by
  unfold lysEvent
  try dsimp only
  repeat'
    first
      | with_reducible assumption
      | with_reducible exact Keeps.rfl' _
      | with_reducible refine fcount_keeps ?_
      | with_reducible refine lysSend_keeps ?_
      | with_reducible refine Keeps.foldl _ ?_ (fun _ _ _ => ?_)
      | with_reducible refine Keeps.ite (fun _ => ?_) (fun _ => ?_)

theorem lysTake_keeps {r s a1} (h : Keeps r s) : Keeps r (lysTake s a1) := by
  unfold lysTake
  try dsimp only
  repeat'
    first
      | with_reducible assumption
      | with_reducible exact Keeps.rfl' _
      | with_reducible refine lysFree_keeps ?_
      | with_reducible refine Keeps.foldl _ ?_ (fun _ _ _ => ?_)
      | with_reducible refine Keeps.ite (fun _ => ?_) (fun _ => ?_)
      | (fail_if_no_progress with_reducible refine Keeps.upd (hd := rfl) ?_)

theorem lysMessage_keeps {r s a1 a2} (h : Keeps r s) : Keeps r (lysMessage s a1 a2) := by
  unfold lysMessage
  try dsimp only
  repeat'
    first
      | with_reducible assumption
      | with_reducible exact Keeps.rfl' _
      | with_reducible refine lysRequest_keeps ?_
      | with_reducible refine lysReturn_keeps ?_
      | with_reducible refine lysRecallAck_keeps ?_
      | with_reducible refine lysTakeCredit_keeps ?_
      | with_reducible refine lysFeature_keeps ?_
      | with_reducible refine lysResp_keeps ?_
      | with_reducible refine Keeps.foldl _ ?_ (fun _ _ _ => ?_)
      | with_reducible refine Keeps.ite (fun _ => ?_) (fun _ => ?_)
      | (fail_if_no_progress with_reducible refine Keeps.upd (hd := rfl) ?_)
      | split

theorem lysPresent_keeps {r s a1 a2} (h : Keeps r s) : Keeps r (lysPresent s a1 a2) := by
  unfold lysPresent
  try dsimp only
  repeat'
    first
      | with_reducible assumption
      | with_reducible exact Keeps.rfl' _
      | with_reducible refine lysMessage_keeps ?_
      | with_reducible refine brgCount_keeps ?_
      | with_reducible refine Keeps.foldl _ ?_ (fun _ _ _ => ?_)
      | with_reducible refine Keeps.ite (fun _ => ?_) (fun _ => ?_)

theorem lysInOrder_keeps {r s a1 a2} (h : Keeps r s) : Keeps r (lysInOrder s a1 a2) := by
  unfold lysInOrder
  try dsimp only
  repeat'
    first
      | with_reducible assumption
      | with_reducible exact Keeps.rfl' _
      | with_reducible refine lysPresent_keeps ?_
      | with_reducible refine Keeps.foldl _ ?_ (fun _ _ _ => ?_)
      | with_reducible refine Keeps.ite (fun _ => ?_) (fun _ => ?_)
      | (fail_if_no_progress with_reducible refine Keeps.upd (hd := rfl) ?_)

theorem lysLate_keepsO {r s t} (h : Keeps r s) (e : lysLate s = some t) : Keeps r t := by
  unfold lysLate guardOpt at e
  split at e
  · split at e
    · obtain rfl := Option.some.inj e
      exact lysPresent_keeps (Keeps.upd (hd := rfl) h)
    · contradiction
  · contradiction

theorem lysCntClr_keeps {r s} (h : Keeps r s) : Keeps r (lysCntClr s) := by
  unfold lysCntClr
  try dsimp only
  repeat'
    first
      | with_reducible assumption
      | with_reducible exact Keeps.rfl' _
      | with_reducible refine fset_keeps ?_

theorem i3cIbi_keeps {r s a1} (h : Keeps r s) : Keeps r (i3cIbi s a1) := by
  unfold i3cIbi
  try dsimp only
  repeat'
    first
      | with_reducible assumption
      | with_reducible exact Keeps.rfl' _
      | with_reducible refine send_keeps ?_
      | with_reducible refine Keeps.foldl _ ?_ (fun _ _ _ => ?_)
      | with_reducible refine Keeps.ite (fun _ => ?_) (fun _ => ?_)

theorem writeLog_keeps {r s a1} (h : Keeps r s) : Keeps r (writeLog s a1) := by
  unfold writeLog
  try dsimp only
  repeat'
    first
      | with_reducible assumption
      | with_reducible exact Keeps.rfl' _
      | with_reducible refine brgCount_keeps ?_
      | with_reducible refine unitStore_keeps ?_
      | with_reducible refine fset_keeps ?_
      | with_reducible refine emitLim_keeps ?_
      | with_reducible refine fcount_keeps ?_
      | with_reducible refine i3cIbi_keeps ?_
      | with_reducible refine lysEvent_keeps ?_
      | with_reducible refine Keeps.foldl _ ?_ (fun _ _ _ => ?_)
      | with_reducible refine Keeps.ite (fun _ => ?_) (fun _ => ?_)

theorem writeCue_keeps {r s a1} (h : Keeps r s) : Keeps r (writeCue s a1) := by
  unfold writeCue
  try dsimp only
  repeat'
    first
      | with_reducible assumption
      | with_reducible exact Keeps.rfl' _
      | with_reducible refine fcount_keeps ?_
      | with_reducible refine unitStore_keeps ?_
      | with_reducible refine fset_keeps ?_
      | with_reducible refine Keeps.foldl _ ?_ (fun _ _ _ => ?_)
      | with_reducible refine Keeps.ite (fun _ => ?_) (fun _ => ?_)

theorem logWrite_keeps {r s a1} (h : Keeps r s) : Keeps r (logWrite s a1) := by
  unfold logWrite
  try dsimp only
  repeat'
    first
      | with_reducible assumption
      | with_reducible exact Keeps.rfl' _
      | with_reducible refine writeLog_keeps ?_
      | with_reducible refine writeCue_keeps ?_
      | with_reducible refine Keeps.foldl _ ?_ (fun _ _ _ => ?_)
      | with_reducible refine Keeps.ite (fun _ => ?_) (fun _ => ?_)
      | (fail_if_no_progress with_reducible refine Keeps.upd (hd := rfl) ?_)
      | split

theorem flushHeld_keeps {r s} (h : Keeps r s) : Keeps r (flushHeld s) := by
  unfold flushHeld
  try dsimp only
  repeat'
    first
      | with_reducible assumption
      | with_reducible exact Keeps.rfl' _
      | with_reducible refine Keeps.foldl _ ?_ (fun _ _ _ => ?_)
      | with_reducible refine Keeps.ite (fun _ => ?_) (fun _ => ?_)
      | (fail_if_no_progress with_reducible refine Keeps.upd (hd := rfl) ?_)

theorem readMap_keeps {r s a1} (h : Keeps r s) : Keeps r (readMap s a1) := by
  unfold readMap
  try dsimp only
  repeat'
    first
      | with_reducible assumption
      | with_reducible exact Keeps.rfl' _
      | with_reducible refine unitReads_keeps ?_
      | with_reducible refine Keeps.foldl _ ?_ (fun _ _ _ => ?_)
      | with_reducible refine Keeps.ite (fun _ => ?_) (fun _ => ?_)

theorem ctrInc_keeps {r s a1 a2} (h : Keeps r s) : Keeps r (ctrInc s a1 a2) := by
  unfold ctrInc
  try dsimp only
  repeat'
    first
      | with_reducible assumption
      | with_reducible exact Keeps.rfl' _
      | with_reducible refine fset_keeps ?_

theorem cueErr_keeps {r s a1 a2 a3 a4} (h : Keeps r s) : Keeps r (cueErr s a1 a2 a3 a4) := by
  unfold cueErr
  try dsimp only
  repeat'
    first
      | with_reducible assumption
      | with_reducible exact Keeps.rfl' _
      | with_reducible refine fset_keeps ?_
      | with_reducible refine emitLim_keeps ?_

theorem cueId_keeps {r s} (h : Keeps r s) : Keeps r (cueId s).1 := by
  unfold cueId
  try dsimp only
  repeat'
    first
      | with_reducible assumption
      | with_reducible exact Keeps.rfl' _
      | with_reducible refine Keeps.foldl _ ?_ (fun _ _ _ => ?_)
      | with_reducible refine Keeps.ite (fun _ => ?_) (fun _ => ?_)
      | (fail_if_no_progress with_reducible refine Keeps.upd (hd := rfl) ?_)

theorem cueId_keepsP {r s t x} (h : Keeps r s) (e : cueId s = (t, x)) : Keeps r t := by
  have := cueId_keeps h
  rw [e] at this
  exact this

theorem mboxSend_keeps {r s a1 a2 a3 a4} (h : Keeps r s) : Keeps r (mboxSend s a1 a2 a3 a4) := by
  unfold mboxSend
  try dsimp only
  repeat'
    first
      | with_reducible assumption
      | with_reducible exact Keeps.rfl' _
      | with_reducible refine newMsg_keeps ?_
      | with_reducible refine newMsg_keepsP ?_ (by assumption)
      | with_reducible refine submit_keeps ?_

theorem cueTask_keeps {r s a1 a2 a3 a4 a5} (h : Keeps r s) : Keeps r (cueTask s a1 a2 a3 a4 a5).1 := by
  unfold cueTask
  try dsimp only
  repeat'
    first
      | with_reducible assumption
      | with_reducible exact Keeps.rfl' _
      | with_reducible refine cueId_keeps ?_
      | with_reducible refine cueId_keepsP ?_ (by assumption)
      | with_reducible refine Keeps.foldl _ ?_ (fun _ _ _ => ?_)
      | with_reducible refine Keeps.ite (fun _ => ?_) (fun _ => ?_)
      | (fail_if_no_progress with_reducible refine Keeps.upd (hd := rfl) ?_)

theorem cueTask_keepsP {r s a1 a2 a3 a4 a5 t x} (h : Keeps r s) (e : cueTask s a1 a2 a3 a4 a5 = (t, x)) : Keeps r t := by
  have := cueTask_keeps (a1 := a1) (a2 := a2) (a3 := a3) (a4 := a4) (a5 := a5) h
  rw [e] at this
  exact this

theorem cueRead_keeps {r s a1 a2 a3 a4} (h : Keeps r s) : Keeps r (cueRead s a1 a2 a3 a4) := by
  unfold cueRead
  try dsimp only
  repeat'
    first
      | with_reducible assumption
      | with_reducible exact Keeps.rfl' _
      | with_reducible refine newMsg_keeps ?_
      | with_reducible refine newMsg_keepsP ?_ (by assumption)
      | with_reducible refine submit_keeps ?_

theorem sendRecs_keeps {r s a1 a2 a3 a4} (h : Keeps r s) : Keeps r (sendRecs s a1 a2 a3 a4) := by
  unfold sendRecs
  try dsimp only
  repeat'
    first
      | with_reducible assumption
      | with_reducible exact Keeps.rfl' _
      | with_reducible refine cueTask_keeps ?_
      | with_reducible refine cueTask_keepsP ?_ (by assumption)
      | with_reducible refine mboxSend_keeps ?_
      | with_reducible refine Keeps.foldl _ ?_ (fun _ _ _ => ?_)

theorem collSet_keeps {r s a1} (h : Keeps r s) : Keeps r (collSet s a1) := by
  unfold collSet
  try dsimp only
  repeat'
    first
      | with_reducible assumption
      | with_reducible exact Keeps.rfl' _
      | with_reducible refine Keeps.foldl _ ?_ (fun _ _ _ => ?_)
      | with_reducible refine Keeps.ite (fun _ => ?_) (fun _ => ?_)
      | (fail_if_no_progress with_reducible refine Keeps.upd (hd := rfl) ?_)

theorem finishRun_keeps {r s a1} (h : Keeps r s) : Keeps r (finishRun s a1) := by
  unfold finishRun
  try dsimp only
  repeat'
    first
      | with_reducible assumption
      | with_reducible exact Keeps.rfl' _
      | with_reducible refine ctrInc_keeps ?_
      | with_reducible refine Keeps.foldl _ ?_ (fun _ _ _ => ?_)
      | with_reducible refine Keeps.ite (fun _ => ?_) (fun _ => ?_)
      | (fail_if_no_progress with_reducible refine Keeps.upd (hd := rfl) ?_)

theorem runStep_keeps {r s id f} (h : Keeps r s) : Keeps r (runStep s id f) := by
  unfold runStep
  split
  · exact h
  · refine Keeps.ite (fun _ => finishRun_keeps h) (fun _ => ?_)
    exact ⟨h.1, h.2, h.3, h.4, h.5⟩

theorem runDone_keeps {r s a1} (h : Keeps r s) : Keeps r (runDone s a1) := by
  unfold runDone
  try dsimp only
  repeat'
    first
      | with_reducible assumption
      | with_reducible exact Keeps.rfl' _
      | with_reducible refine runStep_keeps ?_
      | with_reducible refine Keeps.foldl _ ?_ (fun _ _ _ => ?_)
      | with_reducible refine Keeps.ite (fun _ => ?_) (fun _ => ?_)
      | (fail_if_no_progress with_reducible refine Keeps.upd (hd := rfl) ?_)
      | split

theorem closeRuns_keeps {r s a1} (h : Keeps r s) : Keeps r (closeRuns s a1) := by
  unfold closeRuns
  try dsimp only
  repeat'
    first
      | with_reducible assumption
      | with_reducible exact Keeps.rfl' _
      | with_reducible refine runStep_keeps ?_
      | with_reducible refine Keeps.foldl _ ?_ (fun _ _ _ => ?_)

theorem mapWritten_keeps {r s a1} (h : Keeps r s) : Keeps r (mapWritten s a1) := by
  unfold mapWritten
  try dsimp only
  repeat'
    first
      | with_reducible assumption
      | with_reducible exact Keeps.rfl' _
      | with_reducible refine Keeps.foldl _ ?_ (fun _ _ _ => ?_)
      | with_reducible refine Keeps.ite (fun _ => ?_) (fun _ => ?_)
      | (fail_if_no_progress with_reducible refine Keeps.upd (hd := rfl) ?_)

theorem abortColl_keeps {r s a1 a2 a3 a4 a5} (h : Keeps r s) : Keeps r (abortColl s a1 a2 a3 a4 a5) := by
  unfold abortColl
  try dsimp only
  repeat'
    first
      | with_reducible assumption
      | with_reducible exact Keeps.rfl' _
      | with_reducible refine ctrInc_keeps ?_
      | with_reducible refine fset_keeps ?_
      | with_reducible refine emit_keeps ?_
      | with_reducible refine closeRuns_keeps ?_
      | with_reducible refine mboxSend_keeps ?_
      | with_reducible refine Keeps.foldl _ ?_ (fun _ _ _ => ?_)
      | with_reducible refine Keeps.ite (fun _ => ?_) (fun _ => ?_)
      | (fail_if_no_progress with_reducible refine Keeps.upd (hd := rfl) ?_)
      | split

theorem mismatch_keeps {r s a1 a2 a3} (h : Keeps r s) : Keeps r (mismatch s a1 a2 a3) := by
  unfold mismatch
  try dsimp only
  repeat'
    first
      | with_reducible assumption
      | with_reducible exact Keeps.rfl' _
      | with_reducible refine emit_keeps ?_
      | with_reducible refine abortColl_keeps ?_
      | with_reducible refine Keeps.foldl _ ?_ (fun _ _ _ => ?_)
      | with_reducible refine Keeps.ite (fun _ => ?_) (fun _ => ?_)
      | (fail_if_no_progress with_reducible refine Keeps.upd (hd := rfl) ?_)
      | split

theorem cueFail_keeps {r s a1 a2 a3 a4 a5} (h : Keeps r s) : Keeps r (cueFail s a1 a2 a3 a4 a5) := by
  unfold cueFail
  try dsimp only
  repeat'
    first
      | with_reducible assumption
      | with_reducible exact Keeps.rfl' _
      | with_reducible refine cueErr_keeps ?_
      | with_reducible refine abortColl_keeps ?_
      | with_reducible refine Keeps.foldl _ ?_ (fun _ _ _ => ?_)
      | with_reducible refine Keeps.ite (fun _ => ?_) (fun _ => ?_)
      | (fail_if_no_progress with_reducible refine Keeps.upd (hd := rfl) ?_)

theorem stmSet_keeps {r s a1 a2} (h : Keeps r s) : Keeps r (stmSet s a1 a2) := by
  unfold stmSet
  try dsimp only
  repeat'
    first
      | with_reducible assumption
      | with_reducible exact Keeps.rfl' _
      | with_reducible refine Keeps.foldl _ ?_ (fun _ _ _ => ?_)
      | with_reducible refine Keeps.ite (fun _ => ?_) (fun _ => ?_)
      | (fail_if_no_progress with_reducible refine Keeps.upd (hd := rfl) ?_)

theorem gradFailed_keeps {r s a1} (h : Keeps r s) : Keeps r (gradFailed s a1) := by
  unfold gradFailed
  try dsimp only
  repeat'
    first
      | with_reducible assumption
      | with_reducible exact Keeps.rfl' _
      | with_reducible refine stmSet_keeps ?_
      | with_reducible refine Keeps.foldl _ ?_ (fun _ _ _ => ?_)
      | with_reducible refine Keeps.ite (fun _ => ?_) (fun _ => ?_)

theorem runFail_keeps {r s a1 a2 a3} (h : Keeps r s) : Keeps r (runFail s a1 a2 a3) := by
  unfold runFail
  try dsimp only
  repeat'
    first
      | with_reducible assumption
      | with_reducible exact Keeps.rfl' _
      | with_reducible refine gradFailed_keeps ?_
      | with_reducible refine cueFail_keeps ?_
      | with_reducible refine Keeps.foldl _ ?_ (fun _ _ _ => ?_)
      | with_reducible refine Keeps.ite (fun _ => ?_) (fun _ => ?_)
      | (fail_if_no_progress with_reducible refine Keeps.upd (hd := rfl) ?_)
      | split

theorem readChunk_keeps {r s a1 a2 a3} (h : Keeps r s) : Keeps r (readChunk s a1 a2 a3) := by
  unfold readChunk
  try dsimp only
  repeat'
    first
      | with_reducible assumption
      | with_reducible exact Keeps.rfl' _
      | with_reducible refine cueTask_keeps ?_
      | with_reducible refine cueTask_keepsP ?_ (by assumption)
      | with_reducible refine cueRead_keeps ?_

theorem announce_keeps {r s a1 a2} (h : Keeps r s) : Keeps r (announce s a1 a2).1 := by
  unfold announce
  try dsimp only
  repeat'
    first
      | with_reducible assumption
      | with_reducible exact Keeps.rfl' _
      | with_reducible refine collSet_keeps ?_
      | with_reducible refine fresh_keeps ?_
      | with_reducible refine Keeps.foldl _ ?_ (fun _ _ _ => ?_)
      | with_reducible refine Keeps.ite (fun _ => ?_) (fun _ => ?_)
      | (fail_if_no_progress with_reducible refine Keeps.upd (hd := rfl) ?_)
      | split

theorem announce_keepsP {r s a1 a2 t x} (h : Keeps r s) (e : announce s a1 a2 = (t, x)) : Keeps r t := by
  have := announce_keeps (a1 := a1) (a2 := a2) h
  rw [e] at this
  exact this

theorem sendChunk_keeps {r s a1 a2 a3 a4} (h : Keeps r s) : Keeps r (sendChunk s a1 a2 a3 a4) := by
  unfold sendChunk
  try dsimp only
  repeat'
    first
      | with_reducible assumption
      | with_reducible exact Keeps.rfl' _
      | with_reducible refine cueTask_keeps ?_
      | with_reducible refine cueTask_keepsP ?_ (by assumption)
      | with_reducible refine announce_keeps ?_
      | with_reducible refine announce_keepsP ?_ (by assumption)
      | with_reducible refine mboxSend_keeps ?_
      | with_reducible refine submit_keeps ?_
      | with_reducible refine Keeps.foldl _ ?_ (fun _ _ _ => ?_)
      | with_reducible refine Keeps.ite (fun _ => ?_) (fun _ => ?_)

theorem startMsg_keeps {r s a1 a2 a3 a4 a5 a6 a7 a8} (h : Keeps r s) : Keeps r (startMsg s a1 a2 a3 a4 a5 a6 a7 a8) := by
  unfold startMsg
  try dsimp only
  repeat'
    first
      | with_reducible assumption
      | with_reducible exact Keeps.rfl' _
      | with_reducible refine newMsg_keeps ?_
      | with_reducible refine newMsg_keepsP ?_ (by assumption)
      | with_reducible refine readChunk_keeps ?_

theorem armCue_keeps {r s a1 a2} (h : Keeps r s) : Keeps r (armCue s a1 a2) := by
  unfold armCue
  try dsimp only
  repeat'
    first
      | with_reducible assumption
      | with_reducible exact Keeps.rfl' _
      | with_reducible refine unitRead_keeps ?_
      | with_reducible refine unitRead_keepsP ?_ (by assumption)
      | with_reducible refine cueErr_keeps ?_
      | with_reducible refine readMap_keeps ?_
      | with_reducible refine cueFail_keeps ?_
      | with_reducible refine Keeps.foldl _ ?_ (fun _ _ _ => ?_)
      | with_reducible refine Keeps.ite (fun _ => ?_) (fun _ => ?_)
      | (fail_if_no_progress with_reducible refine Keeps.upd (hd := rfl) ?_)
      | split

theorem cuePoint_keeps {r s a1 a2} (h : Keeps r s) : Keeps r (cuePoint s a1 a2) := by
  unfold cuePoint
  try dsimp only
  repeat'
    first
      | with_reducible assumption
      | with_reducible exact Keeps.rfl' _
      | with_reducible refine fcount_keeps ?_
      | with_reducible refine Keeps.foldl _ ?_ (fun _ _ _ => ?_)
      | with_reducible refine Keeps.ite (fun _ => ?_) (fun _ => ?_)
      | (fail_if_no_progress with_reducible refine Keeps.upd (hd := rfl) ?_)

theorem fire_keeps {r s a1 a2 a3} (h : Keeps r s) : Keeps r (fire s a1 a2 a3).1 := by
  unfold fire
  try dsimp only
  repeat'
    first
      | with_reducible assumption
      | with_reducible exact Keeps.rfl' _
      | with_reducible refine cueFail_keeps ?_
      | with_reducible refine fcount_keeps ?_
      | with_reducible refine cuePoint_keeps ?_
      | with_reducible refine armCue_keeps ?_
      | with_reducible refine cueId_keeps ?_
      | with_reducible refine cueId_keepsP ?_ (by assumption)
      | with_reducible refine Keeps.foldl _ ?_ (fun _ _ _ => ?_)
      | with_reducible refine Keeps.ite (fun _ => ?_) (fun _ => ?_)
      | (fail_if_no_progress with_reducible refine Keeps.upd (hd := rfl) ?_)
      | split

theorem fire_keepsP {r s a1 a2 a3 t x} (h : Keeps r s) (e : fire s a1 a2 a3 = (t, x)) : Keeps r t := by
  have := fire_keeps (a1 := a1) (a2 := a2) (a3 := a3) h
  rw [e] at this
  exact this

theorem fireNop_keeps {r s a1} (h : Keeps r s) : Keeps r (fireNop s a1) := by
  unfold fireNop
  try dsimp only
  repeat'
    first
      | with_reducible assumption
      | with_reducible exact Keeps.rfl' _
      | with_reducible refine fire_keeps ?_
      | with_reducible refine fire_keepsP ?_ (by assumption)
      | with_reducible refine runDone_keeps ?_
      | with_reducible refine Keeps.foldl _ ?_ (fun _ _ _ => ?_)
      | with_reducible refine Keeps.ite (fun _ => ?_) (fun _ => ?_)
      | (fail_if_no_progress with_reducible refine Keeps.upd (hd := rfl) ?_)
      | split

theorem fireShift_keeps {r s a1} (h : Keeps r s) : Keeps r (fireShift s a1) := by
  unfold fireShift
  try dsimp only
  repeat'
    first
      | with_reducible assumption
      | with_reducible exact Keeps.rfl' _
      | with_reducible refine fire_keeps ?_
      | with_reducible refine fire_keepsP ?_ (by assumption)
      | with_reducible refine startMsg_keeps ?_
      | with_reducible refine Keeps.foldl _ ?_ (fun _ _ _ => ?_)
      | with_reducible refine Keeps.ite (fun _ => ?_) (fun _ => ?_)
      | (fail_if_no_progress with_reducible refine Keeps.upd (hd := rfl) ?_)
      | split

theorem firePermute_keeps {r s a1} (h : Keeps r s) : Keeps r (firePermute s a1) := by
  unfold firePermute
  try dsimp only
  repeat'
    first
      | with_reducible assumption
      | with_reducible exact Keeps.rfl' _
      | with_reducible refine fire_keeps ?_
      | with_reducible refine fire_keepsP ?_ (by assumption)
      | with_reducible refine cueTask_keeps ?_
      | with_reducible refine cueTask_keepsP ?_ (by assumption)
      | with_reducible refine cueRead_keeps ?_
      | with_reducible refine Keeps.foldl _ ?_ (fun _ _ _ => ?_)
      | with_reducible refine Keeps.ite (fun _ => ?_) (fun _ => ?_)
      | (fail_if_no_progress with_reducible refine Keeps.upd (hd := rfl) ?_)
      | split

theorem startList_keeps {r s a1 a2 a3} (h : Keeps r s) : Keeps r (startList s a1 a2 a3) := by
  unfold startList
  try dsimp only
  repeat'
    first
      | with_reducible assumption
      | with_reducible exact Keeps.rfl' _
      | with_reducible refine runFail_keeps ?_
      | with_reducible refine runStep_keeps ?_
      | with_reducible refine startMsg_keeps ?_
      | with_reducible refine Keeps.foldl _ ?_ (fun _ _ _ => ?_)
      | with_reducible refine Keeps.ite (fun _ => ?_) (fun _ => ?_)
      | (fail_if_no_progress with_reducible refine Keeps.upd (hd := rfl) ?_)
      | split

theorem fireInc_keeps {r s a1} (h : Keeps r s) : Keeps r (fireInc s a1) := by
  unfold fireInc
  try dsimp only
  repeat'
    first
      | with_reducible assumption
      | with_reducible exact Keeps.rfl' _
      | with_reducible refine fire_keeps ?_
      | with_reducible refine fire_keepsP ?_ (by assumption)
      | with_reducible refine sendRecs_keeps ?_
      | with_reducible refine Keeps.foldl _ ?_ (fun _ _ _ => ?_)
      | with_reducible refine Keeps.ite (fun _ => ?_) (fun _ => ?_)
      | (fail_if_no_progress with_reducible refine Keeps.upd (hd := rfl) ?_)
      | split

theorem fireClose_keeps {r s a1} (h : Keeps r s) : Keeps r (fireClose s a1) := by
  unfold fireClose
  try dsimp only
  repeat'
    first
      | with_reducible assumption
      | with_reducible exact Keeps.rfl' _
      | with_reducible refine fire_keeps ?_
      | with_reducible refine fire_keepsP ?_ (by assumption)
      | with_reducible refine runFail_keeps ?_
      | with_reducible refine runStep_keeps ?_
      | with_reducible refine fset_keeps ?_
      | with_reducible refine collSet_keeps ?_
      | with_reducible refine sendRecs_keeps ?_
      | with_reducible refine Keeps.foldl _ ?_ (fun _ _ _ => ?_)
      | with_reducible refine Keeps.ite (fun _ => ?_) (fun _ => ?_)
      | (fail_if_no_progress with_reducible refine Keeps.upd (hd := rfl) ?_)
      | split

theorem sendReady_keeps {r s a1 a2 a3 a4} (h : Keeps r s) : Keeps r (sendReady s a1 a2 a3 a4) := by
  unfold sendReady
  try dsimp only
  repeat'
    first
      | with_reducible assumption
      | with_reducible exact Keeps.rfl' _
      | with_reducible refine runDone_keeps ?_
      | with_reducible refine stmSet_keeps ?_
      | with_reducible refine sendRecs_keeps ?_
      | with_reducible refine Keeps.foldl _ ?_ (fun _ _ _ => ?_)
      | with_reducible refine Keeps.ite (fun _ => ?_) (fun _ => ?_)

theorem fireReady_keeps {r s a1} (h : Keeps r s) : Keeps r (fireReady s a1) := by
  unfold fireReady
  try dsimp only
  repeat'
    first
      | with_reducible assumption
      | with_reducible exact Keeps.rfl' _
      | with_reducible refine fire_keeps ?_
      | with_reducible refine fire_keepsP ?_ (by assumption)
      | with_reducible refine sendReady_keeps ?_
      | with_reducible refine stmSet_keeps ?_
      | with_reducible refine Keeps.foldl _ ?_ (fun _ _ _ => ?_)
      | with_reducible refine Keeps.ite (fun _ => ?_) (fun _ => ?_)
      | (fail_if_no_progress with_reducible refine Keeps.upd (hd := rfl) ?_)
      | split

theorem readyStep_keepsO {r s t} (h : Keeps r s) (e : readyStep s = some t) : Keeps r t := by
  unfold readyStep at e
  obtain ⟨x, _, hx⟩ := List.exists_of_findSome?_eq_some e
  obtain ⟨q, _, rfl⟩ := Option.map_eq_some_iff.mp hx
  exact sendReady_keeps (stmSet_keeps h)

theorem firePoints_keeps {r s a1} (h : Keeps r s) : Keeps r (firePoints s a1) := by
  unfold firePoints
  try dsimp only
  repeat'
    first
      | with_reducible assumption
      | with_reducible exact Keeps.rfl' _
      | with_reducible refine fire_keeps ?_
      | with_reducible refine fire_keepsP ?_ (by assumption)
      | with_reducible refine runStep_keeps ?_
      | with_reducible refine Keeps.foldl _ ?_ (fun _ _ _ => ?_)
      | with_reducible refine Keeps.ite (fun _ => ?_) (fun _ => ?_)
      | (fail_if_no_progress with_reducible refine Keeps.upd (hd := rfl) ?_)
      | split

theorem sendAccept_keeps {r s a1} (h : Keeps r s) : Keeps r (sendAccept s a1) := by
  unfold sendAccept
  try dsimp only
  repeat'
    first
      | with_reducible assumption
      | with_reducible exact Keeps.rfl' _
      | with_reducible refine mboxSend_keeps ?_

theorem accumulate_keeps {r s a1 a2 a3 a4} (h : Keeps r s) : Keeps r (accumulate s a1 a2 a3 a4) := by
  unfold accumulate
  try dsimp only
  repeat'
    first
      | with_reducible assumption
      | with_reducible exact Keeps.rfl' _
      | with_reducible refine cueTask_keeps ?_
      | with_reducible refine cueTask_keepsP ?_ (by assumption)
      | with_reducible refine submit_keeps ?_
      | with_reducible refine Keeps.foldl _ ?_ (fun _ _ _ => ?_)

theorem readScales_keeps {r s a1 a2} (h : Keeps r s) : Keeps r (readScales s a1 a2) := by
  unfold readScales
  try dsimp only
  repeat'
    first
      | with_reducible assumption
      | with_reducible exact Keeps.rfl' _
      | with_reducible refine cueTask_keeps ?_
      | with_reducible refine cueTask_keepsP ?_ (by assumption)
      | with_reducible refine sendAccept_keeps ?_
      | with_reducible refine cueRead_keeps ?_
      | with_reducible refine Keeps.foldl _ ?_ (fun _ _ _ => ?_)
      | with_reducible refine Keeps.ite (fun _ => ?_) (fun _ => ?_)

theorem applyGrad_keeps {r s a1 a2 a3} (h : Keeps r s) : Keeps r (applyGrad s a1 a2 a3) := by
  unfold applyGrad
  try dsimp only
  repeat'
    first
      | with_reducible assumption
      | with_reducible exact Keeps.rfl' _
      | with_reducible refine cueTask_keeps ?_
      | with_reducible refine cueTask_keepsP ?_ (by assumption)
      | with_reducible refine result_keeps ?_
      | with_reducible refine accumulate_keeps ?_
      | with_reducible refine Keeps.foldl _ ?_ (fun _ _ _ => ?_)
      | with_reducible refine Keeps.ite (fun _ => ?_) (fun _ => ?_)
      | (fail_if_no_progress with_reducible refine Keeps.upd (hd := rfl) ?_)
      | split

theorem gradDone_keeps {r s a1 a2} (h : Keeps r s) : Keeps r (gradDone s a1 a2) := by
  unfold gradDone
  try dsimp only
  repeat'
    first
      | with_reducible assumption
      | with_reducible exact Keeps.rfl' _
      | with_reducible refine sendAccept_keeps ?_
      | with_reducible refine emit_keeps ?_
      | with_reducible refine sendRecs_keeps ?_
      | with_reducible refine Keeps.foldl _ ?_ (fun _ _ _ => ?_)
      | with_reducible refine Keeps.ite (fun _ => ?_) (fun _ => ?_)
      | (fail_if_no_progress with_reducible refine Keeps.upd (hd := rfl) ?_)
      | split

theorem recvInc_keeps {r s a1 a2 a3} (h : Keeps r s) : Keeps r (recvInc s a1 a2 a3) := by
  unfold recvInc
  try dsimp only
  repeat'
    first
      | with_reducible assumption
      | with_reducible exact Keeps.rfl' _
      | with_reducible refine ctrInc_keeps ?_
      | with_reducible refine cueErr_keeps ?_
      | with_reducible refine Keeps.foldl _ ?_ (fun _ _ _ => ?_)
      | with_reducible refine Keeps.ite (fun _ => ?_) (fun _ => ?_)

theorem readStaged_keeps {r s a1 a2 a3 a4 a5} (h : Keeps r s) : Keeps r (readStaged s a1 a2 a3 a4 a5) := by
  unfold readStaged
  try dsimp only
  repeat'
    first
      | with_reducible assumption
      | with_reducible exact Keeps.rfl' _
      | with_reducible refine cueTask_keeps ?_
      | with_reducible refine cueTask_keepsP ?_ (by assumption)
      | with_reducible refine cueRead_keeps ?_

theorem applyStaged_keeps {r s a1 a2 a3 a4} (h : Keeps r s) : Keeps r (applyStaged s a1 a2 a3 a4) := by
  unfold applyStaged
  try dsimp only
  repeat'
    first
      | with_reducible assumption
      | with_reducible exact Keeps.rfl' _
      | with_reducible refine cueTask_keeps ?_
      | with_reducible refine cueTask_keepsP ?_ (by assumption)
      | with_reducible refine submit_keeps ?_
      | with_reducible refine Keeps.foldl _ ?_ (fun _ _ _ => ?_)

theorem messageComplete_keeps {r s a1 a2 a3} (h : Keeps r s) : Keeps r (messageComplete s a1 a2 a3) := by
  unfold messageComplete
  try dsimp only
  repeat'
    first
      | with_reducible assumption
      | with_reducible exact Keeps.rfl' _
      | with_reducible refine recvInc_keeps ?_
      | with_reducible refine stmSet_keeps ?_
      | with_reducible refine sendAccept_keeps ?_
      | with_reducible refine readStaged_keeps ?_
      | with_reducible refine fresh_keeps ?_
      | with_reducible refine Keeps.foldl _ ?_ (fun _ _ _ => ?_)
      | with_reducible refine Keeps.ite (fun _ => ?_) (fun _ => ?_)
      | (fail_if_no_progress with_reducible refine Keeps.upd (hd := rfl) ?_)
      | split

theorem stmShow_keeps {r s a1} (h : Keeps r s) : Keeps r (stmShow s a1) := by
  unfold stmShow
  try dsimp only
  repeat'
    first
      | with_reducible assumption
      | with_reducible exact Keeps.rfl' _
      | with_reducible refine fset_keeps ?_

theorem readJournal_keeps {r s a1 a2 a3} (h : Keeps r s) : Keeps r (readJournal s a1 a2 a3) := by
  unfold readJournal
  try dsimp only
  repeat'
    first
      | with_reducible assumption
      | with_reducible exact Keeps.rfl' _
      | with_reducible refine cueTask_keeps ?_
      | with_reducible refine cueTask_keepsP ?_ (by assumption)
      | with_reducible refine cueRead_keeps ?_
      | with_reducible refine Keeps.foldl _ ?_ (fun _ _ _ => ?_)
      | with_reducible refine Keeps.ite (fun _ => ?_) (fun _ => ?_)

theorem openStep_keeps {r s a1 a2} (h : Keeps r s) : Keeps r (openStep s a1 a2) := by
  unfold openStep
  try dsimp only
  repeat'
    first
      | with_reducible assumption
      | with_reducible exact Keeps.rfl' _
      | with_reducible refine readMap_keeps ?_
      | with_reducible refine stmSet_keeps ?_
      | with_reducible refine stmShow_keeps ?_
      | with_reducible refine fset_keeps ?_
      | with_reducible refine mboxSend_keeps ?_
      | with_reducible refine readJournal_keeps ?_
      | with_reducible refine Keeps.foldl _ ?_ (fun _ _ _ => ?_)
      | with_reducible refine Keeps.ite (fun _ => ?_) (fun _ => ?_)

theorem stmStart_keeps {r s a1} (h : Keeps r s) : Keeps r (stmStart s a1) := by
  unfold stmStart
  try dsimp only
  repeat'
    first
      | with_reducible assumption
      | with_reducible exact Keeps.rfl' _
      | with_reducible refine openStep_keeps ?_
      | with_reducible refine stmSet_keeps ?_
      | with_reducible refine Keeps.foldl _ ?_ (fun _ _ _ => ?_)
      | with_reducible refine Keeps.ite (fun _ => ?_) (fun _ => ?_)

theorem stmJobStep_keeps {r s a1} (h : Keeps r s) : Keeps r (stmJobStep s a1) := by
  unfold stmJobStep
  try dsimp only
  repeat'
    first
      | with_reducible assumption
      | with_reducible exact Keeps.rfl' _
      | with_reducible refine stmSet_keeps ?_

theorem noStandby_keeps {r s a1 a2} (h : Keeps r s) : Keeps r (noStandby s a1 a2) := by
  unfold noStandby
  try dsimp only
  repeat'
    first
      | with_reducible assumption
      | with_reducible exact Keeps.rfl' _
      | with_reducible refine emit_keeps ?_
      | with_reducible refine stmSet_keeps ?_
      | with_reducible refine Keeps.foldl _ ?_ (fun _ _ _ => ?_)
      | with_reducible refine Keeps.ite (fun _ => ?_) (fun _ => ?_)

theorem stmStop_keeps {r s a1} (h : Keeps r s) : Keeps r (stmStop s a1) := by
  unfold stmStop
  try dsimp only
  repeat'
    first
      | with_reducible assumption
      | with_reducible exact Keeps.rfl' _
      | with_reducible refine emit_keeps ?_
      | with_reducible refine stmSet_keeps ?_

theorem issueRecord_keeps {r s a1 a2} (h : Keeps r s) : Keeps r (issueRecord s a1 a2) := by
  unfold issueRecord
  try dsimp only
  repeat'
    first
      | with_reducible assumption
      | with_reducible exact Keeps.rfl' _
      | with_reducible refine stmSet_keeps ?_
      | with_reducible refine fset_keeps ?_
      | with_reducible refine emit_keeps ?_
      | with_reducible refine mboxSend_keeps ?_
      | with_reducible refine newMsg_keeps ?_
      | with_reducible refine newMsg_keepsP ?_ (by assumption)
      | with_reducible refine submit_keeps ?_
      | with_reducible refine openStep_keeps ?_
      | with_reducible refine Keeps.foldl _ ?_ (fun _ _ _ => ?_)
      | with_reducible refine Keeps.ite (fun _ => ?_) (fun _ => ?_)

theorem closeStep_keeps {r s a1 a2} (h : Keeps r s) : Keeps r (closeStep s a1 a2) := by
  unfold closeStep
  try dsimp only
  repeat'
    first
      | with_reducible assumption
      | with_reducible exact Keeps.rfl' _
      | with_reducible refine stmSet_keeps ?_
      | with_reducible refine cueTask_keeps ?_
      | with_reducible refine cueTask_keepsP ?_ (by assumption)
      | with_reducible refine mboxSend_keeps ?_
      | with_reducible refine issueRecord_keeps ?_
      | with_reducible refine noStandby_keeps ?_
      | with_reducible refine Keeps.foldl _ ?_ (fun _ _ _ => ?_)
      | with_reducible refine Keeps.ite (fun _ => ?_) (fun _ => ?_)

theorem standbyGone_keeps {r s a1} (h : Keeps r s) : Keeps r (standbyGone s a1) := by
  unfold standbyGone
  try dsimp only
  repeat'
    first
      | with_reducible assumption
      | with_reducible exact Keeps.rfl' _
      | with_reducible refine issueRecord_keeps ?_
      | with_reducible refine noStandby_keeps ?_
      | with_reducible refine Keeps.foldl _ ?_ (fun _ _ _ => ?_)
      | with_reducible refine Keeps.ite (fun _ => ?_) (fun _ => ?_)
      | (fail_if_no_progress with_reducible refine Keeps.upd (hd := rfl) ?_)
      | split

theorem checkClose_keeps {r s a1} (h : Keeps r s) : Keeps r (checkClose s a1) := by
  unfold checkClose
  try dsimp only
  repeat'
    first
      | with_reducible assumption
      | with_reducible exact Keeps.rfl' _
      | with_reducible refine stmStop_keeps ?_
      | with_reducible refine closeStep_keeps ?_
      | with_reducible refine Keeps.foldl _ ?_ (fun _ _ _ => ?_)
      | with_reducible refine Keeps.ite (fun _ => ?_) (fun _ => ?_)
      | (fail_if_no_progress with_reducible refine Keeps.upd (hd := rfl) ?_)
      | split

theorem deadlineEvent_keeps {r s a1} (h : Keeps r s) : Keeps r (deadlineEvent s a1) := by
  unfold deadlineEvent
  try dsimp only
  repeat'
    first
      | with_reducible assumption
      | with_reducible exact Keeps.rfl' _
      | with_reducible refine closeStep_keeps ?_
      | with_reducible refine Keeps.foldl _ ?_ (fun _ _ _ => ?_)
      | with_reducible refine Keeps.ite (fun _ => ?_) (fun _ => ?_)

theorem backstopEvent_keeps {r s a1} (h : Keeps r s) : Keeps r (backstopEvent s a1) := by
  unfold backstopEvent
  try dsimp only
  repeat'
    first
      | with_reducible assumption
      | with_reducible exact Keeps.rfl' _
      | with_reducible refine stmStop_keeps ?_
      | with_reducible refine closeStep_keeps ?_
      | with_reducible refine emit_keeps ?_
      | with_reducible refine Keeps.foldl _ ?_ (fun _ _ _ => ?_)
      | with_reducible refine Keeps.ite (fun _ => ?_) (fun _ => ?_)

theorem replayOff_keeps {r s a1} (h : Keeps r s) : Keeps r (replayOff s a1) := by
  unfold replayOff
  try dsimp only
  repeat'
    first
      | with_reducible assumption
      | with_reducible exact Keeps.rfl' _
      | with_reducible refine fset_keeps ?_
      | with_reducible refine checkClose_keeps ?_
      | with_reducible refine stmSet_keeps ?_
      | with_reducible refine Keeps.foldl _ ?_ (fun _ _ _ => ?_)
      | with_reducible refine Keeps.ite (fun _ => ?_) (fun _ => ?_)

theorem journalTaken_keeps {r s a1 a2} (h : Keeps r s) : Keeps r (journalTaken s a1 a2) := by
  unfold journalTaken
  try dsimp only
  repeat'
    first
      | with_reducible assumption
      | with_reducible exact Keeps.rfl' _
      | with_reducible refine emit_keeps ?_
      | with_reducible refine stmSet_keeps ?_
      | with_reducible refine checkClose_keeps ?_
      | with_reducible refine Keeps.foldl _ ?_ (fun _ _ _ => ?_)
      | with_reducible refine Keeps.ite (fun _ => ?_) (fun _ => ?_)
      | (fail_if_no_progress with_reducible refine Keeps.upd (hd := rfl) ?_)
      | split

theorem doom_keeps {r s a1 a2 a3 a4} (h : Keeps r s) : Keeps r (doom s a1 a2 a3 a4) := by
  unfold doom
  try dsimp only
  repeat'
    first
      | with_reducible assumption
      | with_reducible exact Keeps.rfl' _
      | with_reducible refine fset_keeps ?_
      | with_reducible refine emit_keeps ?_
      | with_reducible refine Keeps.foldl _ ?_ (fun _ _ _ => ?_)
      | with_reducible refine Keeps.ite (fun _ => ?_) (fun _ => ?_)
      | (fail_if_no_progress with_reducible refine Keeps.upd (hd := rfl) ?_)

theorem heardFirst_keeps {r s a1 a2 a3} (h : Keeps r s) : Keeps r (heardFirst s a1 a2 a3) := by
  unfold heardFirst
  try dsimp only
  repeat'
    first
      | with_reducible assumption
      | with_reducible exact Keeps.rfl' _
      | with_reducible refine collSet_keeps ?_
      | with_reducible refine Keeps.foldl _ ?_ (fun _ _ _ => ?_)
      | with_reducible refine Keeps.ite (fun _ => ?_) (fun _ => ?_)
      | (fail_if_no_progress with_reducible refine Keeps.upd (hd := rfl) ?_)
      | split

theorem takeAnnounce_keeps {r s a1 a2} (h : Keeps r s) : Keeps r (takeAnnounce s a1 a2) := by
  unfold takeAnnounce
  try dsimp only
  repeat'
    first
      | with_reducible assumption
      | with_reducible exact Keeps.rfl' _
      | with_reducible refine heardFirst_keeps ?_
      | with_reducible refine mismatch_keeps ?_
      | with_reducible refine emitLim_keeps ?_
      | with_reducible refine doom_keeps ?_
      | with_reducible refine Keeps.foldl _ ?_ (fun _ _ _ => ?_)
      | with_reducible refine Keeps.ite (fun _ => ?_) (fun _ => ?_)
      | (fail_if_no_progress with_reducible refine Keeps.upd (hd := rfl) ?_)
      | split

theorem leaderCheck_keeps {r s a1} (h : Keeps r s) : Keeps r (leaderCheck s a1) := by
  unfold leaderCheck
  try dsimp only
  repeat'
    first
      | with_reducible assumption
      | with_reducible exact Keeps.rfl' _
      | with_reducible refine sendRecs_keeps ?_
      | with_reducible refine Keeps.foldl _ ?_ (fun _ _ _ => ?_)
      | with_reducible refine Keeps.ite (fun _ => ?_) (fun _ => ?_)
      | (fail_if_no_progress with_reducible refine Keeps.upd (hd := rfl) ?_)
      | split

theorem takeDone_keeps {r s a1 a2 a3 a4} (h : Keeps r s) : Keeps r (takeDone s a1 a2 a3 a4) := by
  unfold takeDone
  try dsimp only
  repeat'
    first
      | with_reducible assumption
      | with_reducible exact Keeps.rfl' _
      | with_reducible refine mismatch_keeps ?_
      | with_reducible refine leaderCheck_keeps ?_
      | with_reducible refine collSet_keeps ?_
      | with_reducible refine Keeps.foldl _ ?_ (fun _ _ _ => ?_)
      | with_reducible refine Keeps.ite (fun _ => ?_) (fun _ => ?_)
      | (fail_if_no_progress with_reducible refine Keeps.upd (hd := rfl) ?_)
      | split

theorem takeArmc_keeps {r s a1 a2 a3} (h : Keeps r s) : Keeps r (takeArmc s a1 a2 a3) := by
  unfold takeArmc
  try dsimp only
  repeat'
    first
      | with_reducible assumption
      | with_reducible exact Keeps.rfl' _
      | with_reducible refine cueErr_keeps ?_
      | with_reducible refine unitRead_keeps ?_
      | with_reducible refine unitRead_keepsP ?_ (by assumption)
      | with_reducible refine readMap_keeps ?_
      | with_reducible refine fset_keeps ?_
      | with_reducible refine abortColl_keeps ?_
      | with_reducible refine takeAnnounce_keeps ?_
      | with_reducible refine takeDone_keeps ?_
      | with_reducible refine fresh_keeps ?_
      | with_reducible refine Keeps.foldl _ ?_ (fun _ _ _ => ?_)
      | with_reducible refine Keeps.ite (fun _ => ?_) (fun _ => ?_)
      | (fail_if_no_progress with_reducible refine Keeps.upd (hd := rfl) ?_)
      | split

theorem takeCommit_keeps {r s a1} (h : Keeps r s) : Keeps r (takeCommit s a1) := by
  unfold takeCommit
  try dsimp only
  repeat'
    first
      | with_reducible assumption
      | with_reducible exact Keeps.rfl' _
      | with_reducible refine submit_keeps ?_
      | with_reducible refine closeRuns_keeps ?_
      | with_reducible refine fset_keeps ?_
      | with_reducible refine ctrInc_keeps ?_
      | with_reducible refine Keeps.foldl _ ?_ (fun _ _ _ => ?_)
      | with_reducible refine Keeps.ite (fun _ => ?_) (fun _ => ?_)
      | (fail_if_no_progress with_reducible refine Keeps.upd (hd := rfl) ?_)
      | split

theorem takeAbort_keeps {r s a1 a2} (h : Keeps r s) : Keeps r (takeAbort s a1 a2) := by
  unfold takeAbort
  try dsimp only
  repeat'
    first
      | with_reducible assumption
      | with_reducible exact Keeps.rfl' _
      | with_reducible refine doom_keeps ?_
      | with_reducible refine emit_keeps ?_
      | with_reducible refine abortColl_keeps ?_
      | with_reducible refine Keeps.foldl _ ?_ (fun _ _ _ => ?_)
      | with_reducible refine Keeps.ite (fun _ => ?_) (fun _ => ?_)

theorem takeAccept_keeps {r s a1 a2} (h : Keeps r s) : Keeps r (takeAccept s a1 a2) := by
  unfold takeAccept
  try dsimp only
  repeat'
    first
      | with_reducible assumption
      | with_reducible exact Keeps.rfl' _
      | with_reducible refine runDone_keeps ?_
      | with_reducible refine Keeps.foldl _ ?_ (fun _ _ _ => ?_)
      | with_reducible refine Keeps.ite (fun _ => ?_) (fun _ => ?_)
      | (fail_if_no_progress with_reducible refine Keeps.upd (hd := rfl) ?_)
      | split

theorem takeoverProceed_keeps {r s a1} (h : Keeps r s) : Keeps r (takeoverProceed s a1) := by
  unfold takeoverProceed
  try dsimp only
  repeat'
    first
      | with_reducible assumption
      | with_reducible exact Keeps.rfl' _
      | with_reducible refine stmSet_keeps ?_
      | with_reducible refine checkClose_keeps ?_
      | with_reducible refine closeStep_keeps ?_
      | with_reducible refine Keeps.foldl _ ?_ (fun _ _ _ => ?_)
      | with_reducible refine Keeps.ite (fun _ => ?_) (fun _ => ?_)

theorem takeReady_keeps {r s a1 a2} (h : Keeps r s) : Keeps r (takeReady s a1 a2) := by
  unfold takeReady
  try dsimp only
  repeat'
    first
      | with_reducible assumption
      | with_reducible exact Keeps.rfl' _
      | with_reducible refine fcount_keeps ?_
      | with_reducible refine emit_keeps ?_
      | with_reducible refine stmShow_keeps ?_
      | with_reducible refine stmSet_keeps ?_
      | with_reducible refine takeoverProceed_keeps ?_
      | with_reducible refine checkClose_keeps ?_
      | with_reducible refine Keeps.foldl _ ?_ (fun _ _ _ => ?_)
      | with_reducible refine Keeps.ite (fun _ => ?_) (fun _ => ?_)

theorem takePoison_keeps {r s a1 a2} (h : Keeps r s) : Keeps r (takePoison s a1 a2) := by
  unfold takePoison
  try dsimp only
  repeat'
    first
      | with_reducible assumption
      | with_reducible exact Keeps.rfl' _
      | with_reducible refine fcount_keeps ?_
      | with_reducible refine checkClose_keeps ?_
      | with_reducible refine stmShow_keeps ?_
      | with_reducible refine stmSet_keeps ?_
      | with_reducible refine Keeps.foldl _ ?_ (fun _ _ _ => ?_)
      | with_reducible refine Keeps.ite (fun _ => ?_) (fun _ => ?_)

theorem takeNotYet_keeps {r s a1 a2} (h : Keeps r s) : Keeps r (takeNotYet s a1 a2) := by
  unfold takeNotYet
  try dsimp only
  repeat'
    first
      | with_reducible assumption
      | with_reducible exact Keeps.rfl' _
      | with_reducible refine stmSet_keeps ?_
      | with_reducible refine takeoverProceed_keeps ?_
      | with_reducible refine Keeps.foldl _ ?_ (fun _ _ _ => ?_)
      | with_reducible refine Keeps.ite (fun _ => ?_) (fun _ => ?_)

theorem takeStepOpen_keeps {r s a1 a2} (h : Keeps r s) : Keeps r (takeStepOpen s a1 a2) := by
  unfold takeStepOpen
  try dsimp only
  repeat'
    first
      | with_reducible assumption
      | with_reducible exact Keeps.rfl' _
      | with_reducible refine fset_keeps ?_
      | with_reducible refine stmSet_keeps ?_

theorem takeConsist_keeps {r s a1 a2} (h : Keeps r s) : Keeps r (takeConsist s a1 a2) := by
  unfold takeConsist
  try dsimp only
  repeat'
    first
      | with_reducible assumption
      | with_reducible exact Keeps.rfl' _
      | with_reducible refine emit_keeps ?_
      | with_reducible refine stmSet_keeps ?_
      | with_reducible refine fset_keeps ?_
      | with_reducible refine cueTask_keeps ?_
      | with_reducible refine cueTask_keepsP ?_ (by assumption)
      | with_reducible refine submit_keeps ?_
      | with_reducible refine Keeps.foldl _ ?_ (fun _ _ _ => ?_)
      | with_reducible refine Keeps.ite (fun _ => ?_) (fun _ => ?_)
      | (fail_if_no_progress with_reducible refine Keeps.upd (hd := rfl) ?_)

theorem takeTakeover_keeps {r s a1 a2} (h : Keeps r s) : Keeps r (takeTakeover s a1 a2) := by
  unfold takeTakeover
  try dsimp only
  repeat'
    first
      | with_reducible assumption
      | with_reducible exact Keeps.rfl' _
      | with_reducible refine mboxSend_keeps ?_
      | with_reducible refine Keeps.foldl _ ?_ (fun _ _ _ => ?_)
      | with_reducible refine Keeps.ite (fun _ => ?_) (fun _ => ?_)
      | (fail_if_no_progress with_reducible refine Keeps.upd (hd := rfl) ?_)
      | split

theorem takeRecord_keeps {r s a1 a2} (h : Keeps r s) : Keeps r (takeRecord s a1 a2) := by
  unfold takeRecord
  try dsimp only
  repeat'
    first
      | with_reducible assumption
      | with_reducible exact Keeps.rfl' _
      | with_reducible refine cueErr_keeps ?_
      | with_reducible refine takeAnnounce_keeps ?_
      | with_reducible refine recvInc_keeps ?_
      | with_reducible refine cueId_keeps ?_
      | with_reducible refine cueId_keepsP ?_ (by assumption)
      | with_reducible refine armCue_keeps ?_
      | with_reducible refine takeArmc_keeps ?_
      | with_reducible refine takeDone_keeps ?_
      | with_reducible refine takeCommit_keeps ?_
      | with_reducible refine takeAbort_keeps ?_
      | with_reducible refine takeAccept_keeps ?_
      | with_reducible refine takeReady_keeps ?_
      | with_reducible refine takeNotYet_keeps ?_
      | with_reducible refine takePoison_keeps ?_
      | with_reducible refine takeStepOpen_keeps ?_
      | with_reducible refine takeConsist_keeps ?_
      | with_reducible refine takeTakeover_keeps ?_
      | with_reducible refine Keeps.foldl _ ?_ (fun _ _ _ => ?_)
      | with_reducible refine Keeps.ite (fun _ => ?_) (fun _ => ?_)
      | (fail_if_no_progress with_reducible refine Keeps.upd (hd := rfl) ?_)
      | split

theorem mboxRecord_keeps {r s a1 a2} (h : Keeps r s) : Keeps r (mboxRecord s a1 a2) := by
  unfold mboxRecord
  try dsimp only
  repeat'
    first
      | with_reducible assumption
      | with_reducible exact Keeps.rfl' _
      | with_reducible refine takeRecord_keeps ?_
      | with_reducible refine Keeps.foldl _ ?_ (fun _ _ _ => ?_)
      | with_reducible refine Keeps.ite (fun _ => ?_) (fun _ => ?_)
      | (fail_if_no_progress with_reducible refine Keeps.upd (hd := rfl) ?_)
      | split

theorem takeover_keeps {r s a1} (h : Keeps r s) : Keeps r (takeover s a1) := by
  unfold takeover
  try dsimp only
  repeat'
    first
      | with_reducible assumption
      | with_reducible exact Keeps.rfl' _
      | with_reducible refine fset_keeps ?_
      | with_reducible refine emit_keeps ?_
      | with_reducible refine issueRecord_keeps ?_
      | with_reducible refine noStandby_keeps ?_
      | with_reducible refine stmSet_keeps ?_
      | with_reducible refine stmShow_keeps ?_
      | with_reducible refine mboxSend_keeps ?_
      | with_reducible refine readJournal_keeps ?_
      | with_reducible refine Keeps.foldl _ ?_ (fun _ _ _ => ?_)
      | with_reducible refine Keeps.ite (fun _ => ?_) (fun _ => ?_)
      | (fail_if_no_progress with_reducible refine Keeps.upd (hd := rfl) ?_)
      | split

theorem stmMembership_keeps {r s} (h : Keeps r s) : Keeps r (stmMembership s) := by
  unfold stmMembership
  try dsimp only
  repeat'
    first
      | with_reducible assumption
      | with_reducible exact Keeps.rfl' _
      | with_reducible refine stmSet_keeps ?_
      | with_reducible refine standbyGone_keeps ?_
      | with_reducible refine takeoverProceed_keeps ?_
      | with_reducible refine checkClose_keeps ?_
      | with_reducible refine takeover_keeps ?_
      | with_reducible refine fset_keeps ?_
      | with_reducible refine emit_keeps ?_
      | with_reducible refine runDone_keeps ?_
      | with_reducible refine Keeps.foldl _ ?_ (fun _ _ _ => ?_)
      | with_reducible refine Keeps.ite (fun _ => ?_) (fun _ => ?_)
      | (fail_if_no_progress with_reducible refine Keeps.upd (hd := rfl) ?_)

theorem collEpoch_keeps {r s} (h : Keeps r s) : Keeps r (collEpoch s) := by
  unfold collEpoch
  try dsimp only
  repeat'
    first
      | with_reducible assumption
      | with_reducible exact Keeps.rfl' _
      | with_reducible refine abortColl_keeps ?_
      | with_reducible refine Keeps.foldl _ ?_ (fun _ _ _ => ?_)

theorem cueAbort_keeps {r s a1} (h : Keeps r s) : Keeps r (cueAbort s a1) := by
  unfold cueAbort
  try dsimp only
  repeat'
    first
      | with_reducible assumption
      | with_reducible exact Keeps.rfl' _
      | with_reducible refine abortColl_keeps ?_
      | with_reducible refine Keeps.foldl _ ?_ (fun _ _ _ => ?_)
      | with_reducible refine Keeps.ite (fun _ => ?_) (fun _ => ?_)
      | (fail_if_no_progress with_reducible refine Keeps.upd (hd := rfl) ?_)

theorem closeTimeout_keeps {r s a1} (h : Keeps r s) : Keeps r (closeTimeout s a1) := by
  unfold closeTimeout
  try dsimp only
  repeat'
    first
      | with_reducible assumption
      | with_reducible exact Keeps.rfl' _
      | with_reducible refine abortColl_keeps ?_
      | with_reducible refine Keeps.foldl _ ?_ (fun _ _ _ => ?_)
      | with_reducible refine Keeps.ite (fun _ => ?_) (fun _ => ?_)
      | (fail_if_no_progress with_reducible refine Keeps.upd (hd := rfl) ?_)
      | split

theorem standbyAnswer_keeps {r s a1 a2} (h : Keeps r s) : Keeps r (standbyAnswer s a1 a2) := by
  unfold standbyAnswer
  try dsimp only
  repeat'
    first
      | with_reducible assumption
      | with_reducible exact Keeps.rfl' _
      | with_reducible refine stmSet_keeps ?_
      | with_reducible refine cueErr_keeps ?_
      | with_reducible refine standbyGone_keeps ?_
      | with_reducible refine Keeps.foldl _ ?_ (fun _ _ _ => ?_)
      | with_reducible refine Keeps.ite (fun _ => ?_) (fun _ => ?_)

theorem taskDone_keeps {r s a1} (h : Keeps r s) : Keeps r (taskDone s a1) := by
  unfold taskDone
  try dsimp only
  repeat'
    first
      | with_reducible assumption
      | with_reducible exact Keeps.rfl' _
      | with_reducible refine standbyAnswer_keeps ?_
      | with_reducible refine journalTaken_keeps ?_
      | with_reducible refine abortColl_keeps ?_
      | with_reducible refine cueErr_keeps ?_
      | with_reducible refine runFail_keeps ?_
      | with_reducible refine startList_keeps ?_
      | with_reducible refine sendChunk_keeps ?_
      | with_reducible refine readChunk_keeps ?_
      | with_reducible refine cueTask_keeps ?_
      | with_reducible refine cueTask_keepsP ?_ (by assumption)
      | with_reducible refine runDone_keeps ?_
      | with_reducible refine emit_keeps ?_
      | with_reducible refine applyStaged_keeps ?_
      | with_reducible refine readStaged_keeps ?_
      | with_reducible refine recvInc_keeps ?_
      | with_reducible refine readScales_keeps ?_
      | with_reducible refine applyGrad_keeps ?_
      | with_reducible refine gradDone_keeps ?_
      | with_reducible refine sendAccept_keeps ?_
      | with_reducible refine Keeps.foldl _ ?_ (fun _ _ _ => ?_)
      | with_reducible refine Keeps.ite (fun _ => ?_) (fun _ => ?_)
      | (fail_if_no_progress with_reducible refine Keeps.upd (hd := rfl) ?_)
      | split

theorem cueResult_keeps {r s a1 a2 a3 a4} (h : Keeps r s) : Keeps r (cueResult s a1 a2 a3 a4) := by
  unfold cueResult
  try dsimp only
  repeat'
    first
      | with_reducible assumption
      | with_reducible exact Keeps.rfl' _
      | with_reducible refine taskDone_keeps ?_
      | with_reducible refine Keeps.foldl _ ?_ (fun _ _ _ => ?_)
      | with_reducible refine Keeps.ite (fun _ => ?_) (fun _ => ?_)
      | (fail_if_no_progress with_reducible refine Keeps.upd (hd := rfl) ?_)
      | split

theorem standbyAck_keeps {r s a1} (h : Keeps r s) : Keeps r (standbyAck s a1) := by
  unfold standbyAck
  try dsimp only
  repeat'
    first
      | with_reducible assumption
      | with_reducible exact Keeps.rfl' _
      | with_reducible refine issueRecord_keeps ?_
      | with_reducible refine Keeps.foldl _ ?_ (fun _ _ _ => ?_)
      | with_reducible refine Keeps.ite (fun _ => ?_) (fun _ => ?_)
      | (fail_if_no_progress with_reducible refine Keeps.upd (hd := rfl) ?_)
      | split

theorem shnRecord_keeps {r s a1 a2 a3 a4 a5 a6 a7} (h : Keeps r s) : Keeps r (shnRecord s a1 a2 a3 a4 a5 a6 a7) := by
  unfold shnRecord
  try dsimp only
  repeat'
    first
      | with_reducible assumption
      | with_reducible exact Keeps.rfl' _
      | with_reducible refine submit_keeps ?_
      | with_reducible refine Keeps.foldl _ ?_ (fun _ _ _ => ?_)
      | with_reducible refine Keeps.ite (fun _ => ?_) (fun _ => ?_)

theorem shnEv_keeps {r s a1} (h : Keeps r s) : Keeps r (shnEv s a1) := by
  unfold shnEv
  try dsimp only
  repeat'
    first
      | with_reducible assumption
      | with_reducible exact Keeps.rfl' _
      | with_reducible refine tset_keeps ?_

theorem shnRefuse_keeps {r s a1 a2 a3 a4 a5} (h : Keeps r s) : Keeps r (shnRefuse s a1 a2 a3 a4 a5) := by
  unfold shnRefuse
  try dsimp only
  repeat'
    first
      | with_reducible assumption
      | with_reducible exact Keeps.rfl' _
      | with_reducible refine shnEv_keeps ?_
      | with_reducible refine shnRefused_keeps ?_
      | with_reducible refine shnRecord_keeps ?_
      | with_reducible refine Keeps.foldl _ ?_ (fun _ _ _ => ?_)
      | with_reducible refine Keeps.ite (fun _ => ?_) (fun _ => ?_)
      | (fail_if_no_progress with_reducible refine Keeps.upd (hd := rfl) ?_)

theorem shnSet_keeps {r s a1} (h : Keeps r s) : Keeps r (shnSet s a1) := by
  unfold shnSet
  try dsimp only
  repeat'
    first
      | with_reducible assumption
      | with_reducible exact Keeps.rfl' _
      | with_reducible refine Keeps.foldl _ ?_ (fun _ _ _ => ?_)
      | with_reducible refine Keeps.ite (fun _ => ?_) (fun _ => ?_)
      | (fail_if_no_progress with_reducible refine Keeps.upd (hd := rfl) ?_)

theorem shnDrop_keeps {r s a1} (h : Keeps r s) : Keeps r (shnDrop s a1) := by
  unfold shnDrop
  try dsimp only
  repeat'
    first
      | with_reducible assumption
      | with_reducible exact Keeps.rfl' _
      | with_reducible refine Keeps.foldl _ ?_ (fun _ _ _ => ?_)
      | with_reducible refine Keeps.ite (fun _ => ?_) (fun _ => ?_)
      | (fail_if_no_progress with_reducible refine Keeps.upd (hd := rfl) ?_)

theorem shnWrite_keeps {r s a1 a2 a3 a4 a5} (h : Keeps r s) : Keeps r (shnWrite s a1 a2 a3 a4 a5) := by
  unfold shnWrite
  try dsimp only
  repeat'
    first
      | with_reducible assumption
      | with_reducible exact Keeps.rfl' _
      | with_reducible refine newMsg_keeps ?_
      | with_reducible refine newMsg_keepsP ?_ (by assumption)
      | with_reducible refine submit_keeps ?_
      | with_reducible refine Keeps.foldl _ ?_ (fun _ _ _ => ?_)

theorem shnRowOk_keeps {r s a1 a2 a3} (h : Keeps r s) : Keeps r (shnRowOk s a1 a2 a3) := by
  unfold shnRowOk
  try dsimp only
  repeat'
    first
      | with_reducible assumption
      | with_reducible exact Keeps.rfl' _
      | with_reducible refine shnSet_keeps ?_
      | with_reducible refine fcount_keeps ?_
      | with_reducible refine Keeps.foldl _ ?_ (fun _ _ _ => ?_)
      | with_reducible refine Keeps.ite (fun _ => ?_) (fun _ => ?_)

theorem shnPoison_keeps {r s a1 a2} (h : Keeps r s) : Keeps r (shnPoison s a1 a2) := by
  unfold shnPoison
  try dsimp only
  repeat'
    first
      | with_reducible assumption
      | with_reducible exact Keeps.rfl' _
      | with_reducible refine writeBlock_keeps ?_
      | with_reducible refine tset_keeps ?_
      | with_reducible refine Keeps.foldl _ ?_ (fun _ _ _ => ?_)

theorem freeLines_keeps {r n} : ∀ {s}, Keeps r s → Keeps r (freeLines n s).1 := by
  induction n with
  | zero => exact id
  | succ n ih =>
    intro s h
    unfold freeLines
    exact ih (fresh_keeps h)

theorem shnRowFail_keeps {r s a1 a2 a3} (h : Keeps r s) : Keeps r (shnRowFail s a1 a2 a3) := by
  unfold shnRowFail
  try dsimp only
  repeat'
    first
      | with_reducible assumption
      | with_reducible exact Keeps.rfl' _
      | with_reducible refine shnSet_keeps ?_
      | with_reducible refine fcount_keeps ?_
      | with_reducible refine shnErr_keeps ?_
      | with_reducible refine emitLim_keeps ?_
      | with_reducible refine freeLines_keeps ?_
      | with_reducible refine shnWrite_keeps ?_
      | with_reducible refine shnPoison_keeps ?_
      | with_reducible refine Keeps.foldl _ ?_ (fun _ _ _ => ?_)
      | with_reducible refine Keeps.ite (fun _ => ?_) (fun _ => ?_)

theorem shnDeliver_keeps {r s a1 a2 a3} (h : Keeps r s) : Keeps r (shnDeliver s a1 a2 a3) := by
  unfold shnDeliver
  try dsimp only
  repeat'
    first
      | with_reducible assumption
      | with_reducible exact Keeps.rfl' _
      | with_reducible refine writeBlock_keeps ?_
      | with_reducible refine shnRowOk_keeps ?_
      | with_reducible refine fcount_keeps ?_
      | with_reducible refine shnSet_keeps ?_
      | with_reducible refine shnWrite_keeps ?_
      | with_reducible refine Keeps.foldl _ ?_ (fun _ _ _ => ?_)
      | with_reducible refine Keeps.ite (fun _ => ?_) (fun _ => ?_)

theorem shnSource_keeps {r t} {l} : ∀ {s}, Keeps r s → Keeps r (shnSource t l s).1 := by
  induction l with
  | nil => exact id
  | cons b l ih =>
    intro s h
    unfold shnSource
    split
    · exact readBlock_keepsP h (by assumption)
    · rename_i u v e
      have := ih (readBlock_keepsP h e)
      split <;> (rename_i e'; rw [e'] at this; exact this)

theorem shnSource_keepsP {r s t l u x} (h : Keeps r s) (e : shnSource t l s = (u, x)) : Keeps r u := by
  have := shnSource_keeps (t := t) (l := l) h
  rw [e] at this
  exact this

theorem shnStartRow_keeps {r s a1 a2} (h : Keeps r s) : Keeps r (shnStartRow s a1 a2) := by
  unfold shnStartRow
  try dsimp only
  repeat'
    first
      | with_reducible assumption
      | with_reducible exact Keeps.rfl' _
      | with_reducible refine shnRowFail_keeps ?_
      | with_reducible refine shnRowOk_keeps ?_
      | with_reducible refine shnDeliver_keeps ?_
      | with_reducible refine shnSet_keeps ?_
      | with_reducible refine newMsg_keeps ?_
      | with_reducible refine newMsg_keepsP ?_ (by assumption)
      | with_reducible refine submit_keeps ?_
      | with_reducible refine shnSource_keeps ?_
      | with_reducible refine shnSource_keepsP ?_ (by assumption)
      | with_reducible refine fcount_keeps ?_
      | with_reducible refine shnWrite_keeps ?_
      | with_reducible refine Keeps.foldl _ ?_ (fun _ _ _ => ?_)
      | with_reducible refine Keeps.ite (fun _ => ?_) (fun _ => ?_)
      | (fail_if_no_progress with_reducible refine Keeps.upd (hd := rfl) ?_)
      | split

theorem shnNamed_keeps {r s a1} (h : Keeps r s) : Keeps r (shnNamed s a1) := by
  unfold shnNamed
  try dsimp only
  repeat'
    first
      | with_reducible assumption
      | with_reducible exact Keeps.rfl' _
      | with_reducible refine shnRefuse_keeps ?_
      | with_reducible refine shnDrop_keeps ?_
      | with_reducible refine readMap_keeps ?_
      | with_reducible refine shnSet_keeps ?_
      | with_reducible refine Keeps.foldl _ ?_ (fun _ _ _ => ?_)
      | with_reducible refine Keeps.ite (fun _ => ?_) (fun _ => ?_)
      | (fail_if_no_progress with_reducible refine Keeps.upd (hd := rfl) ?_)
      | split

theorem shnStart_keeps {r s a1} (h : Keeps r s) : Keeps r (shnStart s a1) := by
  unfold shnStart
  try dsimp only
  repeat'
    first
      | with_reducible assumption
      | with_reducible exact Keeps.rfl' _
      | with_reducible refine shnSet_keeps ?_
      | with_reducible refine Keeps.foldl _ ?_ (fun _ _ _ => ?_)
      | with_reducible refine Keeps.ite (fun _ => ?_) (fun _ => ?_)
      | (fail_if_no_progress with_reducible refine Keeps.upd (hd := rfl) ?_)
      | split

theorem shnReadIdx_keeps {r s a1} (h : Keeps r s) : Keeps r (shnReadIdx s a1) := by
  unfold shnReadIdx
  try dsimp only
  repeat'
    first
      | with_reducible assumption
      | with_reducible exact Keeps.rfl' _
      | with_reducible refine shnSet_keeps ?_
      | with_reducible refine newMsg_keeps ?_
      | with_reducible refine newMsg_keepsP ?_ (by assumption)
      | with_reducible refine submit_keeps ?_

theorem shnStep_keepsO {r s a1 t} (h : Keeps r s) (e : shnStep s a1 = some t) : Keeps r t := by
  unfold shnStep at e
  dsimp only at e
  by_cases c : (shnStart s a1).shn != s.shn
  · rw [if_pos c] at e
    obtain rfl := Option.some.inj e
    exact shnStart_keeps h
  rw [if_neg c] at e
  split at e
  · obtain ⟨c, _, rfl⟩ := Option.map_eq_some_iff.mp e
    exact shnReadIdx_keeps h
  split at e
  · obtain ⟨c, _, rfl⟩ := Option.map_eq_some_iff.mp e
    exact shnStartRow_keeps h
  · simp at e

theorem shnTakeOne_keeps {r s a1 a2 a3 a4} (h : Keeps r s) : Keeps r (shnTakeOne s a1 a2 a3 a4) := by
  unfold shnTakeOne
  try dsimp only
  repeat'
    first
      | with_reducible assumption
      | with_reducible exact Keeps.rfl' _
      | with_reducible refine shnRefuse_keeps ?_
      | with_reducible refine shnStart_keeps ?_
      | with_reducible refine Keeps.foldl _ ?_ (fun _ _ _ => ?_)
      | with_reducible refine Keeps.ite (fun _ => ?_) (fun _ => ?_)
      | (fail_if_no_progress with_reducible refine Keeps.upd (hd := rfl) ?_)
      | split

theorem shnTakeIn_keeps {r s a1} (h : Keeps r s) : Keeps r (shnTakeIn s a1) := by
  unfold shnTakeIn
  try dsimp only
  repeat'
    first
      | with_reducible assumption
      | with_reducible exact Keeps.rfl' _
      | with_reducible refine shnTakeOne_keeps ?_
      | with_reducible refine Keeps.foldl _ ?_ (fun _ _ _ => ?_)
      | with_reducible refine Keeps.ite (fun _ => ?_) (fun _ => ?_)
      | (fail_if_no_progress with_reducible refine Keeps.upd (hd := rfl) ?_)

theorem shnTakeTo_keeps {r x} {l} : ∀ {s}, Keeps r s → Keeps r (shnTakeTo x l s) := by
  induction l with
  | nil => intro s h; exact shnTakeOne_keeps h
  | cons y l ih =>
    intro s h
    unfold shnTakeTo
    exact Keeps.ite (fun _ => shnTakeIn_keeps h) (fun _ => ih (shnTakeIn_keeps h))

theorem shnTake_keeps {r s a1 a2 a3 a4} (h : Keeps r s) : Keeps r (shnTake s a1 a2 a3 a4) := by
  unfold shnTake
  try dsimp only
  repeat'
    first
      | with_reducible assumption
      | with_reducible exact Keeps.rfl' _
      | with_reducible refine shnTakeTo_keeps ?_

theorem shnReserved_keepsO {r s a1 t} (h : Keeps r s) (e : shnReserved s a1 = some t) : Keeps r t := by
  unfold shnReserved guardOpt at e
  split at e
  · contradiction
  · split at e
    · obtain rfl := Option.some.inj e
      exact shnTakeIn_keeps h
    · contradiction

theorem shnRowAnswered_keeps {r s a1 a2 a3} (h : Keeps r s) : Keeps r (shnRowAnswered s a1 a2 a3) := by
  unfold shnRowAnswered
  try dsimp only
  repeat'
    first
      | with_reducible assumption
      | with_reducible exact Keeps.rfl' _
      | with_reducible refine shnRowFail_keeps ?_
      | with_reducible refine shnDeliver_keeps ?_
      | with_reducible refine shnRowOk_keeps ?_
      | with_reducible refine Keeps.foldl _ ?_ (fun _ _ _ => ?_)
      | with_reducible refine Keeps.ite (fun _ => ?_) (fun _ => ?_)
      | (fail_if_no_progress with_reducible refine Keeps.upd (hd := rfl) ?_)
      | split

theorem shnResult_keeps {r s a1 a2 a3 a4} (h : Keeps r s) : Keeps r (shnResult s a1 a2 a3 a4) := by
  unfold shnResult
  try dsimp only
  repeat'
    first
      | with_reducible assumption
      | with_reducible exact Keeps.rfl' _
      | with_reducible refine shnSet_keeps ?_
      | with_reducible refine shnNamed_keeps ?_
      | with_reducible refine shnRowAnswered_keeps ?_
      | with_reducible refine Keeps.foldl _ ?_ (fun _ _ _ => ?_)
      | with_reducible refine Keeps.ite (fun _ => ?_) (fun _ => ?_)
      | (fail_if_no_progress with_reducible refine Keeps.upd (hd := rfl) ?_)
      | split

theorem shnComplete_keeps {r s a1} (h : Keeps r s) : Keeps r (shnComplete s a1) := by
  unfold shnComplete
  try dsimp only
  repeat'
    first
      | with_reducible assumption
      | with_reducible exact Keeps.rfl' _
      | with_reducible refine shnEv_keeps ?_
      | with_reducible refine shnDrop_keeps ?_
      | with_reducible refine shnStart_keeps ?_
      | with_reducible refine shnRecord_keeps ?_
      | with_reducible refine Keeps.foldl _ ?_ (fun _ _ _ => ?_)
      | with_reducible refine Keeps.ite (fun _ => ?_) (fun _ => ?_)
      | (fail_if_no_progress with_reducible refine Keeps.upd (hd := rfl) ?_)
      | split

theorem shnUnsend_keeps {r s a1} (h : Keeps r s) : Keeps r (shnUnsend s a1) := by
  unfold shnUnsend
  try dsimp only
  repeat'
    first
      | with_reducible assumption
      | with_reducible exact Keeps.rfl' _
      | with_reducible refine Keeps.foldl _ ?_ (fun _ _ _ => ?_)
      | with_reducible refine Keeps.ite (fun _ => ?_) (fun _ => ?_)
      | (fail_if_no_progress with_reducible refine Keeps.upd (hd := rfl) ?_)

theorem shnCancel_keeps {r s sel} (h : Keeps r s) : Keeps r (shnCancel s sel) := by
  unfold shnCancel
  refine Keeps.foldl _ (shnUnsend_keeps (Keeps.foldl _ h fun _ _ g => emit_keeps (shnRecord_keeps (shnDrop_keeps g)))) fun _ _ g => ?_
  exact shnStart_keeps (shnStart_keeps g)

theorem shnCntClr_keeps {r s} (h : Keeps r s) : Keeps r (shnCntClr s) := by
  unfold shnCntClr
  try dsimp only
  repeat'
    first
      | with_reducible assumption
      | with_reducible exact Keeps.rfl' _
      | with_reducible refine fset_keeps ?_

theorem tileAbortAll_keeps {r s a1} (h : Keeps r s) : Keeps r (tileAbortAll s a1) := by
  unfold tileAbortAll
  try dsimp only
  repeat'
    first
      | with_reducible assumption
      | with_reducible exact Keeps.rfl' _
      | with_reducible refine tileAbort_keeps ?_
      | with_reducible refine shnCancel_keeps ?_
      | with_reducible refine Keeps.foldl _ ?_ (fun _ _ _ => ?_)
      | with_reducible refine Keeps.ite (fun _ => ?_) (fun _ => ?_)

theorem setLas_keeps {r s a1 a2 a3} (h : Keeps r s) : Keeps r (setLas s a1 a2 a3) := by
  unfold setLas
  try dsimp only
  repeat'
    first
      | with_reducible assumption
      | with_reducible exact Keeps.rfl' _
      | with_reducible refine fset_keeps ?_

theorem announceTx_keeps {r s a1} (h : Keeps r s) : Keeps r (announceTx s a1) := by
  unfold announceTx
  try dsimp only
  repeat'
    first
      | with_reducible assumption
      | with_reducible exact Keeps.rfl' _
      | with_reducible refine oset_keeps ?_
      | with_reducible refine Keeps.foldl _ ?_ (fun _ _ _ => ?_)
      | with_reducible refine Keeps.ite (fun _ => ?_) (fun _ => ?_)

theorem portDown_keeps {r s a1} (h : Keeps r s) : Keeps r (portDown s a1) := by
  unfold portDown
  try dsimp only
  repeat'
    first
      | with_reducible assumption
      | with_reducible exact Keeps.rfl' _
      | with_reducible refine linkDown_keeps ?_
      | with_reducible refine fset_keeps ?_

theorem portEval_keeps {r s a1} (h : Keeps r s) : Keeps r (portEval s a1) := by
  unfold portEval
  try dsimp only
  repeat'
    first
      | with_reducible assumption
      | with_reducible exact Keeps.rfl' _
      | with_reducible refine linkUp_keeps ?_
      | with_reducible refine fset_keeps ?_
      | with_reducible refine portDown_keeps ?_
      | with_reducible refine emit_keeps ?_
      | with_reducible refine Keeps.foldl _ ?_ (fun _ _ _ => ?_)
      | with_reducible refine Keeps.ite (fun _ => ?_) (fun _ => ?_)

theorem setLive_keeps {r s a1 a2 a3} (h : Keeps r s) : Keeps r (setLive s a1 a2 a3) := by
  unfold setLive
  try dsimp only
  repeat'
    first
      | with_reducible assumption
      | with_reducible exact Keeps.rfl' _
      | with_reducible refine fset_keeps ?_
      | with_reducible refine oset_keeps ?_
      | with_reducible refine emitLim_keeps ?_
      | with_reducible refine Keeps.foldl _ ?_ (fun _ _ _ => ?_)
      | with_reducible refine Keeps.ite (fun _ => ?_) (fun _ => ?_)

theorem noLive_keeps {r s a1} (h : Keeps r s) : Keeps r (noLive s a1) := by
  unfold noLive
  try dsimp only
  repeat'
    first
      | with_reducible assumption
      | with_reducible exact Keeps.rfl' _
      | with_reducible refine setLive_keeps ?_

theorem serialiserStop_keeps {r s a1} (h : Keeps r s) : Keeps r (serialiserStop s a1) := by
  unfold serialiserStop
  try dsimp only
  repeat'
    first
      | with_reducible assumption
      | with_reducible exact Keeps.rfl' _
      | with_reducible refine noLive_keeps ?_
      | with_reducible refine portDown_keeps ?_
      | with_reducible refine fset_keeps ?_
      | with_reducible refine oset_keeps ?_
      | with_reducible refine emit_keeps ?_
      | with_reducible refine Keeps.foldl _ ?_ (fun _ _ _ => ?_)
      | with_reducible refine Keeps.ite (fun _ => ?_) (fun _ => ?_)

theorem identity_keeps {r s a1} (h : Keeps r s) : Keeps r (identity s a1) := by
  unfold identity
  try dsimp only
  repeat'
    first
      | with_reducible assumption
      | with_reducible exact Keeps.rfl' _
      | with_reducible refine fset_keeps ?_
      | with_reducible refine emit_keeps ?_
      | with_reducible refine Keeps.foldl _ ?_ (fun _ _ _ => ?_)
      | with_reducible refine Keeps.ite (fun _ => ?_) (fun _ => ?_)

theorem recordPeer_keeps {r s a1 a2} (h : Keeps r s) : Keeps r (recordPeer s a1 a2) := by
  unfold recordPeer
  try dsimp only
  repeat'
    first
      | with_reducible assumption
      | with_reducible exact Keeps.rfl' _
      | with_reducible refine fset_keeps ?_

theorem takeReports_keeps {r s a1 a2} (h : Keeps r s) : Keeps r (takeReports s a1 a2) := by
  unfold takeReports
  try dsimp only
  repeat'
    first
      | with_reducible assumption
      | with_reducible exact Keeps.rfl' _
      | with_reducible refine fset_keeps ?_
      | with_reducible refine oset_keeps ?_
      | with_reducible refine Keeps.foldl _ ?_ (fun _ _ _ => ?_)
      | with_reducible refine Keeps.ite (fun _ => ?_) (fun _ => ?_)

theorem showPending_keeps {r s a1} (h : Keeps r s) : Keeps r (showPending s a1) := by
  unfold showPending
  try dsimp only
  repeat'
    first
      | with_reducible assumption
      | with_reducible exact Keeps.rfl' _
      | with_reducible refine fset_keeps ?_

theorem markLaser_keeps {r s a1 a2} (h : Keeps r s) : Keeps r (markLaser s a1 a2) := by
  unfold markLaser
  try dsimp only
  repeat'
    first
      | with_reducible assumption
      | with_reducible exact Keeps.rfl' _
      | with_reducible refine emit_keeps ?_
      | with_reducible refine showPending_keeps ?_
      | with_reducible refine Keeps.foldl _ ?_ (fun _ _ _ => ?_)
      | with_reducible refine Keeps.ite (fun _ => ?_) (fun _ => ?_)
      | (fail_if_no_progress with_reducible refine Keeps.upd (hd := rfl) ?_)
      | split

theorem bookLaser_keeps {r s a1} (h : Keeps r s) : Keeps r (bookLaser s a1) := by
  unfold bookLaser
  try dsimp only
  repeat'
    first
      | with_reducible assumption
      | with_reducible exact Keeps.rfl' _
      | with_reducible refine bookA_keeps ?_

theorem takeUnd_keeps {r s a1 a2} (h : Keeps r s) : Keeps r (takeUnd s a1 a2) := by
  unfold takeUnd
  try dsimp only
  repeat'
    first
      | with_reducible assumption
      | with_reducible exact Keeps.rfl' _
      | with_reducible refine fset_keeps ?_
      | with_reducible refine bookLaser_keeps ?_
      | with_reducible refine setLas_keeps ?_
      | with_reducible refine showPending_keeps ?_
      | with_reducible refine Keeps.foldl _ ?_ (fun _ _ _ => ?_)
      | with_reducible refine Keeps.ite (fun _ => ?_) (fun _ => ?_)
      | (fail_if_no_progress with_reducible refine Keeps.upd (hd := rfl) ?_)

theorem startChangeover_keeps {r s a1} (h : Keeps r s) : Keeps r (startChangeover s a1) := by
  unfold startChangeover
  try dsimp only
  repeat'
    first
      | with_reducible assumption
      | with_reducible exact Keeps.rfl' _
      | with_reducible refine takeUnd_keeps ?_
      | with_reducible refine Keeps.foldl _ ?_ (fun _ _ _ => ?_)
      | with_reducible refine Keeps.ite (fun _ => ?_) (fun _ => ?_)
      | (fail_if_no_progress with_reducible refine Keeps.upd (hd := rfl) ?_)
      | split

theorem coMap_keeps {r s i f} (h : Keeps r s) : Keeps r (coMap s i f) := ⟨h.1, h.2, h.3, h.4, h.5⟩

theorem coSet_keeps {r s a1 a2} (h : Keeps r s) : Keeps r (coSet s a1 a2) := by
  unfold coSet
  try dsimp only
  repeat'
    first
      | with_reducible assumption
      | with_reducible exact Keeps.rfl' _
      | with_reducible refine coMap_keeps ?_

theorem holdLane_keeps {r s a1 a2} (h : Keeps r s) : Keeps r (holdLane s a1 a2) := by
  unfold holdLane
  try dsimp only
  repeat'
    first
      | with_reducible assumption
      | with_reducible exact Keeps.rfl' _
      | with_reducible refine oset_keeps ?_
      | with_reducible refine Keeps.foldl _ ?_ (fun _ _ _ => ?_)
      | with_reducible refine Keeps.ite (fun _ => ?_) (fun _ => ?_)

theorem coSwitch_keeps {r s a1} (h : Keeps r s) : Keeps r (coSwitch s a1) := by
  unfold coSwitch
  try dsimp only
  repeat'
    first
      | with_reducible assumption
      | with_reducible exact Keeps.rfl' _
      | with_reducible refine fset_keeps ?_
      | with_reducible refine setLas_keeps ?_
      | with_reducible refine holdLane_keeps ?_
      | with_reducible refine announceTx_keeps ?_
      | with_reducible refine coSet_keeps ?_
      | with_reducible refine Keeps.foldl _ ?_ (fun _ _ _ => ?_)
      | with_reducible refine Keeps.ite (fun _ => ?_) (fun _ => ?_)

theorem narrowGroup_keeps {r s a1} (h : Keeps r s) : Keeps r (narrowGroup s a1) := by
  unfold narrowGroup
  try dsimp only
  repeat'
    first
      | with_reducible assumption
      | with_reducible exact Keeps.rfl' _
      | with_reducible refine fset_keeps ?_
      | with_reducible refine setLive_keeps ?_
      | with_reducible refine announceTx_keeps ?_
      | with_reducible refine Keeps.foldl _ ?_ (fun _ _ _ => ?_)
      | with_reducible refine Keeps.ite (fun _ => ?_) (fun _ => ?_)

theorem coNarrow_keeps {r s a1} (h : Keeps r s) : Keeps r (coNarrow s a1) := by
  unfold coNarrow
  try dsimp only
  repeat'
    first
      | with_reducible assumption
      | with_reducible exact Keeps.rfl' _
      | with_reducible refine narrowGroup_keeps ?_
      | with_reducible refine coSet_keeps ?_
      | with_reducible refine coSwitch_keeps ?_
      | with_reducible refine Keeps.foldl _ ?_ (fun _ _ _ => ?_)
      | with_reducible refine Keeps.ite (fun _ => ?_) (fun _ => ?_)

theorem coProceed_keeps {r s a1} (h : Keeps r s) : Keeps r (coProceed s a1) := by
  unfold coProceed
  try dsimp only
  repeat'
    first
      | with_reducible assumption
      | with_reducible exact Keeps.rfl' _
      | with_reducible refine coNarrow_keeps ?_
      | with_reducible refine coMap_keeps ?_
      | with_reducible refine coSwitch_keeps ?_
      | with_reducible refine setLas_keeps ?_
      | with_reducible refine emit_keeps ?_
      | with_reducible refine bookLaser_keeps ?_
      | with_reducible refine Keeps.foldl _ ?_ (fun _ _ _ => ?_)
      | with_reducible refine Keeps.ite (fun _ => ?_) (fun _ => ?_)
      | (fail_if_no_progress with_reducible refine Keeps.upd (hd := rfl) ?_)
      | split

theorem coResume_keeps {r s a1} (h : Keeps r s) : Keeps r (coResume s a1) := by
  unfold coResume
  try dsimp only
  repeat'
    first
      | with_reducible assumption
      | with_reducible exact Keeps.rfl' _
      | with_reducible refine coProceed_keeps ?_
      | with_reducible refine Keeps.foldl _ ?_ (fun _ _ _ => ?_)
      | with_reducible refine Keeps.ite (fun _ => ?_) (fun _ => ?_)

theorem coAll_keeps {r s a1} (h : Keeps r s) : Keeps r (coAll s a1) := by
  unfold coAll
  try dsimp only
  repeat'
    first
      | with_reducible assumption
      | with_reducible exact Keeps.rfl' _
      | with_reducible refine coProceed_keeps ?_
      | with_reducible refine startChangeover_keeps ?_
      | with_reducible refine Keeps.foldl _ ?_ (fun _ _ _ => ?_)

theorem widenCo_keeps {r s a1} (h : Keeps r s) : Keeps r (widenCo s a1) := by
  unfold widenCo
  try dsimp only
  repeat'
    first
      | with_reducible assumption
      | with_reducible exact Keeps.rfl' _
      | with_reducible refine fset_keeps ?_
      | with_reducible refine coAll_keeps ?_
      | with_reducible refine Keeps.foldl _ ?_ (fun _ _ _ => ?_)
      | with_reducible refine Keeps.ite (fun _ => ?_) (fun _ => ?_)

theorem failLaser_keeps {r s a1} (h : Keeps r s) : Keeps r (failLaser s a1) := by
  unfold failLaser
  try dsimp only
  repeat'
    first
      | with_reducible assumption
      | with_reducible exact Keeps.rfl' _
      | with_reducible refine fset_keeps ?_
      | with_reducible refine setLas_keeps ?_
      | with_reducible refine emit_keeps ?_
      | with_reducible refine bookLaser_keeps ?_
      | with_reducible refine showPending_keeps ?_
      | with_reducible refine coMap_keeps ?_
      | with_reducible refine takeUnd_keeps ?_
      | with_reducible refine coAll_keeps ?_
      | with_reducible refine narrowGroup_keeps ?_
      | with_reducible refine widenCo_keeps ?_
      | with_reducible refine announceTx_keeps ?_
      | with_reducible refine Keeps.foldl _ ?_ (fun _ _ _ => ?_)
      | with_reducible refine Keeps.ite (fun _ => ?_) (fun _ => ?_)
      | (fail_if_no_progress with_reducible refine Keeps.upd (hd := rfl) ?_)

theorem failSigLaser_keeps {r s a1 a2} (h : Keeps r s) : Keeps r (failSigLaser s a1 a2) := by
  unfold failSigLaser
  try dsimp only
  repeat'
    first
      | with_reducible assumption
      | with_reducible exact Keeps.rfl' _
      | with_reducible refine fset_keeps ?_
      | with_reducible refine emit_keeps ?_
      | with_reducible refine announceTx_keeps ?_
      | with_reducible refine Keeps.foldl _ ?_ (fun _ _ _ => ?_)
      | with_reducible refine Keeps.ite (fun _ => ?_) (fun _ => ?_)

theorem biasLoop_keeps {r s a1 a2 a3 a4 a5} (h : Keeps r s) : Keeps r (biasLoop s a1 a2 a3 a4 a5) := by
  unfold biasLoop
  try dsimp only
  repeat'
    first
      | with_reducible assumption
      | with_reducible exact Keeps.rfl' _
      | with_reducible refine fset_keeps ?_
      | with_reducible refine failLaser_keeps ?_
      | with_reducible refine announceTx_keeps ?_
      | with_reducible refine markLaser_keeps ?_
      | with_reducible refine failSigLaser_keeps ?_
      | with_reducible refine Keeps.foldl _ ?_ (fun _ _ _ => ?_)
      | with_reducible refine Keeps.ite (fun _ => ?_) (fun _ => ?_)

theorem steerFailed_keeps {r s a1 a2 a3 a4} (h : Keeps r s) : Keeps r (steerFailed s a1 a2 a3 a4) := by
  unfold steerFailed
  try dsimp only
  repeat'
    first
      | with_reducible assumption
      | with_reducible exact Keeps.rfl' _
      | with_reducible refine emit_keeps ?_
      | with_reducible refine fset_keeps ?_
      | with_reducible refine runFail_keeps ?_
      | with_reducible refine Keeps.foldl _ ?_ (fun _ _ _ => ?_)
      | with_reducible refine Keeps.ite (fun _ => ?_) (fun _ => ?_)
      | (fail_if_no_progress with_reducible refine Keeps.upd (hd := rfl) ?_)
      | split

theorem pointsDone_keeps {r s a1} (h : Keeps r s) : Keeps r (pointsDone s a1) := by
  unfold pointsDone
  try dsimp only
  repeat'
    first
      | with_reducible assumption
      | with_reducible exact Keeps.rfl' _
      | with_reducible refine runStep_keeps ?_
      | with_reducible refine Keeps.foldl _ ?_ (fun _ _ _ => ?_)
      | with_reducible refine Keeps.ite (fun _ => ?_) (fun _ => ?_)
      | (fail_if_no_progress with_reducible refine Keeps.upd (hd := rfl) ?_)
      | split

theorem steerBegin_keeps {r s a1 a2 a3} (h : Keeps r s) : Keeps r (steerBegin s a1 a2 a3) := by
  unfold steerBegin
  try dsimp only
  repeat'
    first
      | with_reducible assumption
      | with_reducible exact Keeps.rfl' _
      | with_reducible refine pointsDone_keeps ?_
      | with_reducible refine oset_keeps ?_
      | with_reducible refine fset_keeps ?_
      | with_reducible refine Keeps.foldl _ ?_ (fun _ _ _ => ?_)
      | with_reducible refine Keeps.ite (fun _ => ?_) (fun _ => ?_)

theorem steer_keeps {r s a1 a2 a3} (h : Keeps r s) : Keeps r (steer s a1 a2 a3) := by
  unfold steer
  try dsimp only
  repeat'
    first
      | with_reducible assumption
      | with_reducible exact Keeps.rfl' _
      | with_reducible refine steerFailed_keeps ?_
      | with_reducible refine steerBegin_keeps ?_
      | with_reducible refine Keeps.foldl _ ?_ (fun _ _ _ => ?_)
      | with_reducible refine Keeps.ite (fun _ => ?_) (fun _ => ?_)
      | (fail_if_no_progress with_reducible refine Keeps.upd (hd := rfl) ?_)
      | split

theorem steerAll_keeps {r s a1} (h : Keeps r s) : Keeps r (steerAll s a1) := by
  unfold steerAll
  try dsimp only
  repeat'
    first
      | with_reducible assumption
      | with_reducible exact Keeps.rfl' _
      | with_reducible refine steerBegin_keeps ?_
      | with_reducible refine steer_keeps ?_
      | with_reducible refine Keeps.foldl _ ?_ (fun _ _ _ => ?_)

theorem steerMove_keeps {r s a1 a2} (h : Keeps r s) : Keeps r (steerMove s a1 a2) := by
  unfold steerMove
  try dsimp only
  repeat'
    first
      | with_reducible assumption
      | with_reducible exact Keeps.rfl' _
      | with_reducible refine lset_keeps ?_
      | with_reducible refine fset_keeps ?_
      | with_reducible refine oset_keeps ?_
      | with_reducible refine setLive_keeps ?_

theorem steerStep_keepsO {r s t} (h : Keeps r s) (e : steerStep s = some t) : Keeps r t := by
  unfold steerStep guardOpt at e
  obtain ⟨p, _, hp⟩ := List.exists_of_findSome?_eq_some e
  split at hp
  · contradiction
  · split at hp
    · split at hp
      · obtain rfl := Option.some.inj hp
        exact steerMove_keeps h
      · contradiction
    · contradiction

theorem steerEval_keeps {r s a1} (h : Keeps r s) : Keeps r (steerEval s a1) := by
  unfold steerEval
  try dsimp only
  repeat'
    first
      | with_reducible assumption
      | with_reducible exact Keeps.rfl' _
      | with_reducible refine linkDown_keeps ?_
      | with_reducible refine fset_keeps ?_
      | with_reducible refine oset_keeps ?_
      | with_reducible refine coAll_keeps ?_
      | with_reducible refine pointsDone_keeps ?_
      | with_reducible refine linkUp_keeps ?_
      | with_reducible refine Keeps.foldl _ ?_ (fun _ _ _ => ?_)
      | with_reducible refine Keeps.ite (fun _ => ?_) (fun _ => ?_)
      | (fail_if_no_progress with_reducible refine Keeps.upd (hd := rfl) ?_)
      | split

theorem portGo_keeps {r s a1} (h : Keeps r s) : Keeps r (portGo s a1) := by
  unfold portGo
  try dsimp only
  repeat'
    first
      | with_reducible assumption
      | with_reducible exact Keeps.rfl' _
      | with_reducible refine steerEval_keeps ?_
      | with_reducible refine widenCo_keeps ?_
      | with_reducible refine portEval_keeps ?_
      | with_reducible refine Keeps.foldl _ ?_ (fun _ _ _ => ?_)
      | with_reducible refine Keeps.ite (fun _ => ?_) (fun _ => ?_)

theorem steerDone_keeps {r s a1 a2} (h : Keeps r s) : Keeps r (steerDone s a1 a2) := by
  unfold steerDone
  try dsimp only
  repeat'
    first
      | with_reducible assumption
      | with_reducible exact Keeps.rfl' _
      | with_reducible refine steerMove_keeps ?_
      | with_reducible refine identity_keeps ?_
      | with_reducible refine takeReports_keeps ?_
      | with_reducible refine recordPeer_keeps ?_
      | with_reducible refine fset_keeps ?_
      | with_reducible refine oset_keeps ?_
      | with_reducible refine setLive_keeps ?_
      | with_reducible refine steerEval_keeps ?_
      | with_reducible refine Keeps.foldl _ ?_ (fun _ _ _ => ?_)
      | with_reducible refine Keeps.ite (fun _ => ?_) (fun _ => ?_)
      | (fail_if_no_progress with_reducible refine Keeps.upd (hd := rfl) ?_)
      | split

theorem missMarker_keeps {r s a1 a2} (h : Keeps r s) : Keeps r (missMarker s a1 a2) := by
  unfold missMarker
  try dsimp only
  repeat'
    first
      | with_reducible assumption
      | with_reducible exact Keeps.rfl' _
      | with_reducible refine setLaneRx_keeps ?_
      | with_reducible refine excludeLane_keeps ?_
      | with_reducible refine Keeps.foldl _ ?_ (fun _ _ _ => ?_)
      | with_reducible refine Keeps.ite (fun _ => ?_) (fun _ => ?_)

theorem wrongLane_keeps {r s a1 a2 a3} (h : Keeps r s) : Keeps r (wrongLane s a1 a2 a3) := by
  unfold wrongLane
  try dsimp only
  repeat'
    first
      | with_reducible assumption
      | with_reducible exact Keeps.rfl' _
      | with_reducible refine excludeLane_keeps ?_
      | with_reducible refine laneBit_keeps ?_
      | with_reducible refine emit_keeps ?_
      | with_reducible refine Keeps.foldl _ ?_ (fun _ _ _ => ?_)
      | with_reducible refine Keeps.ite (fun _ => ?_) (fun _ => ?_)

theorem rightLane_keeps {r s a1 a2} (h : Keeps r s) : Keeps r (rightLane s a1 a2) := by
  unfold rightLane
  try dsimp only
  repeat'
    first
      | with_reducible assumption
      | with_reducible exact Keeps.rfl' _
      | with_reducible refine laneBit_keeps ?_
      | with_reducible refine setLaneRx_keeps ?_
      | with_reducible refine restoreLane_keeps ?_
      | with_reducible refine Keeps.foldl _ ?_ (fun _ _ _ => ?_)
      | with_reducible refine Keeps.ite (fun _ => ?_) (fun _ => ?_)

theorem takeMarker_keeps {r s a1 a2 a3 a4} (h : Keeps r s) : Keeps r (takeMarker s a1 a2 a3 a4) := by
  unfold takeMarker
  try dsimp only
  repeat'
    first
      | with_reducible assumption
      | with_reducible exact Keeps.rfl' _
      | with_reducible refine fset_keeps ?_
      | with_reducible refine releaseHold_keeps ?_
      | with_reducible refine missMarker_keeps ?_
      | with_reducible refine rightLane_keeps ?_
      | with_reducible refine wrongLane_keeps ?_
      | with_reducible refine setLaneRx_keeps ?_
      | with_reducible refine takeReports_keeps ?_
      | with_reducible refine pump_keeps ?_
      | with_reducible refine recordPeer_keeps ?_
      | with_reducible refine identity_keeps ?_
      | with_reducible refine portGo_keeps ?_
      | with_reducible refine announceTx_keeps ?_
      | with_reducible refine Keeps.foldl _ ?_ (fun _ _ _ => ?_)
      | with_reducible refine Keeps.ite (fun _ => ?_) (fun _ => ?_)

theorem loadHeaters_keeps {r s a1} (h : Keeps r s) : Keeps r (loadHeaters s a1) := by
  unfold loadHeaters
  try dsimp only
  repeat'
    first
      | with_reducible assumption
      | with_reducible exact Keeps.rfl' _
      | with_reducible refine Keeps.foldl _ ?_ (fun _ _ _ => ?_)
      | with_reducible refine Keeps.ite (fun _ => ?_) (fun _ => ?_)
      | (fail_if_no_progress with_reducible refine Keeps.upd (hd := rfl) ?_)
      | split

theorem startTraining_keeps {r s a1} (h : Keeps r s) : Keeps r (startTraining s a1) := by
  unfold startTraining
  try dsimp only
  repeat'
    first
      | with_reducible assumption
      | with_reducible exact Keeps.rfl' _
      | with_reducible refine noLive_keeps ?_
      | with_reducible refine portDown_keeps ?_
      | with_reducible refine oset_keeps ?_
      | with_reducible refine loadHeaters_keeps ?_
      | with_reducible refine fset_keeps ?_
      | with_reducible refine Keeps.foldl _ ?_ (fun _ _ _ => ?_)
      | with_reducible refine Keeps.ite (fun _ => ?_) (fun _ => ?_)
      | (fail_if_no_progress with_reducible refine Keeps.upd (hd := rfl) ?_)

theorem steerAbort_keeps {r s a1} (h : Keeps r s) : Keeps r (steerAbort s a1) := by
  unfold steerAbort
  try dsimp only
  repeat'
    first
      | with_reducible assumption
      | with_reducible exact Keeps.rfl' _
      | with_reducible refine steerFailed_keeps ?_
      | with_reducible refine fset_keeps ?_
      | with_reducible refine oset_keeps ?_
      | with_reducible refine Keeps.foldl _ ?_ (fun _ _ _ => ?_)
      | with_reducible refine Keeps.ite (fun _ => ?_) (fun _ => ?_)
      | (fail_if_no_progress with_reducible refine Keeps.upd (hd := rfl) ?_)
      | split

theorem darken_keeps {r s a1} (h : Keeps r s) : Keeps r (darken s a1) := by
  unfold darken
  try dsimp only
  repeat'
    first
      | with_reducible assumption
      | with_reducible exact Keeps.rfl' _
      | with_reducible refine noLive_keeps ?_
      | with_reducible refine portDown_keeps ?_
      | with_reducible refine steerAbort_keeps ?_
      | with_reducible refine oset_keeps ?_
      | with_reducible refine fset_keeps ?_
      | with_reducible refine Keeps.foldl _ ?_ (fun _ _ _ => ?_)
      | with_reducible refine Keeps.ite (fun _ => ?_) (fun _ => ?_)
      | (fail_if_no_progress with_reducible refine Keeps.upd (hd := rfl) ?_)

theorem portEnable_keeps {r s a1} (h : Keeps r s) : Keeps r (portEnable s a1) := by
  unfold portEnable
  try dsimp only
  repeat'
    first
      | with_reducible assumption
      | with_reducible exact Keeps.rfl' _
      | with_reducible refine startTraining_keeps ?_
      | with_reducible refine darken_keeps ?_
      | with_reducible refine Keeps.foldl _ ?_ (fun _ _ _ => ?_)
      | with_reducible refine Keeps.ite (fun _ => ?_) (fun _ => ?_)

theorem bankUp_keeps {r s a1} (h : Keeps r s) : Keeps r (bankUp s a1) := by
  unfold bankUp
  try dsimp only
  repeat'
    first
      | with_reducible assumption
      | with_reducible exact Keeps.rfl' _
      | with_reducible refine fset_keeps ?_
      | with_reducible refine setLas_keeps ?_
      | with_reducible refine emit_keeps ?_
      | with_reducible refine portEnable_keeps ?_
      | with_reducible refine Keeps.foldl _ ?_ (fun _ _ _ => ?_)
      | with_reducible refine Keeps.ite (fun _ => ?_) (fun _ => ?_)
      | (fail_if_no_progress with_reducible refine Keeps.upd (hd := rfl) ?_)
      | split

theorem bankDark_keeps {r s a1} (h : Keeps r s) : Keeps r (bankDark s a1) := by
  unfold bankDark
  try dsimp only
  repeat'
    first
      | with_reducible assumption
      | with_reducible exact Keeps.rfl' _
      | with_reducible refine fset_keeps ?_
      | with_reducible refine setLas_keeps ?_
      | with_reducible refine darken_keeps ?_
      | with_reducible refine Keeps.foldl _ ?_ (fun _ _ _ => ?_)
      | with_reducible refine Keeps.ite (fun _ => ?_) (fun _ => ?_)
      | (fail_if_no_progress with_reducible refine Keeps.upd (hd := rfl) ?_)

theorem trainedNow_keeps {r s a1} (h : Keeps r s) : Keeps r (trainedNow s a1) := by
  unfold trainedNow
  try dsimp only
  repeat'
    first
      | with_reducible assumption
      | with_reducible exact Keeps.rfl' _
      | with_reducible refine oset_keeps ?_
      | with_reducible refine identity_keeps ?_
      | with_reducible refine setLive_keeps ?_
      | with_reducible refine fsetb_keeps ?_
      | with_reducible refine portEval_keeps ?_
      | with_reducible refine coAll_keeps ?_
      | with_reducible refine Keeps.foldl _ ?_ (fun _ _ _ => ?_)
      | with_reducible refine Keeps.ite (fun _ => ?_) (fun _ => ?_)

theorem trainingDone_keeps {r s a1} (h : Keeps r s) : Keeps r (trainingDone s a1) := by
  unfold trainingDone
  try dsimp only
  repeat'
    first
      | with_reducible assumption
      | with_reducible exact Keeps.rfl' _
      | with_reducible refine fset_keeps ?_
      | with_reducible refine setLive_keeps ?_
      | with_reducible refine oset_keeps ?_
      | with_reducible refine trainedNow_keeps ?_
      | with_reducible refine Keeps.foldl _ ?_ (fun _ _ _ => ?_)
      | with_reducible refine Keeps.ite (fun _ => ?_) (fun _ => ?_)
      | (fail_if_no_progress with_reducible refine Keeps.upd (hd := rfl) ?_)

theorem steerLate_keeps {r s a1} (h : Keeps r s) : Keeps r (steerLate s a1) := by
  unfold steerLate
  try dsimp only
  repeat'
    first
      | with_reducible assumption
      | with_reducible exact Keeps.rfl' _
      | with_reducible refine steerMove_keeps ?_
      | with_reducible refine fset_keeps ?_
      | with_reducible refine oset_keeps ?_
      | with_reducible refine startTraining_keeps ?_
      | with_reducible refine portDown_keeps ?_
      | with_reducible refine coAll_keeps ?_
      | with_reducible refine steerFailed_keeps ?_
      | with_reducible refine Keeps.foldl _ ?_ (fun _ _ _ => ?_)
      | with_reducible refine Keeps.ite (fun _ => ?_) (fun _ => ?_)
      | (fail_if_no_progress with_reducible refine Keeps.upd (hd := rfl) ?_)
      | split

theorem rehearsalEnd_keeps {r s a1} (h : Keeps r s) : Keeps r (rehearsalEnd s a1) := by
  unfold rehearsalEnd
  try dsimp only
  repeat'
    first
      | with_reducible assumption
      | with_reducible exact Keeps.rfl' _
      | with_reducible refine fset_keeps ?_
      | with_reducible refine oset_keeps ?_
      | with_reducible refine emit_keeps ?_
      | with_reducible refine trainedNow_keeps ?_
      | with_reducible refine Keeps.foldl _ ?_ (fun _ _ _ => ?_)
      | with_reducible refine Keeps.ite (fun _ => ?_) (fun _ => ?_)
      | (fail_if_no_progress with_reducible refine Keeps.upd (hd := rfl) ?_)

theorem laneMargin_keeps {r s a1 a2 a3} (h : Keeps r s) : Keeps r (laneMargin s a1 a2 a3) := by
  unfold laneMargin
  try dsimp only
  repeat'
    first
      | with_reducible assumption
      | with_reducible exact Keeps.rfl' _
      | with_reducible refine fset_keeps ?_
      | with_reducible refine excludeLane_keeps ?_
      | with_reducible refine oset_keeps ?_
      | with_reducible refine rehearsalEnd_keeps ?_
      | with_reducible refine Keeps.foldl _ ?_ (fun _ _ _ => ?_)
      | with_reducible refine Keeps.ite (fun _ => ?_) (fun _ => ?_)

theorem dwell_keeps {r s a1 a2 a3} (h : Keeps r s) : Keeps r (dwell s a1 a2 a3) := by
  unfold dwell
  try dsimp only
  repeat'
    first
      | with_reducible assumption
      | with_reducible exact Keeps.rfl' _
      | with_reducible refine laneMargin_keeps ?_
      | with_reducible refine oset_keeps ?_
      | with_reducible refine Keeps.foldl _ ?_ (fun _ _ _ => ?_)
      | with_reducible refine Keeps.ite (fun _ => ?_) (fun _ => ?_)
      | (fail_if_no_progress with_reducible refine Keeps.upd (hd := rfl) ?_)
      | split

theorem noPattern_keeps {r s a1} (h : Keeps r s) : Keeps r (noPattern s a1) := by
  unfold noPattern
  try dsimp only
  repeat'
    first
      | with_reducible assumption
      | with_reducible exact Keeps.rfl' _
      | with_reducible refine rehearsalEnd_keeps ?_
      | with_reducible refine fset_keeps ?_
      | with_reducible refine Keeps.foldl _ ?_ (fun _ _ _ => ?_)
      | with_reducible refine Keeps.ite (fun _ => ?_) (fun _ => ?_)

theorem storeSample_keeps {r s a1 a2} (h : Keeps r s) : Keeps r (storeSample s a1 a2) := by
  unfold storeSample
  try dsimp only
  repeat'
    first
      | with_reducible assumption
      | with_reducible exact Keeps.rfl' _
      | with_reducible refine fset_keeps ?_
      | with_reducible refine emitLim_keeps ?_
      | with_reducible refine Keeps.foldl _ ?_ (fun _ _ _ => ?_)
      | with_reducible refine Keeps.ite (fun _ => ?_) (fun _ => ?_)

theorem sample_keeps {r s a1 a2} (h : Keeps r s) : Keeps r (sample s a1 a2) := by
  unfold sample
  try dsimp only
  repeat'
    first
      | with_reducible assumption
      | with_reducible exact Keeps.rfl' _
      | with_reducible refine storeSample_keeps ?_
      | with_reducible refine Keeps.foldl _ ?_ (fun _ _ _ => ?_)
      | with_reducible refine Keeps.ite (fun _ => ?_) (fun _ => ?_)
      | (fail_if_no_progress with_reducible refine Keeps.upd (hd := rfl) ?_)
      | split

theorem lasChange_keeps {r s a1 a2} (h : Keeps r s) : Keeps r (lasChange s a1 a2) := by
  unfold lasChange
  try dsimp only
  repeat'
    first
      | with_reducible assumption
      | with_reducible exact Keeps.rfl' _
      | with_reducible refine fset_keeps ?_
      | with_reducible refine markLaser_keeps ?_
      | with_reducible refine Keeps.foldl _ ?_ (fun _ _ _ => ?_)
      | with_reducible refine Keeps.ite (fun _ => ?_) (fun _ => ?_)

theorem portRetrain_keeps {r s a1} (h : Keeps r s) : Keeps r (portRetrain s a1) := by
  unfold portRetrain
  try dsimp only
  repeat'
    first
      | with_reducible assumption
      | with_reducible exact Keeps.rfl' _
      | with_reducible refine startTraining_keeps ?_
      | with_reducible refine Keeps.foldl _ ?_ (fun _ _ _ => ?_)
      | with_reducible refine Keeps.ite (fun _ => ?_) (fun _ => ?_)

theorem portRelock_keeps {r s a1 a2} (h : Keeps r s) : Keeps r (portRelock s a1 a2) := by
  unfold portRelock
  try dsimp only
  repeat'
    first
      | with_reducible assumption
      | with_reducible exact Keeps.rfl' _
      | with_reducible refine laneBit_keeps ?_
      | with_reducible refine Keeps.foldl _ ?_ (fun _ _ _ => ?_)
      | with_reducible refine Keeps.ite (fun _ => ?_) (fun _ => ?_)

theorem portCntClr_keeps {r s a1} (h : Keeps r s) : Keeps r (portCntClr s a1) := by
  unfold portCntClr
  try dsimp only
  repeat'
    first
      | with_reducible assumption
      | with_reducible exact Keeps.rfl' _
      | with_reducible refine fset_keeps ?_
      | with_reducible refine Keeps.foldl _ ?_ (fun _ _ _ => ?_)

theorem lanesOut_keeps {r s} (h : Keeps r s) : Keeps r (lanesOut s) := by
  unfold lanesOut
  try dsimp only
  repeat'
    first
      | with_reducible assumption
      | with_reducible exact Keeps.rfl' _
      | with_reducible refine Keeps.foldl _ ?_ (fun _ _ _ => ?_)
      | with_reducible refine Keeps.ite (fun _ => ?_) (fun _ => ?_)
      | (fail_if_no_progress with_reducible refine Keeps.upd (hd := rfl) ?_)

end Sys2Proof.Machine
end

