-- ==== Sys2Proof/Laws/KeepsDevice.lean ====
section
/-!
SUPPORT. What the functions of modes, interlocking, bridge, power, module, start, management and what settles keep.
-/

namespace Sys2Proof.Machine

theorem showInd_keeps {r s} (h : Keeps r s) : Keeps r (showInd s) := by
  unfold showInd
  try dsimp only
  repeat'
    first
      | with_reducible assumption
      | with_reducible exact Keeps.rfl' _
      | with_reducible refine fset_keeps ?_

theorem modeTo_keeps {r s a1 a2} (h : Keeps r s) : Keeps r (modeTo s a1 a2) := by
  unfold modeTo
  try dsimp only
  repeat'
    first
      | with_reducible assumption
      | with_reducible exact Keeps.rfl' _
      | with_reducible refine fset_keeps ?_
      | with_reducible refine emit_keeps ?_
      | with_reducible refine showInd_keeps ?_

theorem modeRefused_keeps {r s a1} (h : Keeps r s) : Keeps r (modeRefused s a1) := by
  unfold modeRefused
  try dsimp only
  repeat'
    first
      | with_reducible assumption
      | with_reducible exact Keeps.rfl' _
      | with_reducible refine emit_keeps ?_
      | with_reducible refine fset_keeps ?_

theorem modeRange_keeps {r s} (h : Keeps r s) : Keeps r (modeRange s) := by
  unfold modeRange
  try dsimp only
  repeat'
    first
      | with_reducible assumption
      | with_reducible exact Keeps.rfl' _
      | with_reducible refine emitLim_keeps ?_

theorem modeGo_keeps {r s a1} (h : Keeps r s) : Keeps r (modeGo s a1) := by
  unfold modeGo
  try dsimp only
  repeat'
    first
      | with_reducible assumption
      | with_reducible exact Keeps.rfl' _
      | with_reducible refine modeRange_keeps ?_
      | with_reducible refine fset_keeps ?_
      | with_reducible refine fsetb_keeps ?_
      | with_reducible refine Keeps.foldl _ ?_ (fun _ _ _ => ?_)
      | with_reducible refine Keeps.ite (fun _ => ?_) (fun _ => ?_)

theorem modeRequestComplete_keeps {r s} (h : Keeps r s) : Keeps r (modeRequestComplete s) := by
  unfold modeRequestComplete
  try dsimp only
  repeat'
    first
      | with_reducible assumption
      | with_reducible exact Keeps.rfl' _
      | with_reducible refine modeRefused_keeps ?_
      | with_reducible refine fset_keeps ?_
      | with_reducible refine modeTo_keeps ?_
      | with_reducible refine Keeps.foldl _ ?_ (fun _ _ _ => ?_)
      | with_reducible refine Keeps.ite (fun _ => ?_) (fun _ => ?_)

theorem modeCfg_keeps {r s a1 a2} (h : Keeps r s) : Keeps r (modeCfg s a1 a2) := by
  unfold modeCfg
  try dsimp only
  repeat'
    first
      | with_reducible assumption
      | with_reducible exact Keeps.rfl' _
      | with_reducible refine modeRange_keeps ?_
      | with_reducible refine fset_keeps ?_
      | with_reducible refine emit_keeps ?_
      | with_reducible refine fsetb_keeps ?_
      | with_reducible refine Keeps.foldl _ ?_ (fun _ _ _ => ?_)
      | with_reducible refine Keeps.ite (fun _ => ?_) (fun _ => ?_)

theorem singleLayerEnd_keeps {r s a1 a2} (h : Keeps r s) : Keeps r (singleLayerEnd s a1 a2) := by
  unfold singleLayerEnd
  try dsimp only
  repeat'
    first
      | with_reducible assumption
      | with_reducible exact Keeps.rfl' _
      | with_reducible refine cueAbort_keeps ?_
      | with_reducible refine stmSet_keeps ?_
      | with_reducible refine emit_keeps ?_

theorem unbindSlot_keeps {r s a1} (h : Keeps r s) : Keeps r (unbindSlot s a1) := by
  unfold unbindSlot
  try dsimp only
  repeat'
    first
      | with_reducible assumption
      | with_reducible exact Keeps.rfl' _
      | with_reducible refine fset_keeps ?_
      | with_reducible refine failStream_keeps ?_
      | with_reducible refine discardStreams_keeps ?_
      | with_reducible refine Keeps.foldl _ ?_ (fun _ _ _ => ?_)
      | with_reducible refine Keeps.ite (fun _ => ?_) (fun _ => ?_)
      | (fail_if_no_progress with_reducible refine Keeps.upd (hd := rfl) ?_)

theorem unbindAll_keeps {r s} (h : Keeps r s) : Keeps r (unbindAll s) := by
  unfold unbindAll
  try dsimp only
  repeat'
    first
      | with_reducible assumption
      | with_reducible exact Keeps.rfl' _
      | with_reducible refine unbindSlot_keeps ?_
      | with_reducible refine Keeps.foldl _ ?_ (fun _ _ _ => ?_)

theorem winRefused_keeps {r s a1} (h : Keeps r s) : Keeps r (winRefused s a1) := by
  unfold winRefused
  try dsimp only
  repeat'
    first
      | with_reducible assumption
      | with_reducible exact Keeps.rfl' _
      | with_reducible refine emit_keeps ?_

theorem winWrite_keeps {r s a1 a2} (h : Keeps r s) : Keeps r (winWrite s a1 a2) := by
  unfold winWrite
  try dsimp only
  repeat'
    first
      | with_reducible assumption
      | with_reducible exact Keeps.rfl' _
      | with_reducible refine winRefused_keeps ?_
      | with_reducible refine fset_keeps ?_
      | with_reducible refine fsetb_keeps ?_
      | with_reducible refine Keeps.foldl _ ?_ (fun _ _ _ => ?_)
      | with_reducible refine Keeps.ite (fun _ => ?_) (fun _ => ?_)
      | (fail_if_no_progress with_reducible refine Keeps.upd (hd := rfl) ?_)

theorem winBind_keeps {r s a1 a2} (h : Keeps r s) : Keeps r (winBind s a1 a2) := by
  unfold winBind
  try dsimp only
  repeat'
    first
      | with_reducible assumption
      | with_reducible exact Keeps.rfl' _
      | with_reducible refine winRefused_keeps ?_
      | with_reducible refine discardStreams_keeps ?_
      | with_reducible refine fsetb_keeps ?_
      | with_reducible refine fset_keeps ?_
      | with_reducible refine Keeps.foldl _ ?_ (fun _ _ _ => ?_)
      | with_reducible refine Keeps.ite (fun _ => ?_) (fun _ => ?_)
      | (fail_if_no_progress with_reducible refine Keeps.upd (hd := rfl) ?_)

theorem winUnbind_keeps {r s a1} (h : Keeps r s) : Keeps r (winUnbind s a1) := by
  unfold winUnbind
  try dsimp only
  repeat'
    first
      | with_reducible assumption
      | with_reducible exact Keeps.rfl' _
      | with_reducible refine winRefused_keeps ?_
      | with_reducible refine fsetb_keeps ?_
      | with_reducible refine unbindSlot_keeps ?_
      | with_reducible refine Keeps.foldl _ ?_ (fun _ _ _ => ?_)
      | with_reducible refine Keeps.ite (fun _ => ?_) (fun _ => ?_)

theorem winComplete_keeps {r s} (h : Keeps r s) : Keeps r (winComplete s) := by
  unfold winComplete
  try dsimp only
  repeat'
    first
      | with_reducible assumption
      | with_reducible exact Keeps.rfl' _
      | with_reducible refine fset_keeps ?_
      | with_reducible refine Keeps.foldl _ ?_ (fun _ _ _ => ?_)
      | with_reducible refine Keeps.ite (fun _ => ?_) (fun _ => ?_)
      | (fail_if_no_progress with_reducible refine Keeps.upd (hd := rfl) ?_)

theorem coreOff_keeps {r s a} (h : Keeps r s) : Keeps r (coreOff s a) := by
  unfold coreOff
  refine fset_keeps (fset_keeps ?_)
  cases a <;> exact ⟨h.1, h.2, h.3, fun x => (h.4 x).filter _, fun _ => rfl⟩

theorem railsOff_keeps {r s a1} (h : Keeps r s) : Keeps r (railsOff s a1) := by
  unfold railsOff
  try dsimp only
  repeat'
    first
      | with_reducible assumption
      | with_reducible exact Keeps.rfl' _
      | with_reducible refine fset_keeps ?_
      | with_reducible refine modeTo_keeps ?_
      | with_reducible refine coreOff_keeps ?_
      | with_reducible refine Keeps.foldl _ ?_ (fun _ _ _ => ?_)
      | with_reducible refine Keeps.ite (fun _ => ?_) (fun _ => ?_)

theorem portsDark_keeps {r s} (h : Keeps r s) : Keeps r (portsDark s) := by
  unfold portsDark
  try dsimp only
  repeat'
    first
      | with_reducible assumption
      | with_reducible exact Keeps.rfl' _
      | with_reducible refine portEnable_keeps ?_
      | with_reducible refine fset_keeps ?_
      | with_reducible refine Keeps.foldl _ ?_ (fun _ _ _ => ?_)

theorem bookEpoch_keeps {r s a1} (h : Keeps r s) : Keeps r (bookEpoch s a1) := by
  unfold bookEpoch
  try dsimp only
  repeat'
    first
      | with_reducible assumption
      | with_reducible exact Keeps.rfl' _
      | with_reducible refine bookB_keeps ?_
      | with_reducible refine bookA_keeps ?_
      | with_reducible refine Keeps.foldl _ ?_ (fun _ _ _ => ?_)
      | with_reducible refine Keeps.ite (fun _ => ?_) (fun _ => ?_)

theorem bookStop_keeps {r s a1} (h : Keeps r s) : Keeps r (bookStop s a1) := by
  unfold bookStop
  try dsimp only
  repeat'
    first
      | with_reducible assumption
      | with_reducible exact Keeps.rfl' _
      | with_reducible refine bookA_keeps ?_

theorem drainFinish_keeps {r s} (h : Keeps r s) : Keeps r (drainFinish s) := by
  unfold drainFinish
  try dsimp only
  repeat'
    first
      | with_reducible assumption
      | with_reducible exact Keeps.rfl' _
      | with_reducible refine unbindAll_keeps ?_
      | with_reducible refine bookFlush_keeps ?_
      | with_reducible refine bookStop_keeps ?_
      | with_reducible refine bookEpoch_keeps ?_
      | with_reducible refine portsDark_keeps ?_
      | with_reducible refine railsOff_keeps ?_
      | with_reducible refine fset_keeps ?_
      | with_reducible refine emit_keeps ?_
      | with_reducible refine showInd_keeps ?_
      | with_reducible refine fsetb_keeps ?_
      | with_reducible refine Keeps.foldl _ ?_ (fun _ _ _ => ?_)
      | with_reducible refine Keeps.ite (fun _ => ?_) (fun _ => ?_)
      | (fail_if_no_progress with_reducible refine Keeps.upd (hd := rfl) ?_)

theorem drainRequest_keeps {r s a1} (h : Keeps r s) : Keeps r (drainRequest s a1) := by
  unfold drainRequest
  try dsimp only
  repeat'
    first
      | with_reducible assumption
      | with_reducible exact Keeps.rfl' _
      | with_reducible refine modeRefused_keeps ?_
      | with_reducible refine modeTo_keeps ?_
      | with_reducible refine emit_keeps ?_
      | with_reducible refine Keeps.foldl _ ?_ (fun _ _ _ => ?_)
      | with_reducible refine Keeps.ite (fun _ => ?_) (fun _ => ?_)
      | (fail_if_no_progress with_reducible refine Keeps.upd (hd := rfl) ?_)

theorem drainRelease_keeps {r s} (h : Keeps r s) : Keeps r (drainRelease s) := by
  unfold drainRelease
  try dsimp only
  repeat'
    first
      | with_reducible assumption
      | with_reducible exact Keeps.rfl' _
      | with_reducible refine Keeps.foldl _ ?_ (fun _ _ _ => ?_)
      | with_reducible refine Keeps.ite (fun _ => ?_) (fun _ => ?_)
      | (fail_if_no_progress with_reducible refine Keeps.upd (hd := rfl) ?_)
      | split

theorem drainExpiry_keeps {r s} (h : Keeps r s) : Keeps r (drainExpiry s) := by
  unfold drainExpiry
  try dsimp only
  repeat'
    first
      | with_reducible assumption
      | with_reducible exact Keeps.rfl' _
      | with_reducible refine emit_keeps ?_
      | with_reducible refine Keeps.foldl _ ?_ (fun _ _ _ => ?_)
      | with_reducible refine Keeps.ite (fun _ => ?_) (fun _ => ?_)
      | (fail_if_no_progress with_reducible refine Keeps.upd (hd := rfl) ?_)
      | split

theorem mirror_keeps {r s a1} (h : Keeps r s) : Keeps r (mirror s a1) := by
  unfold mirror
  try dsimp only
  repeat'
    first
      | with_reducible assumption
      | with_reducible exact Keeps.rfl' _
      | with_reducible refine Keeps.foldl _ ?_ (fun _ _ _ => ?_)
      | with_reducible refine Keeps.ite (fun _ => ?_) (fun _ => ?_)
      | (fail_if_no_progress with_reducible refine Keeps.upd (hd := rfl) ?_)

theorem planeSend_keeps {r s a1 a2 a3} (h : Keeps r s) : Keeps r (planeSend s a1 a2 a3) := by
  unfold planeSend
  try dsimp only
  repeat'
    first
      | with_reducible assumption
      | with_reducible exact Keeps.rfl' _
      | with_reducible refine mirror_keeps ?_
      | with_reducible refine sendOn_keeps ?_
      | with_reducible refine fset_keeps ?_
      | with_reducible refine Keeps.foldl _ ?_ (fun _ _ _ => ?_)
      | with_reducible refine Keeps.ite (fun _ => ?_) (fun _ => ?_)

theorem ilkSend_keeps {r s a1 a2} (h : Keeps r s) : Keeps r (ilkSend s a1 a2) := by
  unfold ilkSend
  try dsimp only
  repeat'
    first
      | with_reducible assumption
      | with_reducible exact Keeps.rfl' _
      | with_reducible refine planeSend_keeps ?_
      | with_reducible refine Keeps.foldl _ ?_ (fun _ _ _ => ?_)
      | with_reducible refine Keeps.ite (fun _ => ?_) (fun _ => ?_)
      | (fail_if_no_progress with_reducible refine Keeps.upd (hd := rfl) ?_)

theorem loadUnit_keeps {r s a1} (h : Keeps r s) : Keeps r (loadUnit s a1) := by
  unfold loadUnit
  try dsimp only
  repeat'
    first
      | with_reducible assumption
      | with_reducible exact Keeps.rfl' _
      | with_reducible refine fset_keeps ?_
      | with_reducible refine Keeps.foldl _ ?_ (fun _ _ _ => ?_)
      | with_reducible refine Keeps.ite (fun _ => ?_) (fun _ => ?_)
      | (fail_if_no_progress with_reducible refine Keeps.upd (hd := rfl) ?_)

theorem asDown_keeps {r s f} (g : ∀ t, Keeps r t → Keeps r (f t)) (h : Keeps r s) : Keeps r (asDown s f) := by
  unfold asDown
  split
  · exact h
  · refine loadUnit_keeps ?_
    exact Keeps.upd (hd := rfl) (g _ (loadUnit_keeps h))

theorem bothUnits_keeps {r s f} (g : ∀ t, Keeps r t → Keeps r (f t)) (h : Keeps r s) : Keeps r (bothUnits s f) := by
  unfold bothUnits
  exact asDown_keeps g (g _ h)

theorem unitView_keeps {r s a1} (h : Keeps r s) : Keeps r (unitView s a1) := by
  unfold unitView
  try dsimp only
  repeat'
    first
      | with_reducible assumption
      | with_reducible exact Keeps.rfl' _
      | with_reducible refine loadUnit_keeps ?_
      | with_reducible refine Keeps.foldl _ ?_ (fun _ _ _ => ?_)
      | with_reducible refine Keeps.ite (fun _ => ?_) (fun _ => ?_)
      | (fail_if_no_progress with_reducible refine Keeps.upd (hd := rfl) ?_)
      | split

theorem splitUnits_keeps {r s} (h : Keeps r s) : Keeps r (splitUnits s) := by
  unfold splitUnits
  try dsimp only
  repeat'
    first
      | with_reducible assumption
      | with_reducible exact Keeps.rfl' _
      | with_reducible refine Keeps.foldl _ ?_ (fun _ _ _ => ?_)
      | with_reducible refine Keeps.ite (fun _ => ?_) (fun _ => ?_)
      | (fail_if_no_progress with_reducible refine Keeps.upd (hd := rfl) ?_)

theorem sendAll_keeps {r s a1 a2} (h : Keeps r s) : Keeps r (sendAll s a1 a2) := by
  unfold sendAll
  try dsimp only
  repeat'
    first
      | with_reducible assumption
      | with_reducible exact Keeps.rfl' _
      | with_reducible refine ilkSend_keeps ?_
      | with_reducible refine Keeps.foldl _ ?_ (fun _ _ _ => ?_)

theorem ilkEv_keeps {r s a1 a2 a3} (h : Keeps r s) : Keeps r (ilkEv s a1 a2 a3) := by
  unfold ilkEv
  try dsimp only
  repeat'
    first
      | with_reducible assumption
      | with_reducible exact Keeps.rfl' _
      | with_reducible refine emit_keeps ?_

theorem setSeen_keeps {r s a1 a2} (h : Keeps r s) : Keeps r (setSeen s a1 a2) := by
  unfold setSeen
  try dsimp only
  repeat'
    first
      | with_reducible assumption
      | with_reducible exact Keeps.rfl' _
      | with_reducible refine Keeps.foldl _ ?_ (fun _ _ _ => ?_)
      | with_reducible refine Keeps.ite (fun _ => ?_) (fun _ => ?_)
      | (fail_if_no_progress with_reducible refine Keeps.upd (hd := rfl) ?_)

theorem ilkRequest_keeps {r s a1 a2} (h : Keeps r s) : Keeps r (ilkRequest s a1 a2) := by
  unfold ilkRequest
  try dsimp only
  repeat'
    first
      | with_reducible assumption
      | with_reducible exact Keeps.rfl' _
      | with_reducible refine sendAll_keeps ?_

theorem propose_keeps {r s a1 a2 a3 a4} (h : Keeps r s) : Keeps r (propose s a1 a2 a3 a4) := by
  unfold propose
  try dsimp only
  repeat'
    first
      | with_reducible assumption
      | with_reducible exact Keeps.rfl' _
      | with_reducible refine fset_keeps ?_
      | with_reducible refine sendAll_keeps ?_
      | with_reducible refine Keeps.foldl _ ?_ (fun _ _ _ => ?_)
      | with_reducible refine Keeps.ite (fun _ => ?_) (fun _ => ?_)
      | (fail_if_no_progress with_reducible refine Keeps.upd (hd := rfl) ?_)

theorem ilkNext_keeps {r s} (h : Keeps r s) : Keeps r (ilkNext s) := by
  unfold ilkNext
  try dsimp only
  repeat'
    first
      | with_reducible assumption
      | with_reducible exact Keeps.rfl' _
      | with_reducible refine propose_keeps ?_
      | with_reducible refine Keeps.foldl _ ?_ (fun _ _ _ => ?_)
      | with_reducible refine Keeps.ite (fun _ => ?_) (fun _ => ?_)
      | (fail_if_no_progress with_reducible refine Keeps.upd (hd := rfl) ?_)
      | split

theorem dropOwnReq_keeps {r s a1 a2} (h : Keeps r s) : Keeps r (dropOwnReq s a1 a2) := by
  unfold dropOwnReq
  try dsimp only
  repeat'
    first
      | with_reducible assumption
      | with_reducible exact Keeps.rfl' _
      | with_reducible refine Keeps.foldl _ ?_ (fun _ _ _ => ?_)
      | with_reducible refine Keeps.ite (fun _ => ?_) (fun _ => ?_)
      | (fail_if_no_progress with_reducible refine Keeps.upd (hd := rfl) ?_)

theorem dropReq_keeps {r s a1} (h : Keeps r s) : Keeps r (dropReq s a1) := by
  unfold dropReq
  try dsimp only
  repeat'
    first
      | with_reducible assumption
      | with_reducible exact Keeps.rfl' _
      | with_reducible refine Keeps.foldl _ ?_ (fun _ _ _ => ?_)
      | with_reducible refine Keeps.ite (fun _ => ?_) (fun _ => ?_)
      | (fail_if_no_progress with_reducible refine Keeps.upd (hd := rfl) ?_)

theorem takeRequestRec_keeps {r s a1 a2} (h : Keeps r s) : Keeps r (takeRequestRec s a1 a2) := by
  unfold takeRequestRec
  try dsimp only
  repeat'
    first
      | with_reducible assumption
      | with_reducible exact Keeps.rfl' _
      | with_reducible refine ilkNext_keeps ?_
      | with_reducible refine Keeps.foldl _ ?_ (fun _ _ _ => ?_)
      | with_reducible refine Keeps.ite (fun _ => ?_) (fun _ => ?_)
      | (fail_if_no_progress with_reducible refine Keeps.upd (hd := rfl) ?_)

theorem propFailed_keeps {r s a1} (h : Keeps r s) : Keeps r (propFailed s a1) := by
  unfold propFailed
  try dsimp only
  repeat'
    first
      | with_reducible assumption
      | with_reducible exact Keeps.rfl' _
      | with_reducible refine fset_keeps ?_
      | with_reducible refine ilkSend_keeps ?_
      | with_reducible refine fcount_keeps ?_
      | with_reducible refine ilkNext_keeps ?_
      | with_reducible refine dropOwnReq_keeps ?_
      | with_reducible refine ilkEv_keeps ?_
      | with_reducible refine Keeps.foldl _ ?_ (fun _ _ _ => ?_)
      | with_reducible refine Keeps.ite (fun _ => ?_) (fun _ => ?_)
      | (fail_if_no_progress with_reducible refine Keeps.upd (hd := rfl) ?_)

theorem deliverTo_keeps {r s a1 a2 a3} (h : Keeps r s) : Keeps r (deliverTo s a1 a2 a3) := by
  unfold deliverTo
  try dsimp only
  repeat'
    first
      | with_reducible assumption
      | with_reducible exact Keeps.rfl' _
      | with_reducible refine sendAll_keeps ?_

theorem carry_keeps {r s a1 a2 a3} (h : Keeps r s) : Keeps r (carry s a1 a2 a3) := by
  unfold carry
  try dsimp only
  repeat'
    first
      | with_reducible assumption
      | with_reducible exact Keeps.rfl' _
      | with_reducible refine dropReq_keeps ?_
      | with_reducible refine fset_keeps ?_
      | with_reducible refine ilkSend_keeps ?_
      | with_reducible refine deliverTo_keeps ?_
      | with_reducible refine Keeps.foldl _ ?_ (fun _ _ _ => ?_)
      | with_reducible refine Keeps.ite (fun _ => ?_) (fun _ => ?_)
      | (fail_if_no_progress with_reducible refine Keeps.upd (hd := rfl) ?_)
      | split

theorem countVotes_keeps {r s} (h : Keeps r s) : Keeps r (countVotes s) := by
  unfold countVotes
  try dsimp only
  repeat'
    first
      | with_reducible assumption
      | with_reducible exact Keeps.rfl' _
      | with_reducible refine carry_keeps ?_
      | with_reducible refine propFailed_keeps ?_
      | with_reducible refine Keeps.foldl _ ?_ (fun _ _ _ => ?_)
      | with_reducible refine Keeps.ite (fun _ => ?_) (fun _ => ?_)
      | (fail_if_no_progress with_reducible refine Keeps.upd (hd := rfl) ?_)
      | split

theorem takeVote_keeps {r s a1 a2 a3 a4} (h : Keeps r s) : Keeps r (takeVote s a1 a2 a3 a4) := by
  unfold takeVote
  try dsimp only
  repeat'
    first
      | with_reducible assumption
      | with_reducible exact Keeps.rfl' _
      | with_reducible refine countVotes_keeps ?_
      | with_reducible refine carry_keeps ?_
      | with_reducible refine Keeps.foldl _ ?_ (fun _ _ _ => ?_)
      | with_reducible refine Keeps.ite (fun _ => ?_) (fun _ => ?_)
      | (fail_if_no_progress with_reducible refine Keeps.upd (hd := rfl) ?_)
      | split

theorem startProbe_keeps {r s a1} (h : Keeps r s) : Keeps r (startProbe s a1) := by
  unfold startProbe
  try dsimp only
  repeat'
    first
      | with_reducible assumption
      | with_reducible exact Keeps.rfl' _
      | with_reducible refine setSeen_keeps ?_
      | with_reducible refine ilkSend_keeps ?_
      | with_reducible refine Keeps.foldl _ ?_ (fun _ _ _ => ?_)
      | with_reducible refine Keeps.ite (fun _ => ?_) (fun _ => ?_)
      | (fail_if_no_progress with_reducible refine Keeps.upd (hd := rfl) ?_)

theorem vote_keeps {r s a1 a2 a3 a4} (h : Keeps r s) : Keeps r (vote s a1 a2 a3 a4) := by
  unfold vote
  try dsimp only
  repeat'
    first
      | with_reducible assumption
      | with_reducible exact Keeps.rfl' _
      | with_reducible refine ilkSend_keeps ?_
      | with_reducible refine Keeps.foldl _ ?_ (fun _ _ _ => ?_)
      | with_reducible refine Keeps.ite (fun _ => ?_) (fun _ => ?_)
      | (fail_if_no_progress with_reducible refine Keeps.upd (hd := rfl) ?_)

theorem endWaits_keeps {r s a1} (h : Keeps r s) : Keeps r (endWaits s a1) := by
  unfold endWaits
  try dsimp only
  repeat'
    first
      | with_reducible assumption
      | with_reducible exact Keeps.rfl' _
      | with_reducible refine vote_keeps ?_
      | with_reducible refine Keeps.foldl _ ?_ (fun _ _ _ => ?_)
      | with_reducible refine Keeps.ite (fun _ => ?_) (fun _ => ?_)
      | (fail_if_no_progress with_reducible refine Keeps.upd (hd := rfl) ?_)

theorem confirm_keeps {r s a1 a2} (h : Keeps r s) : Keeps r (confirm s a1 a2) := by
  unfold confirm
  try dsimp only
  repeat'
    first
      | with_reducible assumption
      | with_reducible exact Keeps.rfl' _
      | with_reducible refine setSeen_keeps ?_
      | with_reducible refine endWaits_keeps ?_
      | with_reducible refine ilkRequest_keeps ?_

theorem takePropose.takeProposeNew_keeps {r s a1 a2 a3} (h : Keeps r s) : Keeps r (takePropose.takeProposeNew s a1 a2 a3) := by
  unfold takePropose.takeProposeNew
  try dsimp only
  repeat'
    first
      | with_reducible assumption
      | with_reducible exact Keeps.rfl' _
      | with_reducible refine vote_keeps ?_
      | with_reducible refine startProbe_keeps ?_
      | with_reducible refine Keeps.foldl _ ?_ (fun _ _ _ => ?_)
      | with_reducible refine Keeps.ite (fun _ => ?_) (fun _ => ?_)
      | (fail_if_no_progress with_reducible refine Keeps.upd (hd := rfl) ?_)

theorem takePropose_keeps {r s a1 a2 a3} (h : Keeps r s) : Keeps r (takePropose s a1 a2 a3) := by
  unfold takePropose
  try dsimp only
  repeat'
    first
      | with_reducible assumption
      | with_reducible exact Keeps.rfl' _
      | with_reducible refine ilkSend_keeps ?_
      | with_reducible refine vote_keeps ?_
      | with_reducible refine fset_keeps ?_
      | with_reducible refine takePropose.takeProposeNew_keeps ?_
      | with_reducible refine Keeps.foldl _ ?_ (fun _ _ _ => ?_)
      | with_reducible refine Keeps.ite (fun _ => ?_) (fun _ => ?_)
      | (fail_if_no_progress with_reducible refine Keeps.upd (hd := rfl) ?_)
      | split

theorem noteLife_keeps {r s a1 a2 a3} (h : Keeps r s) : Keeps r (noteLife s a1 a2 a3) := by
  unfold noteLife
  try dsimp only
  repeat'
    first
      | with_reducible assumption
      | with_reducible exact Keeps.rfl' _
      | with_reducible refine setSeen_keeps ?_
      | with_reducible refine emitLim_keeps ?_
      | with_reducible refine confirm_keeps ?_
      | with_reducible refine Keeps.foldl _ ?_ (fun _ _ _ => ?_)
      | with_reducible refine Keeps.ite (fun _ => ?_) (fun _ => ?_)

theorem fence_keeps {r s a1} (h : Keeps r s) : Keeps r (fence s a1) := by
  unfold fence
  try dsimp only
  repeat'
    first
      | with_reducible assumption
      | with_reducible exact Keeps.rfl' _
      | with_reducible refine tileAbortAll_keeps ?_
      | with_reducible refine cueAbort_keeps ?_
      | with_reducible refine unbindAll_keeps ?_
      | with_reducible refine shnCancel_keeps ?_
      | with_reducible refine fset_keeps ?_
      | with_reducible refine bookEpoch_keeps ?_
      | with_reducible refine fcount_keeps ?_
      | with_reducible refine ilkEv_keeps ?_
      | with_reducible refine modeTo_keeps ?_
      | with_reducible refine Keeps.foldl _ ?_ (fun _ _ _ => ?_)
      | with_reducible refine Keeps.ite (fun _ => ?_) (fun _ => ?_)
      | (fail_if_no_progress with_reducible refine Keeps.upd (hd := rfl) ?_)
      | split

theorem askAdmission_keeps {r s} (h : Keeps r s) : Keeps r (askAdmission s) := by
  unfold askAdmission
  try dsimp only
  repeat'
    first
      | with_reducible assumption
      | with_reducible exact Keeps.rfl' _
      | with_reducible refine ilkEv_keeps ?_
      | with_reducible refine ilkRequest_keeps ?_

theorem askLimited_keeps {r s} (h : Keeps r s) : Keeps r (askLimited s) := by
  unfold askLimited
  try dsimp only
  repeat'
    first
      | with_reducible assumption
      | with_reducible exact Keeps.rfl' _
      | with_reducible refine ilkEv_keeps ?_
      | with_reducible refine askAdmission_keeps ?_
      | with_reducible refine Keeps.foldl _ ?_ (fun _ _ _ => ?_)
      | with_reducible refine Keeps.ite (fun _ => ?_) (fun _ => ?_)

theorem startFail_keeps {r s a1 a2} (h : Keeps r s) : Keeps r (startFail s a1 a2) := by
  unfold startFail
  try dsimp only
  repeat'
    first
      | with_reducible assumption
      | with_reducible exact Keeps.rfl' _
      | with_reducible refine emit_keeps ?_
      | with_reducible refine fset_keeps ?_

theorem deviceFault_keeps {r s} (h : Keeps r s) : Keeps r (deviceFault s) := by
  unfold deviceFault
  try dsimp only
  repeat'
    first
      | with_reducible assumption
      | with_reducible exact Keeps.rfl' _
      | with_reducible refine fset_keeps ?_
      | with_reducible refine fence_keeps ?_
      | with_reducible refine Keeps.foldl _ ?_ (fun _ _ _ => ?_)
      | with_reducible refine Keeps.ite (fun _ => ?_) (fun _ => ?_)

theorem ptabEntry_keeps {r s a1 a2} (h : Keeps r s) : Keeps r (ptabEntry s a1 a2).1 := by
  unfold ptabEntry
  try dsimp only
  repeat'
    first
      | with_reducible assumption
      | with_reducible exact Keeps.rfl' _
      | with_reducible refine unitRead_keeps ?_
      | with_reducible refine unitRead_keepsP ?_ (by assumption)
      | with_reducible refine Keeps.foldl _ ?_ (fun _ _ _ => ?_)
      | with_reducible refine Keeps.ite (fun _ => ?_) (fun _ => ?_)
      | (fail_if_no_progress with_reducible refine Keeps.upd (hd := rfl) ?_)
      | split

theorem ptabEntry_keepsP {r s a1 a2 t x} (h : Keeps r s) (e : ptabEntry s a1 a2 = (t, x)) : Keeps r t := by
  have := ptabEntry_keeps (a1 := a1) (a2 := a2) h
  rw [e] at this
  exact this

theorem slotExpel_keeps {r s a1 a2} (h : Keeps r s) : Keeps r (slotExpel s a1 a2) := by
  unfold slotExpel
  try dsimp only
  repeat'
    first
      | with_reducible assumption
      | with_reducible exact Keeps.rfl' _
      | with_reducible refine singleLayerEnd_keeps ?_
      | with_reducible refine ptabEntry_keeps ?_
      | with_reducible refine ptabEntry_keepsP ?_ (by assumption)
      | with_reducible refine ilkEv_keeps ?_
      | with_reducible refine Keeps.foldl _ ?_ (fun _ _ _ => ?_)
      | with_reducible refine Keeps.ite (fun _ => ?_) (fun _ => ?_)
      | (fail_if_no_progress with_reducible refine Keeps.upd (hd := rfl) ?_)
      | split

theorem enterService_keeps {r s} (h : Keeps r s) : Keeps r (enterService s) := by
  unfold enterService
  try dsimp only
  repeat'
    first
      | with_reducible assumption
      | with_reducible exact Keeps.rfl' _
      | with_reducible refine modeTo_keeps ?_
      | with_reducible refine serviceReached_keeps ?_
      | with_reducible refine Keeps.foldl _ ?_ (fun _ _ _ => ?_)
      | with_reducible refine Keeps.ite (fun _ => ?_) (fun _ => ?_)

theorem hallDone_keeps {r s} (h : Keeps r s) : Keeps r (hallDone s) := by
  unfold hallDone
  try dsimp only
  repeat'
    first
      | with_reducible assumption
      | with_reducible exact Keeps.rfl' _
      | with_reducible refine enterService_keeps ?_
      | with_reducible refine ilkEv_keeps ?_
      | with_reducible refine fset_keeps ?_
      | with_reducible refine Keeps.foldl _ ?_ (fun _ _ _ => ?_)
      | with_reducible refine Keeps.ite (fun _ => ?_) (fun _ => ?_)

theorem hallCheck_keeps {r s} (h : Keeps r s) : Keeps r (hallCheck s) := by
  unfold hallCheck
  try dsimp only
  repeat'
    first
      | with_reducible assumption
      | with_reducible exact Keeps.rfl' _
      | with_reducible refine enterService_keeps ?_
      | with_reducible refine fset_keeps ?_
      | with_reducible refine hallDone_keeps ?_
      | with_reducible refine Keeps.foldl _ ?_ (fun _ _ _ => ?_)
      | with_reducible refine Keeps.ite (fun _ => ?_) (fun _ => ?_)

theorem fillHall_keeps {r s a1 a2 a3} (h : Keeps r s) : Keeps r (fillHall s a1 a2 a3) := by
  unfold fillHall
  try dsimp only
  repeat'
    first
      | with_reducible assumption
      | with_reducible exact Keeps.rfl' _
      | with_reducible refine stmMembership_keeps ?_
      | with_reducible refine hallCheck_keeps ?_
      | with_reducible refine fset_keeps ?_
      | with_reducible refine Keeps.foldl _ ?_ (fun _ _ _ => ?_)
      | with_reducible refine Keeps.ite (fun _ => ?_) (fun _ => ?_)

theorem writeEpoch_keeps {r s a1 a2 a3} (h : Keeps r s) : Keeps r (writeEpoch s a1 a2 a3) := by
  unfold writeEpoch
  try dsimp only
  repeat'
    first
      | with_reducible assumption
      | with_reducible exact Keeps.rfl' _
      | with_reducible refine fset_keeps ?_
      | with_reducible refine fsetb_keeps ?_
      | with_reducible refine Keeps.foldl _ ?_ (fun _ _ _ => ?_)

theorem installAlone_keeps {r s a1 a2 a3 a4 a5 a6} (h : Keeps r s) : Keeps r (installAlone s a1 a2 a3 a4 a5 a6) := by
  unfold installAlone
  try dsimp only
  repeat'
    first
      | with_reducible assumption
      | with_reducible exact Keeps.rfl' _
      | with_reducible refine dropReq_keeps ?_
      | with_reducible refine writeEpoch_keeps ?_
      | with_reducible refine ilkNext_keeps ?_
      | with_reducible refine ilkSend_keeps ?_
      | with_reducible refine Keeps.foldl _ ?_ (fun _ _ _ => ?_)
      | with_reducible refine Keeps.ite (fun _ => ?_) (fun _ => ?_)
      | (fail_if_no_progress with_reducible refine Keeps.upd (hd := rfl) ?_)

theorem install_keeps {r s a1 a2 a3 a4 a5 a6} (h : Keeps r s) : Keeps r (install s a1 a2 a3 a4 a5 a6) := by
  unfold install
  try dsimp only
  repeat'
    first
      | with_reducible assumption
      | with_reducible exact Keeps.rfl' _
      | with_reducible refine writeEpoch_keeps ?_
      | with_reducible refine fset_keeps ?_
      | with_reducible refine failDest_keeps ?_
      | with_reducible refine discardStreams_keeps ?_
      | with_reducible refine emit_keeps ?_
      | with_reducible refine setSeen_keeps ?_
      | with_reducible refine collEpoch_keeps ?_
      | with_reducible refine slotExpel_keeps ?_
      | with_reducible refine stmMembership_keeps ?_
      | with_reducible refine ilkSend_keeps ?_
      | with_reducible refine ilkEv_keeps ?_
      | with_reducible refine fcount_keeps ?_
      | with_reducible refine dropReq_keeps ?_
      | with_reducible refine modeTo_keeps ?_
      | with_reducible refine ilkNext_keeps ?_
      | with_reducible refine enterService_keeps ?_
      | with_reducible refine hallCheck_keeps ?_
      | with_reducible refine Keeps.foldl _ ?_ (fun _ _ _ => ?_)
      | with_reducible refine Keeps.ite (fun _ => ?_) (fun _ => ?_)
      | (fail_if_no_progress with_reducible refine Keeps.upd (hd := rfl) ?_)

theorem takeEpoch_keeps {r s a1 a2 a3 a4 a5 a6} (h : Keeps r s) : Keeps r (takeEpoch s a1 a2 a3 a4 a5 a6) := by
  unfold takeEpoch
  try dsimp only
  repeat'
    first
      | with_reducible assumption
      | with_reducible exact Keeps.rfl' _
      | with_reducible refine ilkSend_keeps ?_
      | with_reducible refine enterService_keeps ?_
      | with_reducible refine installAlone_keeps ?_
      | with_reducible refine install_keeps ?_
      | with_reducible refine writeEpoch_keeps ?_
      | with_reducible refine askLimited_keeps ?_
      | with_reducible refine fence_keeps ?_
      | with_reducible refine Keeps.foldl _ ?_ (fun _ _ _ => ?_)
      | with_reducible refine Keeps.ite (fun _ => ?_) (fun _ => ?_)
      | (fail_if_no_progress with_reducible refine Keeps.upd (hd := rfl) ?_)
      | split

theorem takeEpochAck_keeps {r s a1 a2} (h : Keeps r s) : Keeps r (takeEpochAck s a1 a2) := by
  unfold takeEpochAck
  try dsimp only
  repeat'
    first
      | with_reducible assumption
      | with_reducible exact Keeps.rfl' _
      | with_reducible refine ilkNext_keeps ?_
      | with_reducible refine deliverTo_keeps ?_
      | with_reducible refine Keeps.foldl _ ?_ (fun _ _ _ => ?_)
      | with_reducible refine Keeps.ite (fun _ => ?_) (fun _ => ?_)
      | (fail_if_no_progress with_reducible refine Keeps.upd (hd := rfl) ?_)
      | split

theorem sendEpoch_keeps {r s a1} (h : Keeps r s) : Keeps r (sendEpoch s a1) := by
  unfold sendEpoch
  try dsimp only
  repeat'
    first
      | with_reducible assumption
      | with_reducible exact Keeps.rfl' _
      | with_reducible refine ilkSend_keeps ?_

theorem takeVerdict_keeps {r s a1 a2} (h : Keeps r s) : Keeps r (takeVerdict s a1 a2) := by
  unfold takeVerdict
  try dsimp only
  repeat'
    first
      | with_reducible assumption
      | with_reducible exact Keeps.rfl' _
      | with_reducible refine dropReq_keeps ?_
      | with_reducible refine dropOwnReq_keeps ?_
      | with_reducible refine fsetb_keeps ?_
      | with_reducible refine fset_keeps ?_
      | with_reducible refine fcount_keeps ?_
      | with_reducible refine ilkEv_keeps ?_
      | with_reducible refine Keeps.foldl _ ?_ (fun _ _ _ => ?_)
      | with_reducible refine Keeps.ite (fun _ => ?_) (fun _ => ?_)

theorem formPropose_keeps {r s} (h : Keeps r s) : Keeps r (formPropose s) := by
  unfold formPropose
  try dsimp only
  repeat'
    first
      | with_reducible assumption
      | with_reducible exact Keeps.rfl' _
      | with_reducible refine propose_keeps ?_
      | with_reducible refine Keeps.foldl _ ?_ (fun _ _ _ => ?_)
      | with_reducible refine Keeps.ite (fun _ => ?_) (fun _ => ?_)

theorem takeHeartbeat_keeps {r s a1 a2 a3} (h : Keeps r s) : Keeps r (takeHeartbeat s a1 a2 a3) := by
  unfold takeHeartbeat
  try dsimp only
  repeat'
    first
      | with_reducible assumption
      | with_reducible exact Keeps.rfl' _
      | with_reducible refine ilkEv_keeps ?_
      | with_reducible refine setSeen_keeps ?_
      | with_reducible refine sendEpoch_keeps ?_
      | with_reducible refine formPropose_keeps ?_
      | with_reducible refine ilkSend_keeps ?_
      | with_reducible refine Keeps.foldl _ ?_ (fun _ _ _ => ?_)
      | with_reducible refine Keeps.ite (fun _ => ?_) (fun _ => ?_)

theorem takeHall_keeps {r s a1} (h : Keeps r s) : Keeps r (takeHall s a1) := by
  unfold takeHall
  try dsimp only
  repeat'
    first
      | with_reducible assumption
      | with_reducible exact Keeps.rfl' _
      | with_reducible refine send_keeps ?_
      | with_reducible refine sendAll_keeps ?_
      | with_reducible refine fillHall_keeps ?_
      | with_reducible refine Keeps.foldl _ ?_ (fun _ _ _ => ?_)
      | with_reducible refine Keeps.ite (fun _ => ?_) (fun _ => ?_)

theorem takeIlk_keeps {r s a1 a2} (h : Keeps r s) : Keeps r (takeIlk s a1 a2) := by
  unfold takeIlk
  try dsimp only
  repeat'
    first
      | with_reducible assumption
      | with_reducible exact Keeps.rfl' _
      | with_reducible refine fset_keeps ?_
      | with_reducible refine noteLife_keeps ?_
      | with_reducible refine takeHeartbeat_keeps ?_
      | with_reducible refine ilkSend_keeps ?_
      | with_reducible refine confirm_keeps ?_
      | with_reducible refine setSeen_keeps ?_
      | with_reducible refine ilkEv_keeps ?_
      | with_reducible refine endWaits_keeps ?_
      | with_reducible refine takeRequestRec_keeps ?_
      | with_reducible refine takePropose_keeps ?_
      | with_reducible refine takeVote_keeps ?_
      | with_reducible refine takeEpoch_keeps ?_
      | with_reducible refine takeEpochAck_keeps ?_
      | with_reducible refine sendEpoch_keeps ?_
      | with_reducible refine takeVerdict_keeps ?_
      | with_reducible refine takeHall_keeps ?_
      | with_reducible refine Keeps.foldl _ ?_ (fun _ _ _ => ?_)
      | with_reducible refine Keeps.ite (fun _ => ?_) (fun _ => ?_)
      | (fail_if_no_progress with_reducible refine Keeps.upd (hd := rfl) ?_)
      | split

theorem takeOwn_keeps {r s} (h : Keeps r s) : Keeps r (takeOwn s) := by
  unfold takeOwn
  try dsimp only
  repeat'
    first
      | with_reducible assumption
      | with_reducible exact Keeps.rfl' _
      | with_reducible refine takeIlk_keeps ?_
      | with_reducible refine Keeps.foldl _ ?_ (fun _ _ _ => ?_)
      | with_reducible refine Keeps.ite (fun _ => ?_) (fun _ => ?_)
      | (fail_if_no_progress with_reducible refine Keeps.upd (hd := rfl) ?_)
      | split

theorem ilkIn_keeps {r s a1 a2} (h : Keeps r s) : Keeps r (ilkIn s a1 a2) := by
  unfold ilkIn
  try dsimp only
  repeat'
    first
      | with_reducible assumption
      | with_reducible exact Keeps.rfl' _
      | with_reducible refine mirror_keeps ?_
      | with_reducible refine takeIlk_keeps ?_
      | with_reducible refine asDown_keeps (fun _ _ => ?_) ?_
      | with_reducible refine Keeps.foldl _ ?_ (fun _ _ _ => ?_)
      | with_reducible refine Keeps.ite (fun _ => ?_) (fun _ => ?_)
      | (fail_if_no_progress with_reducible refine Keeps.upd (hd := rfl) ?_)

theorem heartbeat_keeps {r s} (h : Keeps r s) : Keeps r (heartbeat s) := by
  unfold heartbeat
  try dsimp only
  repeat'
    first
      | with_reducible assumption
      | with_reducible exact Keeps.rfl' _
      | with_reducible refine sendAll_keeps ?_
      | with_reducible refine planeSend_keeps ?_
      | with_reducible refine Keeps.foldl _ ?_ (fun _ _ _ => ?_)
      | with_reducible refine Keeps.ite (fun _ => ?_) (fun _ => ?_)
      | (fail_if_no_progress with_reducible refine Keeps.upd (hd := rfl) ?_)

theorem suspect_keeps {r s a1} (h : Keeps r s) : Keeps r (suspect s a1) := by
  unfold suspect
  try dsimp only
  repeat'
    first
      | with_reducible assumption
      | with_reducible exact Keeps.rfl' _
      | with_reducible refine startProbe_keeps ?_
      | with_reducible refine ilkEv_keeps ?_
      | with_reducible refine fset_keeps ?_
      | with_reducible refine Keeps.foldl _ ?_ (fun _ _ _ => ?_)
      | with_reducible refine Keeps.ite (fun _ => ?_) (fun _ => ?_)

theorem probeAgain_keeps {r s a1} (h : Keeps r s) : Keeps r (probeAgain s a1) := by
  unfold probeAgain
  try dsimp only
  repeat'
    first
      | with_reducible assumption
      | with_reducible exact Keeps.rfl' _
      | with_reducible refine ilkSend_keeps ?_
      | with_reducible refine Keeps.foldl _ ?_ (fun _ _ _ => ?_)
      | with_reducible refine Keeps.ite (fun _ => ?_) (fun _ => ?_)
      | (fail_if_no_progress with_reducible refine Keeps.upd (hd := rfl) ?_)
      | split

theorem probeLate_keeps {r s a1} (h : Keeps r s) : Keeps r (probeLate s a1) := by
  unfold probeLate
  try dsimp only
  repeat'
    first
      | with_reducible assumption
      | with_reducible exact Keeps.rfl' _
      | with_reducible refine confirm_keeps ?_
      | with_reducible refine Keeps.foldl _ ?_ (fun _ _ _ => ?_)
      | with_reducible refine Keeps.ite (fun _ => ?_) (fun _ => ?_)

theorem handover_keeps {r s a1 a2} (h : Keeps r s) : Keeps r (handover s a1 a2) := by
  unfold handover
  try dsimp only
  repeat'
    first
      | with_reducible assumption
      | with_reducible exact Keeps.rfl' _
      | with_reducible refine ilkNext_keeps ?_
      | with_reducible refine ilkEv_keeps ?_
      | with_reducible refine Keeps.foldl _ ?_ (fun _ _ _ => ?_)
      | with_reducible refine Keeps.ite (fun _ => ?_) (fun _ => ?_)
      | (fail_if_no_progress with_reducible refine Keeps.upd (hd := rfl) ?_)
      | split

theorem voteLate_keeps {r s} (h : Keeps r s) : Keeps r (voteLate s) := by
  unfold voteLate
  try dsimp only
  repeat'
    first
      | with_reducible assumption
      | with_reducible exact Keeps.rfl' _
      | with_reducible refine propFailed_keeps ?_
      | with_reducible refine Keeps.foldl _ ?_ (fun _ _ _ => ?_)
      | with_reducible refine Keeps.ite (fun _ => ?_) (fun _ => ?_)
      | (fail_if_no_progress with_reducible refine Keeps.upd (hd := rfl) ?_)
      | split

theorem requestAgain_keeps {r s a1} (h : Keeps r s) : Keeps r (requestAgain s a1) := by
  unfold requestAgain
  try dsimp only
  repeat'
    first
      | with_reducible assumption
      | with_reducible exact Keeps.rfl' _
      | with_reducible refine ilkRequest_keeps ?_
      | with_reducible refine Keeps.foldl _ ?_ (fun _ _ _ => ?_)
      | with_reducible refine Keeps.ite (fun _ => ?_) (fun _ => ?_)
      | (fail_if_no_progress with_reducible refine Keeps.upd (hd := rfl) ?_)
      | split

theorem epochAgain_keeps {r s} (h : Keeps r s) : Keeps r (epochAgain s) := by
  unfold epochAgain
  try dsimp only
  repeat'
    first
      | with_reducible assumption
      | with_reducible exact Keeps.rfl' _
      | with_reducible refine deliverTo_keeps ?_
      | with_reducible refine Keeps.foldl _ ?_ (fun _ _ _ => ?_)
      | with_reducible refine Keeps.ite (fun _ => ?_) (fun _ => ?_)
      | (fail_if_no_progress with_reducible refine Keeps.upd (hd := rfl) ?_)
      | split

theorem epochLate_keeps {r s} (h : Keeps r s) : Keeps r (epochLate s) := by
  unfold epochLate
  try dsimp only
  repeat'
    first
      | with_reducible assumption
      | with_reducible exact Keeps.rfl' _
      | with_reducible refine ilkNext_keeps ?_
      | with_reducible refine deliverTo_keeps ?_
      | with_reducible refine Keeps.foldl _ ?_ (fun _ _ _ => ?_)
      | with_reducible refine Keeps.ite (fun _ => ?_) (fun _ => ?_)
      | (fail_if_no_progress with_reducible refine Keeps.upd (hd := rfl) ?_)
      | split

theorem epochBook_keeps {r s} (h : Keeps r s) : Keeps r (epochBook s) := by
  unfold epochBook
  try dsimp only
  repeat'
    first
      | with_reducible assumption
      | with_reducible exact Keeps.rfl' _
      | with_reducible refine bookEpoch_keeps ?_
      | with_reducible refine Keeps.foldl _ ?_ (fun _ _ _ => ?_)
      | with_reducible refine Keeps.ite (fun _ => ?_) (fun _ => ?_)
      | (fail_if_no_progress with_reducible refine Keeps.upd (hd := rfl) ?_)

theorem portchecks_keeps {r s} (h : Keeps r s) : Keeps r (portchecks s) := by
  unfold portchecks
  try dsimp only
  repeat'
    first
      | with_reducible assumption
      | with_reducible exact Keeps.rfl' _
      | with_reducible refine sendOn_keeps ?_
      | with_reducible refine unitView_keeps ?_
      | with_reducible refine Keeps.foldl _ ?_ (fun _ _ _ => ?_)
      | with_reducible refine Keeps.ite (fun _ => ?_) (fun _ => ?_)

theorem takePortcheck_keeps {r s a1 a2} (h : Keeps r s) : Keeps r (takePortcheck s a1 a2) := by
  unfold takePortcheck
  try dsimp only
  repeat'
    first
      | with_reducible assumption
      | with_reducible exact Keeps.rfl' _
      | with_reducible refine fset_keeps ?_
      | with_reducible refine oset_keeps ?_
      | with_reducible refine Keeps.foldl _ ?_ (fun _ _ _ => ?_)
      | with_reducible refine Keeps.ite (fun _ => ?_) (fun _ => ?_)
      | (fail_if_no_progress with_reducible refine Keeps.upd (hd := rfl) ?_)

theorem portcheckLate_keeps {r s a1} (h : Keeps r s) : Keeps r (portcheckLate s a1) := by
  unfold portcheckLate
  try dsimp only
  repeat'
    first
      | with_reducible assumption
      | with_reducible exact Keeps.rfl' _
      | with_reducible refine oset_keeps ?_
      | with_reducible refine ilkEv_keeps ?_
      | with_reducible refine Keeps.foldl _ ?_ (fun _ _ _ => ?_)
      | with_reducible refine Keeps.ite (fun _ => ?_) (fun _ => ?_)

theorem fetchAll_keeps {r s} (h : Keeps r s) : Keeps r (fetchAll s) := by
  unfold fetchAll
  try dsimp only
  repeat'
    first
      | with_reducible assumption
      | with_reducible exact Keeps.rfl' _
      | with_reducible refine sendAll_keeps ?_
      | with_reducible refine Keeps.foldl _ ?_ (fun _ _ _ => ?_)
      | with_reducible refine Keeps.ite (fun _ => ?_) (fun _ => ?_)
      | (fail_if_no_progress with_reducible refine Keeps.upd (hd := rfl) ?_)

theorem selfCheckDone_keeps {r s a1} (h : Keeps r s) : Keeps r (selfCheckDone s a1) := by
  unfold selfCheckDone
  try dsimp only
  repeat'
    first
      | with_reducible assumption
      | with_reducible exact Keeps.rfl' _
      | with_reducible refine askLimited_keeps ?_
      | with_reducible refine Keeps.foldl _ ?_ (fun _ _ _ => ?_)
      | with_reducible refine Keeps.ite (fun _ => ?_) (fun _ => ?_)
      | (fail_if_no_progress with_reducible refine Keeps.upd (hd := rfl) ?_)

theorem ilkRefused_keeps {r s} (h : Keeps r s) : Keeps r (ilkRefused s) := by
  unfold ilkRefused
  try dsimp only
  repeat'
    first
      | with_reducible assumption
      | with_reducible exact Keeps.rfl' _
      | with_reducible refine emitLim_keeps ?_

theorem ilkCtl_keeps {r s a1 a2 a3} (h : Keeps r s) : Keeps r (ilkCtl s a1 a2 a3) := by
  unfold ilkCtl
  try dsimp only
  repeat'
    first
      | with_reducible assumption
      | with_reducible exact Keeps.rfl' _
      | with_reducible refine ilkRefused_keeps ?_
      | with_reducible refine fset_keeps ?_
      | with_reducible refine ilkRequest_keeps ?_
      | with_reducible refine askAdmission_keeps ?_
      | with_reducible refine Keeps.foldl _ ?_ (fun _ _ _ => ?_)
      | with_reducible refine Keeps.ite (fun _ => ?_) (fun _ => ?_)

theorem copyDone_keeps {r s a1 a2} (h : Keeps r s) : Keeps r (copyDone s a1 a2) := by
  unfold copyDone
  try dsimp only
  repeat'
    first
      | with_reducible assumption
      | with_reducible exact Keeps.rfl' _
      | with_reducible refine ilkEv_keeps ?_
      | with_reducible refine Keeps.foldl _ ?_ (fun _ _ _ => ?_)
      | with_reducible refine Keeps.ite (fun _ => ?_) (fun _ => ?_)
      | (fail_if_no_progress with_reducible refine Keeps.upd (hd := rfl) ?_)

theorem drainRun_keeps {r s} (h : Keeps r s) : Keeps r (drainRun s) := by
  unfold drainRun
  try dsimp only
  repeat'
    first
      | with_reducible assumption
      | with_reducible exact Keeps.rfl' _
      | with_reducible refine ilkRequest_keeps ?_
      | with_reducible refine drainFinish_keeps ?_
      | with_reducible refine Keeps.foldl _ ?_ (fun _ _ _ => ?_)
      | with_reducible refine Keeps.ite (fun _ => ?_) (fun _ => ?_)
      | (fail_if_no_progress with_reducible refine Keeps.upd (hd := rfl) ?_)
      | split

theorem setGrp_keeps {r s a1 a2 a3} (h : Keeps r s) : Keeps r (setGrp s a1 a2 a3) := by
  unfold setGrp
  try dsimp only
  repeat'
    first
      | with_reducible assumption
      | with_reducible exact Keeps.rfl' _
      | with_reducible refine Keeps.foldl _ ?_ (fun _ _ _ => ?_)
      | with_reducible refine Keeps.ite (fun _ => ?_) (fun _ => ?_)
      | (fail_if_no_progress with_reducible refine Keeps.upd (hd := rfl) ?_)

theorem setBtx_keeps {r s a1 a2} (h : Keeps r s) : Keeps r (setBtx s a1 a2) := by
  unfold setBtx
  try dsimp only
  repeat'
    first
      | with_reducible assumption
      | with_reducible exact Keeps.rfl' _
      | with_reducible refine Keeps.foldl _ ?_ (fun _ _ _ => ?_)
      | with_reducible refine Keeps.ite (fun _ => ?_) (fun _ => ?_)
      | (fail_if_no_progress with_reducible refine Keeps.upd (hd := rfl) ?_)

theorem setBrx_keeps {r s a1 a2} (h : Keeps r s) : Keeps r (setBrx s a1 a2) := by
  unfold setBrx
  try dsimp only
  repeat'
    first
      | with_reducible assumption
      | with_reducible exact Keeps.rfl' _
      | with_reducible refine Keeps.foldl _ ?_ (fun _ _ _ => ?_)
      | with_reducible refine Keeps.ite (fun _ => ?_) (fun _ => ?_)
      | (fail_if_no_progress with_reducible refine Keeps.upd (hd := rfl) ?_)

theorem setBrec_keeps {r s a1 a2} (h : Keeps r s) : Keeps r (setBrec s a1 a2) := by
  unfold setBrec
  try dsimp only
  repeat'
    first
      | with_reducible assumption
      | with_reducible exact Keeps.rfl' _
      | with_reducible refine Keeps.foldl _ ?_ (fun _ _ _ => ?_)
      | with_reducible refine Keeps.ite (fun _ => ?_) (fun _ => ?_)
      | (fail_if_no_progress with_reducible refine Keeps.upd (hd := rfl) ?_)

theorem brgEv_keeps {r s a1 a2 a3} (h : Keeps r s) : Keeps r (brgEv s a1 a2 a3) := by
  unfold brgEv
  try dsimp only
  repeat'
    first
      | with_reducible assumption
      | with_reducible exact Keeps.rfl' _
      | with_reducible refine emit_keeps ?_

theorem bookGroup_keeps {r s a1 a2} (h : Keeps r s) : Keeps r (bookGroup s a1 a2) := by
  unfold bookGroup
  try dsimp only
  repeat'
    first
      | with_reducible assumption
      | with_reducible exact Keeps.rfl' _
      | with_reducible refine bookA_keeps ?_

theorem brgPumpN_keeps {r p n} : ∀ {s}, Keeps r s → Keeps r (brgPumpN p n s) := by
  induction n with
  | zero => exact id
  | succ n ih =>
    intro s h
    unfold brgPumpN
    refine Keeps.ite (fun _ => h) (fun _ => ?_)
    dsimp only
    split
    · exact h
    · exact ih (send_keeps (setBtx_keeps h))

theorem brgPump_keeps {r s a1} (h : Keeps r s) : Keeps r (brgPump s a1) := by
  unfold brgPump
  try dsimp only
  repeat'
    first
      | with_reducible assumption
      | with_reducible exact Keeps.rfl' _
      | with_reducible refine brgPumpN_keeps ?_

theorem brgSend_keeps {r s a1 a2 a3} (h : Keeps r s) : Keeps r (brgSend s a1 a2 a3) := by
  unfold brgSend
  try dsimp only
  repeat'
    first
      | with_reducible assumption
      | with_reducible exact Keeps.rfl' _
      | with_reducible refine brgPump_keeps ?_
      | with_reducible refine setBtx_keeps ?_

theorem brgFrame_keeps {r s a1} (h : Keeps r s) : Keeps r (brgFrame s a1) := by
  unfold brgFrame
  try dsimp only
  repeat'
    first
      | with_reducible assumption
      | with_reducible exact Keeps.rfl' _
      | with_reducible refine send_keeps ?_
      | with_reducible refine setBtx_keeps ?_
      | with_reducible refine Keeps.foldl _ ?_ (fun _ _ _ => ?_)
      | with_reducible refine Keeps.ite (fun _ => ?_) (fun _ => ?_)

theorem brgShow_keeps {r s a1} (h : Keeps r s) : Keeps r (brgShow s a1) := by
  unfold brgShow
  try dsimp only
  repeat'
    first
      | with_reducible assumption
      | with_reducible exact Keeps.rfl' _
      | with_reducible refine brgFrame_keeps ?_
      | with_reducible refine brgPump_keeps ?_

theorem brgHold_keeps {r s} (h : Keeps r s) : Keeps r (brgHold s) := by
  unfold brgHold
  try dsimp only
  repeat'
    first
      | with_reducible assumption
      | with_reducible exact Keeps.rfl' _
      | with_reducible refine fset_keeps ?_

theorem brgStart_keeps {r s a1} (h : Keeps r s) : Keeps r (brgStart s a1) := by
  unfold brgStart
  try dsimp only
  repeat'
    first
      | with_reducible assumption
      | with_reducible exact Keeps.rfl' _
      | with_reducible refine fset_keeps ?_
      | with_reducible refine brgHold_keeps ?_
      | with_reducible refine fcount_keeps ?_
      | with_reducible refine send_keeps ?_
      | with_reducible refine Keeps.foldl _ ?_ (fun _ _ _ => ?_)
      | with_reducible refine Keeps.ite (fun _ => ?_) (fun _ => ?_)
      | (fail_if_no_progress with_reducible refine Keeps.upd (hd := rfl) ?_)

theorem brgRetrain_keeps {r s a1} (h : Keeps r s) : Keeps r (brgRetrain s a1) := by
  unfold brgRetrain
  try dsimp only
  repeat'
    first
      | with_reducible assumption
      | with_reducible exact Keeps.rfl' _
      | with_reducible refine brgStart_keeps ?_
      | with_reducible refine Keeps.foldl _ ?_ (fun _ _ _ => ?_)
      | with_reducible refine Keeps.ite (fun _ => ?_) (fun _ => ?_)

theorem brgFail_keeps {r s} (h : Keeps r s) : Keeps r (brgFail s) := by
  unfold brgFail
  try dsimp only
  repeat'
    first
      | with_reducible assumption
      | with_reducible exact Keeps.rfl' _
      | with_reducible refine brgEv_keeps ?_
      | with_reducible refine splitUnits_keeps ?_
      | with_reducible refine startFail_keeps ?_
      | with_reducible refine deviceFault_keeps ?_
      | with_reducible refine fset_keeps ?_
      | with_reducible refine Keeps.foldl _ ?_ (fun _ _ _ => ?_)
      | with_reducible refine Keeps.ite (fun _ => ?_) (fun _ => ?_)
      | (fail_if_no_progress with_reducible refine Keeps.upd (hd := rfl) ?_)

theorem trainStart_keeps {r s a1} (h : Keeps r s) : Keeps r (trainStart s a1) := by
  unfold trainStart
  try dsimp only
  repeat'
    first
      | with_reducible assumption
      | with_reducible exact Keeps.rfl' _
      | with_reducible refine Keeps.foldl _ ?_ (fun _ _ _ => ?_)
      | with_reducible refine Keeps.ite (fun _ => ?_) (fun _ => ?_)
      | (fail_if_no_progress with_reducible refine Keeps.upd (hd := rfl) ?_)
      | split

theorem prbsDone_keeps {r s a1 a2} (h : Keeps r s) : Keeps r (prbsDone s a1 a2) := by
  unfold prbsDone
  try dsimp only
  repeat'
    first
      | with_reducible assumption
      | with_reducible exact Keeps.rfl' _
      | with_reducible refine setGrp_keeps ?_
      | with_reducible refine bookGroup_keeps ?_
      | with_reducible refine send_keeps ?_
      | with_reducible refine Keeps.foldl _ ?_ (fun _ _ _ => ?_)
      | with_reducible refine Keeps.ite (fun _ => ?_) (fun _ => ?_)
      | (fail_if_no_progress with_reducible refine Keeps.upd (hd := rfl) ?_)
      | split

theorem trainMap_keeps {r s a1} (h : Keeps r s) : Keeps r (trainMap s a1) := by
  unfold trainMap
  try dsimp only
  repeat'
    first
      | with_reducible assumption
      | with_reducible exact Keeps.rfl' _
      | with_reducible refine brgFail_keeps ?_
      | with_reducible refine send_keeps ?_
      | with_reducible refine Keeps.foldl _ ?_ (fun _ _ _ => ?_)
      | with_reducible refine Keeps.ite (fun _ => ?_) (fun _ => ?_)
      | (fail_if_no_progress with_reducible refine Keeps.upd (hd := rfl) ?_)
      | split

theorem brgResume_keeps {r s a1 a2} (h : Keeps r s) : Keeps r (brgResume s a1 a2) := by
  unfold brgResume
  try dsimp only
  repeat'
    first
      | with_reducible assumption
      | with_reducible exact Keeps.rfl' _
      | with_reducible refine brgFrame_keeps ?_
      | with_reducible refine setBtx_keeps ?_
      | with_reducible refine send_keeps ?_
      | with_reducible refine Keeps.foldl _ ?_ (fun _ _ _ => ?_)
      | with_reducible refine Keeps.ite (fun _ => ?_) (fun _ => ?_)

theorem trainAgree_keeps {r s a1} (h : Keeps r s) : Keeps r (trainAgree s a1) := by
  unfold trainAgree
  try dsimp only
  repeat'
    first
      | with_reducible assumption
      | with_reducible exact Keeps.rfl' _
      | with_reducible refine setBrec_keeps ?_
      | with_reducible refine send_keeps ?_
      | with_reducible refine Keeps.foldl _ ?_ (fun _ _ _ => ?_)
      | with_reducible refine Keeps.ite (fun _ => ?_) (fun _ => ?_)

theorem trainRefuse_keeps {r s a1} (h : Keeps r s) : Keeps r (trainRefuse s a1) := by
  unfold trainRefuse
  try dsimp only
  repeat'
    first
      | with_reducible assumption
      | with_reducible exact Keeps.rfl' _
      | with_reducible refine brgEv_keeps ?_
      | with_reducible refine send_keeps ?_
      | with_reducible refine brgFail_keeps ?_
      | with_reducible refine brgStart_keeps ?_
      | with_reducible refine Keeps.foldl _ ?_ (fun _ _ _ => ?_)
      | with_reducible refine Keeps.ite (fun _ => ?_) (fun _ => ?_)
      | (fail_if_no_progress with_reducible refine Keeps.upd (hd := rfl) ?_)
      | split

theorem trainEcho_keeps {r s a1} (h : Keeps r s) : Keeps r (trainEcho s a1) := by
  unfold trainEcho
  try dsimp only
  repeat'
    first
      | with_reducible assumption
      | with_reducible exact Keeps.rfl' _
      | with_reducible refine trainRefuse_keeps ?_
      | with_reducible refine setBrec_keeps ?_
      | with_reducible refine setGrp_keeps ?_
      | with_reducible refine fset_keeps ?_
      | with_reducible refine brgEv_keeps ?_
      | with_reducible refine setBrx_keeps ?_
      | with_reducible refine brgResume_keeps ?_
      | with_reducible refine brgPump_keeps ?_
      | with_reducible refine Keeps.foldl _ ?_ (fun _ _ _ => ?_)
      | with_reducible refine Keeps.ite (fun _ => ?_) (fun _ => ?_)
      | (fail_if_no_progress with_reducible refine Keeps.upd (hd := rfl) ?_)
      | split

theorem brgCorr_keeps {r s a1 a2 a3} (h : Keeps r s) : Keeps r (brgCorr s a1 a2 a3) := by
  unfold brgCorr
  try dsimp only
  repeat'
    first
      | with_reducible assumption
      | with_reducible exact Keeps.rfl' _
      | with_reducible refine setGrp_keeps ?_
      | with_reducible refine bookGroup_keeps ?_
      | with_reducible refine brgEv_keeps ?_
      | with_reducible refine brgRetrain_keeps ?_
      | with_reducible refine Keeps.foldl _ ?_ (fun _ _ _ => ?_)
      | with_reducible refine Keeps.ite (fun _ => ?_) (fun _ => ?_)
      | (fail_if_no_progress with_reducible refine Keeps.upd (hd := rfl) ?_)
      | split

theorem brgRead_keeps {r s a1 a2 a3 a4 a5} (h : Keeps r s) : Keeps r (brgRead s a1 a2 a3 a4 a5).1 := by
  unfold brgRead
  try dsimp only
  repeat'
    first
      | with_reducible assumption
      | with_reducible exact Keeps.rfl' _
      | with_reducible refine setGrp_keeps ?_
      | with_reducible refine brgCorr_keeps ?_
      | with_reducible refine Keeps.foldl _ ?_ (fun _ _ _ => ?_)
      | with_reducible refine Keeps.ite (fun _ => ?_) (fun _ => ?_)
      | (fail_if_no_progress with_reducible refine Keeps.upd (hd := rfl) ?_)
      | split

theorem brgRead_keepsP {r s a1 a2 a3 a4 a5 t x} (h : Keeps r s) (e : brgRead s a1 a2 a3 a4 a5 = (t, x)) : Keeps r t := by
  have := brgRead_keeps (a1 := a1) (a2 := a2) (a3 := a3) (a4 := a4) (a5 := a5) h
  rw [e] at this
  exact this

theorem brgPooled_keeps {r s a1 a2 a3} (h : Keeps r s) : Keeps r (brgPooled s a1 a2 a3).1 := by
  unfold brgPooled
  try dsimp only
  repeat'
    first
      | with_reducible assumption
      | with_reducible exact Keeps.rfl' _
      | with_reducible refine setBtx_keeps ?_
      | with_reducible refine Keeps.foldl _ ?_ (fun _ _ _ => ?_)
      | with_reducible refine Keeps.ite (fun _ => ?_) (fun _ => ?_)
      | (fail_if_no_progress with_reducible refine Keeps.upd (hd := rfl) ?_)
      | split

theorem brgPooled_keepsP {r s a1 a2 a3 t x} (h : Keeps r s) (e : brgPooled s a1 a2 a3 = (t, x)) : Keeps r t := by
  have := brgPooled_keeps (a1 := a1) (a2 := a2) (a3 := a3) h
  rw [e] at this
  exact this

theorem brgFree_keeps {r s a1 a2 a3} (h : Keeps r s) : Keeps r (brgFree s a1 a2 a3) := by
  unfold brgFree
  try dsimp only
  repeat'
    first
      | with_reducible assumption
      | with_reducible exact Keeps.rfl' _
      | with_reducible refine setBrx_keeps ?_

theorem brgDrop_keeps {r s a1} (h : Keeps r s) : Keeps r (brgDrop s a1) := by
  unfold brgDrop
  try dsimp only
  repeat'
    first
      | with_reducible assumption
      | with_reducible exact Keeps.rfl' _
      | with_reducible refine emitLim_keeps ?_
      | with_reducible refine fcount_keeps ?_

theorem brgTake_keeps {r s a1 a2 a3} (h : Keeps r s) : Keeps r (brgTake s a1 a2 a3) := by
  unfold brgTake
  try dsimp only
  repeat'
    first
      | with_reducible assumption
      | with_reducible exact Keeps.rfl' _
      | with_reducible refine fset_keeps ?_
      | with_reducible refine setBrx_keeps ?_
      | with_reducible refine fcount_keeps ?_
      | with_reducible refine brgFree_keeps ?_
      | with_reducible refine brgPooled_keeps ?_
      | with_reducible refine brgPooled_keepsP ?_ (by assumption)
      | with_reducible refine brgDrop_keeps ?_
      | with_reducible refine Keeps.foldl _ ?_ (fun _ _ _ => ?_)
      | with_reducible refine Keeps.ite (fun _ => ?_) (fun _ => ?_)
      | (fail_if_no_progress with_reducible refine Keeps.upd (hd := rfl) ?_)
      | split

theorem brgFlits_keeps {r p} {l} : ∀ {m s}, Keeps r s → Keeps r (brgFlits p l m s) := by
  induction l with
  | nil => intro m s h; exact h
  | cons f l ih =>
    intro m s h
    unfold brgFlits
    split
    · exact h
    · refine Keeps.ite (fun _ => Keeps.ite (fun _ => ih h) (fun _ => h)) (fun _ => ?_)
      split
      · rename_i e
        exact send_keeps (setBrx_keeps (brgRead_keepsP h e))
      · rename_i e
        exact ih (brgTake_keeps (setBrx_keeps (brgRead_keepsP h e)))

theorem brgReplay_keeps {r s a1 a2} (h : Keeps r s) : Keeps r (brgReplay s a1 a2) := by
  unfold brgReplay
  try dsimp only
  repeat'
    first
      | with_reducible assumption
      | with_reducible exact Keeps.rfl' _
      | with_reducible refine fcount_keeps ?_
      | with_reducible refine setBtx_keeps ?_
      | with_reducible refine brgRetrain_keeps ?_
      | with_reducible refine send_keeps ?_
      | with_reducible refine Keeps.foldl _ ?_ (fun _ _ _ => ?_)
      | with_reducible refine Keeps.ite (fun _ => ?_) (fun _ => ?_)

theorem brgControlIn_keeps {r s a1 a2} (h : Keeps r s) : Keeps r (brgControlIn s a1 a2) := by
  unfold brgControlIn
  try dsimp only
  repeat'
    first
      | with_reducible assumption
      | with_reducible exact Keeps.rfl' _
      | with_reducible refine setBtx_keeps ?_
      | with_reducible refine setBrx_keeps ?_
      | with_reducible refine brgReplay_keeps ?_
      | with_reducible refine brgPump_keeps ?_
      | with_reducible refine Keeps.foldl _ ?_ (fun _ _ _ => ?_)
      | with_reducible refine Keeps.ite (fun _ => ?_) (fun _ => ?_)

theorem brgTimeout_keeps {r s a1} (h : Keeps r s) : Keeps r (brgTimeout s a1) := by
  unfold brgTimeout
  try dsimp only
  repeat'
    first
      | with_reducible assumption
      | with_reducible exact Keeps.rfl' _
      | with_reducible refine brgReplay_keeps ?_
      | with_reducible refine Keeps.foldl _ ?_ (fun _ _ _ => ?_)
      | with_reducible refine Keeps.ite (fun _ => ?_) (fun _ => ?_)
      | (fail_if_no_progress with_reducible refine Keeps.upd (hd := rfl) ?_)
      | split

theorem appRestart_keeps {r s a1} (h : Keeps r s) : Keeps r (appRestart s a1) := by
  unfold appRestart
  try dsimp only
  repeat'
    first
      | with_reducible assumption
      | with_reducible exact Keeps.rfl' _
      | with_reducible refine Keeps.foldl _ ?_ (fun _ _ _ => ?_)
      | with_reducible refine Keeps.ite (fun _ => ?_) (fun _ => ?_)
      | (fail_if_no_progress with_reducible refine Keeps.upd (hd := rfl) ?_)

theorem presetBegin_keeps {r s a1 a2} (h : Keeps r s) : Keeps r (presetBegin s a1 a2) := by
  unfold presetBegin
  try dsimp only
  repeat'
    first
      | with_reducible assumption
      | with_reducible exact Keeps.rfl' _
      | with_reducible refine fset_keeps ?_
      | with_reducible refine brgEv_keeps ?_
      | with_reducible refine shnCancel_keeps ?_
      | with_reducible refine tileAbortAll_keeps ?_
      | with_reducible refine appRestart_keeps ?_
      | with_reducible refine setBrec_keeps ?_
      | with_reducible refine brgStart_keeps ?_
      | with_reducible refine Keeps.foldl _ ?_ (fun _ _ _ => ?_)
      | with_reducible refine Keeps.ite (fun _ => ?_) (fun _ => ?_)
      | (fail_if_no_progress with_reducible refine Keeps.upd (hd := rfl) ?_)

theorem presetRequest_keeps {r s a1 a2} (h : Keeps r s) : Keeps r (presetRequest s a1 a2) := by
  unfold presetRequest
  try dsimp only
  repeat'
    first
      | with_reducible assumption
      | with_reducible exact Keeps.rfl' _
      | with_reducible refine deviceFault_keeps ?_
      | with_reducible refine ilkEv_keeps ?_
      | with_reducible refine presetBegin_keeps ?_
      | with_reducible refine Keeps.foldl _ ?_ (fun _ _ _ => ?_)
      | with_reducible refine Keeps.ite (fun _ => ?_) (fun _ => ?_)
      | (fail_if_no_progress with_reducible refine Keeps.upd (hd := rfl) ?_)

theorem presetReturn_keeps {r s a1} (h : Keeps r s) : Keeps r (presetReturn s a1) := by
  unfold presetReturn
  try dsimp only
  repeat'
    first
      | with_reducible assumption
      | with_reducible exact Keeps.rfl' _
      | with_reducible refine brgEv_keeps ?_
      | with_reducible refine fset_keeps ?_
      | with_reducible refine releaseHold_keeps ?_
      | with_reducible refine presetRequest_keeps ?_
      | with_reducible refine Keeps.foldl _ ?_ (fun _ _ _ => ?_)
      | with_reducible refine Keeps.ite (fun _ => ?_) (fun _ => ?_)
      | (fail_if_no_progress with_reducible refine Keeps.upd (hd := rfl) ?_)
      | split

theorem presetLate_keeps {r s a1} (h : Keeps r s) : Keeps r (presetLate s a1) := by
  unfold presetLate
  try dsimp only
  repeat'
    first
      | with_reducible assumption
      | with_reducible exact Keeps.rfl' _
      | with_reducible refine deviceFault_keeps ?_
      | with_reducible refine brgEv_keeps ?_
      | with_reducible refine linkLost_keeps ?_
      | with_reducible refine Keeps.foldl _ ?_ (fun _ _ _ => ?_)
      | with_reducible refine Keeps.ite (fun _ => ?_) (fun _ => ?_)

theorem changeEnd_keeps {r s} (h : Keeps r s) : Keeps r (changeEnd s) := by
  unfold changeEnd
  try dsimp only
  repeat'
    first
      | with_reducible assumption
      | with_reducible exact Keeps.rfl' _
      | with_reducible refine fset_keeps ?_
      | with_reducible refine presetRequest_keeps ?_
      | with_reducible refine Keeps.foldl _ ?_ (fun _ _ _ => ?_)
      | with_reducible refine Keeps.ite (fun _ => ?_) (fun _ => ?_)
      | (fail_if_no_progress with_reducible refine Keeps.upd (hd := rfl) ?_)

theorem alarmBeat_keeps {r s a1} (h : Keeps r s) : Keeps r (alarmBeat s a1) := by
  unfold alarmBeat
  try dsimp only
  repeat'
    first
      | with_reducible assumption
      | with_reducible exact Keeps.rfl' _
      | with_reducible refine planeSend_keeps ?_
      | with_reducible refine Keeps.foldl _ ?_ (fun _ _ _ => ?_)
      | with_reducible refine Keeps.ite (fun _ => ?_) (fun _ => ?_)
      | (fail_if_no_progress with_reducible refine Keeps.upd (hd := rfl) ?_)

theorem brgStop_keeps {r s} (h : Keeps r s) : Keeps r (brgStop s) := by
  unfold brgStop
  try dsimp only
  repeat'
    first
      | with_reducible assumption
      | with_reducible exact Keeps.rfl' _
      | with_reducible refine fset_keeps ?_
      | with_reducible refine brgHold_keeps ?_
      | with_reducible refine Keeps.foldl _ ?_ (fun _ _ _ => ?_)
      | with_reducible refine Keeps.ite (fun _ => ?_) (fun _ => ?_)
      | (fail_if_no_progress with_reducible refine Keeps.upd (hd := rfl) ?_)

theorem clockLoss_keeps {r s} (h : Keeps r s) : Keeps r (clockLoss s) := by
  unfold clockLoss
  try dsimp only
  repeat'
    first
      | with_reducible assumption
      | with_reducible exact Keeps.rfl' _
      | with_reducible refine fset_keeps ?_
      | with_reducible refine asDown_keeps (fun _ _ => ?_) ?_
      | with_reducible refine splitUnits_keeps ?_
      | with_reducible refine brgStop_keeps ?_
      | with_reducible refine alarmBeat_keeps ?_
      | with_reducible refine announcing_keeps (fun _ _ => ?_) ?_
      | with_reducible refine serialiserStop_keeps ?_
      | with_reducible refine deviceFault_keeps ?_
      | with_reducible refine brgEv_keeps ?_
      | with_reducible refine Keeps.foldl _ ?_ (fun _ _ _ => ?_)
      | with_reducible refine Keeps.ite (fun _ => ?_) (fun _ => ?_)
      | (fail_if_no_progress with_reducible refine Keeps.upd (hd := rfl) ?_)

theorem crystalLoss_keeps {r s} (h : Keeps r s) : Keeps r (crystalLoss s) := by
  unfold crystalLoss
  try dsimp only
  repeat'
    first
      | with_reducible assumption
      | with_reducible exact Keeps.rfl' _
      | with_reducible refine fset_keeps ?_
      | with_reducible refine bothUnits_keeps (fun _ _ => ?_) ?_
      | with_reducible refine splitUnits_keeps ?_
      | with_reducible refine brgStop_keeps ?_
      | with_reducible refine alarmBeat_keeps ?_
      | with_reducible refine announcing_keeps (fun _ _ => ?_) ?_
      | with_reducible refine serialiserStop_keeps ?_
      | with_reducible refine deviceFault_keeps ?_
      | with_reducible refine brgEv_keeps ?_
      | with_reducible refine Keeps.foldl _ ?_ (fun _ _ _ => ?_)
      | with_reducible refine Keeps.ite (fun _ => ?_) (fun _ => ?_)
      | (fail_if_no_progress with_reducible refine Keeps.upd (hd := rfl) ?_)

theorem pwrSet_keeps {r s a1 a2} (h : Keeps r s) : Keeps r (pwrSet s a1 a2) := by
  unfold pwrSet
  try dsimp only
  repeat'
    first
      | with_reducible assumption
      | with_reducible exact Keeps.rfl' _
      | with_reducible refine Keeps.foldl _ ?_ (fun _ _ _ => ?_)
      | with_reducible refine Keeps.ite (fun _ => ?_) (fun _ => ?_)
      | (fail_if_no_progress with_reducible refine Keeps.upd (hd := rfl) ?_)

theorem blkSet_keeps {r s a1 a2} (h : Keeps r s) : Keeps r (blkSet s a1 a2) := by
  unfold blkSet
  try dsimp only
  repeat'
    first
      | with_reducible assumption
      | with_reducible exact Keeps.rfl' _
      | with_reducible refine Keeps.foldl _ ?_ (fun _ _ _ => ?_)
      | with_reducible refine Keeps.ite (fun _ => ?_) (fun _ => ?_)
      | (fail_if_no_progress with_reducible refine Keeps.upd (hd := rfl) ?_)

theorem elSet_keeps {r s a1 a2} (h : Keeps r s) : Keeps r (elSet s a1 a2) := by
  unfold elSet
  try dsimp only
  repeat'
    first
      | with_reducible assumption
      | with_reducible exact Keeps.rfl' _
      | with_reducible refine Keeps.foldl _ ?_ (fun _ _ _ => ?_)
      | with_reducible refine Keeps.ite (fun _ => ?_) (fun _ => ?_)
      | (fail_if_no_progress with_reducible refine Keeps.upd (hd := rfl) ?_)

theorem setGrant_keeps {r s a1 a2 a3} (h : Keeps r s) : Keeps r (setGrant s a1 a2 a3) := by
  unfold setGrant
  try dsimp only
  repeat'
    first
      | with_reducible assumption
      | with_reducible exact Keeps.rfl' _
      | with_reducible refine pwrSet_keeps ?_
      | with_reducible refine fsetb_keeps ?_
      | with_reducible refine fset_keeps ?_

theorem powerTimer_keeps {r s a1 a2 a3 a4 a5} (h : Keeps r s) : Keeps r (powerTimer s a1 a2 a3 a4 a5) := by
  unfold powerTimer
  try dsimp only
  repeat'
    first
      | with_reducible assumption
      | with_reducible exact Keeps.rfl' _
      | with_reducible refine emit_keeps ?_
      | with_reducible refine fset_keeps ?_
      | with_reducible refine pwrSet_keeps ?_
      | with_reducible refine brgSend_keeps ?_
      | with_reducible refine Keeps.foldl _ ?_ (fun _ _ _ => ?_)
      | with_reducible refine Keeps.ite (fun _ => ?_) (fun _ => ?_)

theorem powerMessage_keeps {r s a1 a2} (h : Keeps r s) : Keeps r (powerMessage s a1 a2) := by
  unfold powerMessage
  try dsimp only
  repeat'
    first
      | with_reducible assumption
      | with_reducible exact Keeps.rfl' _
      | with_reducible refine pwrSet_keeps ?_
      | with_reducible refine Keeps.foldl _ ?_ (fun _ _ _ => ?_)
      | with_reducible refine Keeps.ite (fun _ => ?_) (fun _ => ?_)

theorem grantEffect_keeps {r s a1} (h : Keeps r s) : Keeps r (grantEffect s a1) := by
  unfold grantEffect
  try dsimp only
  repeat'
    first
      | with_reducible assumption
      | with_reducible exact Keeps.rfl' _
      | with_reducible refine setGrant_keeps ?_
      | with_reducible refine emitLim_keeps ?_
      | with_reducible refine fcount_keeps ?_
      | with_reducible refine Keeps.foldl _ ?_ (fun _ _ _ => ?_)
      | with_reducible refine Keeps.ite (fun _ => ?_) (fun _ => ?_)
      | (fail_if_no_progress with_reducible refine Keeps.upd (hd := rfl) ?_)
      | split

theorem slowControl_keeps {r s a1 a2} (h : Keeps r s) : Keeps r (slowControl s a1 a2) := by
  unfold slowControl
  try dsimp only
  repeat'
    first
      | with_reducible assumption
      | with_reducible exact Keeps.rfl' _
      | with_reducible refine fset_keeps ?_
      | with_reducible refine Keeps.foldl _ ?_ (fun _ _ _ => ?_)
      | with_reducible refine Keeps.ite (fun _ => ?_) (fun _ => ?_)

theorem rateWritten_keeps {r s a0} (h : Keeps r s) : Keeps r (rateWritten a0 s) := by
  unfold rateWritten
  try dsimp only
  repeat'
    first
      | with_reducible assumption
      | with_reducible exact Keeps.rfl' _
      | with_reducible refine fset_keeps ?_
      | with_reducible refine Keeps.foldl _ ?_ (fun _ _ _ => ?_)
      | with_reducible refine Keeps.ite (fun _ => ?_) (fun _ => ?_)

theorem fastTrip_keeps {r s a1} (h : Keeps r s) : Keeps r (fastTrip s a1) := by
  unfold fastTrip
  try dsimp only
  repeat'
    first
      | with_reducible assumption
      | with_reducible exact Keeps.rfl' _
      | with_reducible refine fset_keeps ?_
      | with_reducible refine blkSet_keeps ?_
      | with_reducible refine emitLim_keeps ?_
      | with_reducible refine fcount_keeps ?_
      | with_reducible refine Keeps.foldl _ ?_ (fun _ _ _ => ?_)
      | with_reducible refine Keeps.ite (fun _ => ?_) (fun _ => ?_)

theorem adaptive1_keeps {r s a1 a2 a3} (h : Keeps r s) : Keeps r (adaptive1 s a1 a2 a3) := by
  unfold adaptive1
  try dsimp only
  repeat'
    first
      | with_reducible assumption
      | with_reducible exact Keeps.rfl' _
      | with_reducible refine blkSet_keeps ?_
      | with_reducible refine fset_keeps ?_
      | with_reducible refine emitLim_keeps ?_
      | with_reducible refine emit_keeps ?_
      | with_reducible refine bookDaily_keeps ?_
      | with_reducible refine Keeps.foldl _ ?_ (fun _ _ _ => ?_)
      | with_reducible refine Keeps.ite (fun _ => ?_) (fun _ => ?_)

theorem marginEval_keeps {r s} (h : Keeps r s) : Keeps r (marginEval s) := by
  unfold marginEval
  try dsimp only
  repeat'
    first
      | with_reducible assumption
      | with_reducible exact Keeps.rfl' _
      | with_reducible refine ilkEv_keeps ?_
      | with_reducible refine Keeps.foldl _ ?_ (fun _ _ _ => ?_)
      | with_reducible refine Keeps.ite (fun _ => ?_) (fun _ => ?_)
      | (fail_if_no_progress with_reducible refine Keeps.upd (hd := rfl) ?_)

theorem thermalShutdown_keeps {r s a1} (h : Keeps r s) : Keeps r (thermalShutdown s a1) := by
  unfold thermalShutdown
  try dsimp only
  repeat'
    first
      | with_reducible assumption
      | with_reducible exact Keeps.rfl' _
      | with_reducible refine emit_keeps ?_
      | with_reducible refine railsOff_keeps ?_
      | with_reducible refine deviceFault_keeps ?_

theorem elApply_keeps {r s a1} (h : Keeps r s) : Keeps r (elApply s a1) := by
  unfold elApply
  try dsimp only
  repeat'
    first
      | with_reducible assumption
      | with_reducible exact Keeps.rfl' _
      | with_reducible refine elSet_keeps ?_
      | with_reducible refine fset_keeps ?_
      | with_reducible refine emitLim_keeps ?_
      | with_reducible refine fsetb_keeps ?_
      | with_reducible refine blkSet_keeps ?_
      | with_reducible refine Keeps.foldl _ ?_ (fun _ _ _ => ?_)
      | with_reducible refine Keeps.ite (fun _ => ?_) (fun _ => ?_)
      | (fail_if_no_progress with_reducible refine Keeps.upd (hd := rfl) ?_)

theorem hotBand_keeps {r s a1} (h : Keeps r s) : Keeps r (hotBand s a1) := by
  unfold hotBand
  try dsimp only
  repeat'
    first
      | with_reducible assumption
      | with_reducible exact Keeps.rfl' _
      | with_reducible refine depBand_keeps ?_
      | with_reducible refine fset_keeps ?_

theorem thermalUpdate_keeps {r s a1 a2 a3 a4 a5} (h : Keeps r s) : Keeps r (thermalUpdate s a1 a2 a3 a4 a5) := by
  unfold thermalUpdate
  try dsimp only
  repeat'
    first
      | with_reducible assumption
      | with_reducible exact Keeps.rfl' _
      | with_reducible refine fset_keeps ?_
      | with_reducible refine elSet_keeps ?_
      | with_reducible refine hotBand_keeps ?_
      | with_reducible refine elApply_keeps ?_
      | with_reducible refine thermalShutdown_keeps ?_
      | with_reducible refine Keeps.foldl _ ?_ (fun _ _ _ => ?_)
      | with_reducible refine Keeps.ite (fun _ => ?_) (fun _ => ?_)

theorem showThrottle_keeps {r s a1} (h : Keeps r s) : Keeps r (showThrottle s a1) := by
  unfold showThrottle
  try dsimp only
  repeat'
    first
      | with_reducible assumption
      | with_reducible exact Keeps.rfl' _
      | with_reducible refine pwrSet_keeps ?_
      | with_reducible refine fsetb_keeps ?_

theorem t4Step_keeps {r s a1} (h : Keeps r s) : Keeps r (t4Step s a1) := by
  unfold t4Step
  try dsimp only
  repeat'
    first
      | with_reducible assumption
      | with_reducible exact Keeps.rfl' _
      | with_reducible refine blkSet_keeps ?_
      | with_reducible refine emitLim_keeps ?_
      | with_reducible refine showThrottle_keeps ?_
      | with_reducible refine Keeps.foldl _ ?_ (fun _ _ _ => ?_)
      | with_reducible refine Keeps.ite (fun _ => ?_) (fun _ => ?_)
      | (fail_if_no_progress with_reducible refine Keeps.upd (hd := rfl) ?_)
      | split

theorem calibrate_keeps {r s a1 a2 a3} (h : Keeps r s) : Keeps r (calibrate s a1 a2 a3) := by
  unfold calibrate
  try dsimp only
  repeat'
    first
      | with_reducible assumption
      | with_reducible exact Keeps.rfl' _
      | with_reducible refine thermalShutdown_keeps ?_
      | with_reducible refine elSet_keeps ?_
      | with_reducible refine fset_keeps ?_
      | with_reducible refine fcount_keeps ?_
      | with_reducible refine emit_keeps ?_
      | with_reducible refine Keeps.foldl _ ?_ (fun _ _ _ => ?_)
      | with_reducible refine Keeps.ite (fun _ => ?_) (fun _ => ?_)
      | (fail_if_no_progress with_reducible refine Keeps.upd (hd := rfl) ?_)

theorem powerStart_keeps {r s} (h : Keeps r s) : Keeps r (powerStart s) := by
  unfold powerStart
  try dsimp only
  repeat'
    first
      | with_reducible assumption
      | with_reducible exact Keeps.rfl' _
      | with_reducible refine fset_keeps ?_
      | with_reducible refine setGrant_keeps ?_
      | with_reducible refine Keeps.foldl _ ?_ (fun _ _ _ => ?_)

theorem standbyUp_keeps {r s} (h : Keeps r s) : Keeps r (standbyUp s) := by
  unfold standbyUp
  refine showInd_keeps (fset_keeps ?_)
  have g := coreOff_keeps (a := false) h
  exact ⟨g.1, g.2, g.3, fun _ => .nil, g.5⟩

theorem modRefused_keeps {r s} (h : Keeps r s) : Keeps r (modRefused s) := by
  unfold modRefused
  try dsimp only
  repeat'
    first
      | with_reducible assumption
      | with_reducible exact Keeps.rfl' _
      | with_reducible refine emitLim_keeps ?_

theorem closeSwitch_keeps {r s} (h : Keeps r s) : Keeps r (closeSwitch s) := by
  unfold closeSwitch
  try dsimp only
  repeat'
    first
      | with_reducible assumption
      | with_reducible exact Keeps.rfl' _
      | with_reducible refine fset_keeps ?_
      | with_reducible refine emit_keeps ?_
      | with_reducible refine showInd_keeps ?_
      | with_reducible refine Keeps.foldl _ ?_ (fun _ _ _ => ?_)
      | with_reducible refine Keeps.ite (fun _ => ?_) (fun _ => ?_)
      | (fail_if_no_progress with_reducible refine Keeps.upd (hd := rfl) ?_)

theorem readInputs_keeps {r s a1 a2 a3 a4} (h : Keeps r s) : Keeps r (readInputs s a1 a2 a3 a4) := by
  unfold readInputs
  try dsimp only
  repeat'
    first
      | with_reducible assumption
      | with_reducible exact Keeps.rfl' _
      | with_reducible refine fset_keeps ?_
      | with_reducible refine fsetb_keeps ?_

theorem presenceDebounced_keeps {r s a1 a2 a3 a4} (h : Keeps r s) : Keeps r (presenceDebounced s a1 a2 a3 a4) := by
  unfold presenceDebounced
  try dsimp only
  repeat'
    first
      | with_reducible assumption
      | with_reducible exact Keeps.rfl' _
      | with_reducible refine fset_keeps ?_
      | with_reducible refine readInputs_keeps ?_
      | with_reducible refine emit_keeps ?_
      | with_reducible refine closeSwitch_keeps ?_
      | with_reducible refine Keeps.foldl _ ?_ (fun _ _ _ => ?_)
      | with_reducible refine Keeps.ite (fun _ => ?_) (fun _ => ?_)

theorem openSwitch_keeps {r s} (h : Keeps r s) : Keeps r (openSwitch s) := by
  unfold openSwitch
  try dsimp only
  repeat'
    first
      | with_reducible assumption
      | with_reducible exact Keeps.rfl' _
      | with_reducible refine fset_keeps ?_
      | with_reducible refine showInd_keeps ?_
      | with_reducible refine coreOff_keeps ?_
      | with_reducible refine railsOff_keeps ?_
      | with_reducible refine Keeps.foldl _ ?_ (fun _ _ _ => ?_)
      | with_reducible refine Keeps.ite (fun _ => ?_) (fun _ => ?_)

theorem contactBreak_keeps {r s a1} (h : Keeps r s) : Keeps r (contactBreak s a1) := by
  unfold contactBreak
  try dsimp only
  repeat'
    first
      | with_reducible assumption
      | with_reducible exact Keeps.rfl' _
      | with_reducible refine fset_keeps ?_
      | with_reducible refine openSwitch_keeps ?_
      | with_reducible refine Keeps.foldl _ ?_ (fun _ _ _ => ?_)
      | with_reducible refine Keeps.ite (fun _ => ?_) (fun _ => ?_)

theorem hotSwapFault_keeps {r s a1} (h : Keeps r s) : Keeps r (hotSwapFault s a1) := by
  unfold hotSwapFault
  try dsimp only
  repeat'
    first
      | with_reducible assumption
      | with_reducible exact Keeps.rfl' _
      | with_reducible refine emit_keeps ?_
      | with_reducible refine openSwitch_keeps ?_
      | with_reducible refine fset_keeps ?_
      | with_reducible refine Keeps.foldl _ ?_ (fun _ _ _ => ?_)
      | with_reducible refine Keeps.ite (fun _ => ?_) (fun _ => ?_)

theorem modPowerOn_keeps {r s} (h : Keeps r s) : Keeps r (modPowerOn s) := by
  unfold modPowerOn
  try dsimp only
  repeat'
    first
      | with_reducible assumption
      | with_reducible exact Keeps.rfl' _
      | with_reducible refine closeSwitch_keeps ?_
      | with_reducible refine fset_keeps ?_
      | with_reducible refine modRefused_keeps ?_
      | with_reducible refine Keeps.foldl _ ?_ (fun _ _ _ => ?_)
      | with_reducible refine Keeps.ite (fun _ => ?_) (fun _ => ?_)

theorem modPowerOff_keeps {r s} (h : Keeps r s) : Keeps r (modPowerOff s) := by
  unfold modPowerOff
  try dsimp only
  repeat'
    first
      | with_reducible assumption
      | with_reducible exact Keeps.rfl' _
      | with_reducible refine modRefused_keeps ?_
      | with_reducible refine openSwitch_keeps ?_
      | with_reducible refine bookFlush_keeps ?_
      | with_reducible refine bookStop_keeps ?_
      | with_reducible refine Keeps.foldl _ ?_ (fun _ _ _ => ?_)
      | with_reducible refine Keeps.ite (fun _ => ?_) (fun _ => ?_)

theorem modReset_keeps {r s} (h : Keeps r s) : Keeps r (modReset s) := by
  unfold modReset
  try dsimp only
  repeat'
    first
      | with_reducible assumption
      | with_reducible exact Keeps.rfl' _
      | with_reducible refine modRefused_keeps ?_
      | with_reducible refine coreOff_keeps ?_
      | with_reducible refine bookFlush_keeps ?_
      | with_reducible refine bookStop_keeps ?_
      | with_reducible refine modeTo_keeps ?_
      | with_reducible refine Keeps.foldl _ ?_ (fun _ _ _ => ?_)
      | with_reducible refine Keeps.ite (fun _ => ?_) (fun _ => ?_)
      | (fail_if_no_progress with_reducible refine Keeps.upd (hd := rfl) ?_)

theorem resetRailsOn_keeps {r s} (h : Keeps r s) : Keeps r (resetRailsOn s) := by
  unfold resetRailsOn
  try dsimp only
  repeat'
    first
      | with_reducible assumption
      | with_reducible exact Keeps.rfl' _
      | with_reducible refine Keeps.foldl _ ?_ (fun _ _ _ => ?_)
      | with_reducible refine Keeps.ite (fun _ => ?_) (fun _ => ?_)
      | (fail_if_no_progress with_reducible refine Keeps.upd (hd := rfl) ?_)

theorem modLocate_keeps {r s a1} (h : Keeps r s) : Keeps r (modLocate s a1) := by
  unfold modLocate
  try dsimp only
  repeat'
    first
      | with_reducible assumption
      | with_reducible exact Keeps.rfl' _
      | with_reducible refine showInd_keeps ?_
      | with_reducible refine fsetb_keeps ?_

theorem coolantWarning_keeps {r s a1 a2} (h : Keeps r s) : Keeps r (coolantWarning s a1 a2) := by
  unfold coolantWarning
  try dsimp only
  repeat'
    first
      | with_reducible assumption
      | with_reducible exact Keeps.rfl' _
      | with_reducible refine fset_keeps ?_
      | with_reducible refine emitLim_keeps ?_
      | with_reducible refine Keeps.foldl _ ?_ (fun _ _ _ => ?_)
      | with_reducible refine Keeps.ite (fun _ => ?_) (fun _ => ?_)

theorem flowFault_keeps {r s a1} (h : Keeps r s) : Keeps r (flowFault s a1) := by
  unfold flowFault
  try dsimp only
  repeat'
    first
      | with_reducible assumption
      | with_reducible exact Keeps.rfl' _
      | with_reducible refine fset_keeps ?_
      | with_reducible refine railsOff_keeps ?_
      | with_reducible refine deviceFault_keeps ?_
      | with_reducible refine emit_keeps ?_
      | with_reducible refine Keeps.foldl _ ?_ (fun _ _ _ => ?_)
      | with_reducible refine Keeps.ite (fun _ => ?_) (fun _ => ?_)
      | (fail_if_no_progress with_reducible refine Keeps.upd (hd := rfl) ?_)

theorem flowSwitch_keeps {r s} (h : Keeps r s) : Keeps r (flowSwitch s) := by
  unfold flowSwitch
  try dsimp only
  repeat'
    first
      | with_reducible assumption
      | with_reducible exact Keeps.rfl' _
      | with_reducible refine hotSwapFault_keeps ?_
      | with_reducible refine Keeps.foldl _ ?_ (fun _ _ _ => ?_)
      | with_reducible refine Keeps.ite (fun _ => ?_) (fun _ => ?_)
      | (fail_if_no_progress with_reducible refine Keeps.upd (hd := rfl) ?_)

theorem i3cAssign_keeps {r s a1} (h : Keeps r s) : Keeps r (i3cAssign s a1) := by
  unfold i3cAssign
  try dsimp only
  repeat'
    first
      | with_reducible assumption
      | with_reducible exact Keeps.rfl' _
      | with_reducible refine fset_keeps ?_
      | with_reducible refine Keeps.foldl _ ?_ (fun _ _ _ => ?_)
      | with_reducible refine Keeps.ite (fun _ => ?_) (fun _ => ?_)

theorem secRefused_keeps {r s} (h : Keeps r s) : Keeps r (secRefused s) := by
  unfold secRefused
  try dsimp only
  repeat'
    first
      | with_reducible assumption
      | with_reducible exact Keeps.rfl' _
      | with_reducible refine emitLim_keeps ?_

theorem secResult_keeps {r s a1 a2} (h : Keeps r s) : Keeps r (secResult s a1 a2) := by
  unfold secResult
  try dsimp only
  repeat'
    first
      | with_reducible assumption
      | with_reducible exact Keeps.rfl' _
      | with_reducible refine emit_keeps ?_
      | with_reducible refine fset_keeps ?_

theorem stageRead_keeps {r s} (h : Keeps r s) : Keeps r (stageRead s).1 := by
  have fold : ∀ (l : List Nat) (b : Nat) (a : State × Bool), Keeps r a.1 →
      Keeps r (l.foldl (fun (a : State × Bool) i => let x := unitRead a.1 (b + i); (x.1, a.2 && x.2.isSome)) a).1 := by
    intro l
    induction l with
    | nil => exact fun _ _ g => g
    | cons x l ih => exact fun b a g => ih b _ (unitRead_keeps g)
  unfold stageRead
  dsimp only
  split
  · exact h
  · exact fold _ _ _ h

theorem stageRead_keepsP {r s u x} (h : Keeps r s) (e : stageRead s = (u, x)) : Keeps r u := by
  have := stageRead_keeps h
  rw [e] at this
  exact this

theorem secBusy_keeps {r s} (h : Keeps r s) : Keeps r (secBusy s) := by
  unfold secBusy
  try dsimp only
  repeat'
    first
      | with_reducible assumption
      | with_reducible exact Keeps.rfl' _
      | with_reducible refine emit_keeps ?_
      | with_reducible refine secRefused_keeps ?_

theorem secBank_keeps {r s} (h : Keeps r s) : Keeps r (secBank s) := by
  unfold secBank
  try dsimp only
  repeat'
    first
      | with_reducible assumption
      | with_reducible exact Keeps.rfl' _
      | with_reducible refine secBusy_keeps ?_
      | with_reducible refine secResult_keeps ?_
      | with_reducible refine stageRead_keeps ?_
      | with_reducible refine stageRead_keepsP ?_ (by assumption)
      | with_reducible refine fset_keeps ?_
      | with_reducible refine setBank_keeps ?_
      | with_reducible refine Keeps.foldl _ ?_ (fun _ _ _ => ?_)
      | with_reducible refine Keeps.ite (fun _ => ?_) (fun _ => ?_)
      | (fail_if_no_progress with_reducible refine Keeps.upd (hd := rfl) ?_)
      | split

theorem updateDone_keeps {r s a1} (h : Keeps r s) : Keeps r (updateDone s a1) := by
  unfold updateDone
  try dsimp only
  repeat'
    first
      | with_reducible assumption
      | with_reducible exact Keeps.rfl' _
      | with_reducible refine fset_keeps ?_
      | with_reducible refine secResult_keeps ?_
      | with_reducible refine setBank_keeps ?_
      | with_reducible refine writeDir_keeps ?_
      | with_reducible refine Keeps.foldl _ ?_ (fun _ _ _ => ?_)
      | with_reducible refine Keeps.ite (fun _ => ?_) (fun _ => ?_)
      | (fail_if_no_progress with_reducible refine Keeps.upd (hd := rfl) ?_)
      | split

theorem secConfig_keeps {r s} (h : Keeps r s) : Keeps r (secConfig s) := by
  unfold secConfig
  try dsimp only
  repeat'
    first
      | with_reducible assumption
      | with_reducible exact Keeps.rfl' _
      | with_reducible refine secRefused_keeps ?_
      | with_reducible refine secResult_keeps ?_
      | with_reducible refine stageRead_keeps ?_
      | with_reducible refine stageRead_keepsP ?_ (by assumption)
      | with_reducible refine fset_keeps ?_
      | with_reducible refine Keeps.foldl _ ?_ (fun _ _ _ => ?_)
      | with_reducible refine Keeps.ite (fun _ => ?_) (fun _ => ?_)
      | (fail_if_no_progress with_reducible refine Keeps.upd (hd := rfl) ?_)
      | split

theorem showOwners_keeps {r s} (h : Keeps r s) : Keeps r (showOwners s) := by
  unfold showOwners
  try dsimp only
  repeat'
    first
      | with_reducible assumption
      | with_reducible exact Keeps.rfl' _
      | with_reducible refine fsetb_keeps ?_
      | with_reducible refine fset_keeps ?_

theorem enrolRefuse_keeps {r s a1} (h : Keeps r s) : Keeps r (enrolRefuse s a1) := by
  unfold enrolRefuse
  try dsimp only
  repeat'
    first
      | with_reducible assumption
      | with_reducible exact Keeps.rfl' _
      | with_reducible refine emit_keeps ?_
      | with_reducible refine fset_keeps ?_

theorem secEnrol_keeps {r s} (h : Keeps r s) : Keeps r (secEnrol s) := by
  unfold secEnrol
  try dsimp only
  repeat'
    first
      | with_reducible assumption
      | with_reducible exact Keeps.rfl' _
      | with_reducible refine secRefused_keeps ?_
      | with_reducible refine stageRead_keeps ?_
      | with_reducible refine stageRead_keepsP ?_ (by assumption)
      | with_reducible refine enrolRefuse_keeps ?_
      | with_reducible refine showOwners_keeps ?_
      | with_reducible refine bookCompact_keeps ?_
      | with_reducible refine bookSeal_keeps ?_
      | with_reducible refine fset_keeps ?_
      | with_reducible refine emit_keeps ?_
      | with_reducible refine Keeps.foldl _ ?_ (fun _ _ _ => ?_)
      | with_reducible refine Keeps.ite (fun _ => ?_) (fun _ => ?_)
      | (fail_if_no_progress with_reducible refine Keeps.upd (hd := rfl) ?_)
      | split

theorem showFw_keeps {r s} (h : Keeps r s) : Keeps r (showFw s) := by
  unfold showFw
  try dsimp only
  repeat'
    first
      | with_reducible assumption
      | with_reducible exact Keeps.rfl' _
      | with_reducible refine fset_keeps ?_
      | with_reducible refine Keeps.foldl _ ?_ (fun _ _ _ => ?_)
      | with_reducible refine Keeps.ite (fun _ => ?_) (fun _ => ?_)
      | (fail_if_no_progress with_reducible refine Keeps.upd (hd := rfl) ?_)
      | split

theorem secLive_keeps {r s} (h : Keeps r s) : Keeps r (secLive s) := by
  unfold secLive
  try dsimp only
  repeat'
    first
      | with_reducible assumption
      | with_reducible exact Keeps.rfl' _
      | with_reducible refine secBusy_keeps ?_
      | with_reducible refine secResult_keeps ?_
      | with_reducible refine fset_keeps ?_
      | with_reducible refine Keeps.foldl _ ?_ (fun _ _ _ => ?_)
      | with_reducible refine Keeps.ite (fun _ => ?_) (fun _ => ?_)
      | (fail_if_no_progress with_reducible refine Keeps.upd (hd := rfl) ?_)
      | split

theorem coreDone_keeps {r s a1} (h : Keeps r s) : Keeps r (coreDone s a1) := by
  unfold coreDone
  try dsimp only
  repeat'
    first
      | with_reducible assumption
      | with_reducible exact Keeps.rfl' _
      | with_reducible refine secResult_keeps ?_
      | with_reducible refine fset_keeps ?_
      | with_reducible refine showFw_keeps ?_
      | with_reducible refine emit_keeps ?_
      | with_reducible refine writeDir_keeps ?_
      | with_reducible refine raiseCtr_keeps ?_
      | with_reducible refine Keeps.foldl _ ?_ (fun _ _ _ => ?_)
      | with_reducible refine Keeps.ite (fun _ => ?_) (fun _ => ?_)
      | (fail_if_no_progress with_reducible refine Keeps.upd (hd := rfl) ?_)
      | split

theorem secAttest_keeps {r s} (h : Keeps r s) : Keeps r (secAttest s) := by
  unfold secAttest
  try dsimp only
  repeat'
    first
      | with_reducible assumption
      | with_reducible exact Keeps.rfl' _
      | with_reducible refine secRefused_keeps ?_
      | with_reducible refine unitRead_keeps ?_
      | with_reducible refine unitRead_keepsP ?_ (by assumption)
      | with_reducible refine fset_keeps ?_
      | with_reducible refine fresh_keeps ?_
      | with_reducible refine Keeps.foldl _ ?_ (fun _ _ _ => ?_)
      | with_reducible refine Keeps.ite (fun _ => ?_) (fun _ => ?_)
      | (fail_if_no_progress with_reducible refine Keeps.upd (hd := rfl) ?_)
      | split

theorem attestDone_keeps {r s} (h : Keeps r s) : Keeps r (attestDone s) := by
  unfold attestDone
  try dsimp only
  repeat'
    first
      | with_reducible assumption
      | with_reducible exact Keeps.rfl' _
      | with_reducible refine unitStore_keeps ?_
      | with_reducible refine emitLim_keeps ?_
      | with_reducible refine fset_keeps ?_
      | with_reducible refine fresh_keeps ?_
      | with_reducible refine Keeps.foldl _ ?_ (fun _ _ _ => ?_)
      | with_reducible refine Keeps.ite (fun _ => ?_) (fun _ => ?_)

theorem rangeEvent_keeps {r s a1 a2} (h : Keeps r s) : Keeps r (rangeEvent s a1 a2) := by
  unfold rangeEvent
  try dsimp only
  repeat'
    first
      | with_reducible assumption
      | with_reducible exact Keeps.rfl' _
      | with_reducible refine emitLim_keeps ?_
      | with_reducible refine ilkRefused_keeps ?_
      | with_reducible refine secRefused_keeps ?_
      | with_reducible refine modeRange_keeps ?_
      | with_reducible refine modRefused_keeps ?_
      | with_reducible refine Keeps.foldl _ ?_ (fun _ _ _ => ?_)
      | with_reducible refine Keeps.ite (fun _ => ?_) (fun _ => ?_)

theorem cfgField_keeps {r s a0 a1 a3} (h : Keeps r s) : Keeps r (cfgField a0 a1 s a3) := by
  unfold cfgField
  try dsimp only
  repeat'
    first
      | with_reducible assumption
      | with_reducible exact Keeps.rfl' _
      | with_reducible refine fset_keeps ?_
      | with_reducible refine rangeEvent_keeps ?_
      | with_reducible refine Keeps.foldl _ ?_ (fun _ _ _ => ?_)
      | with_reducible refine Keeps.ite (fun _ => ?_) (fun _ => ?_)

theorem cfgDefaults_keeps {r s} (h : Keeps r s) : Keeps r (cfgDefaults s) := by
  unfold cfgDefaults
  exact ⟨h.1, h.2, h.3, fun x => (h.4 x).filter _, h.5⟩

theorem cfgEntry_keeps {r s a1} (h : Keeps r s) : Keeps r (cfgEntry s a1) := by
  unfold cfgEntry
  try dsimp only
  repeat'
    first
      | with_reducible assumption
      | with_reducible exact Keeps.rfl' _
      | with_reducible refine emitLim_keeps ?_
      | with_reducible refine cfgField_keeps ?_
      | with_reducible refine Keeps.foldl _ ?_ (fun _ _ _ => ?_)
      | with_reducible refine Keeps.ite (fun _ => ?_) (fun _ => ?_)
      | (fail_if_no_progress with_reducible refine Keeps.upd (hd := rfl) ?_)
      | split

theorem queueSpace_keeps {r s} (h : Keeps r s) : Keeps r (queueSpace s) := by
  unfold queueSpace
  try dsimp only
  repeat'
    first
      | with_reducible assumption
      | with_reducible exact Keeps.rfl' _
      | with_reducible refine fset_keeps ?_

theorem cfgApply_keeps {r s a1 a2} (h : Keeps r s) : Keeps r (cfgApply s a1 a2) := by
  unfold cfgApply
  try dsimp only
  repeat'
    first
      | with_reducible assumption
      | with_reducible exact Keeps.rfl' _
      | with_reducible refine queueSpace_keeps ?_
      | with_reducible refine cfgEntry_keeps ?_
      | with_reducible refine rangeEvent_keeps ?_
      | with_reducible refine fset_keeps ?_
      | with_reducible refine Keeps.foldl _ ?_ (fun _ _ _ => ?_)
      | with_reducible refine Keeps.ite (fun _ => ?_) (fun _ => ?_)

theorem cfgSlot_keeps {r s a1} (h : Keeps r s) : Keeps r (cfgSlot s a1).1 := by
  unfold cfgSlot
  try dsimp only
  repeat'
    first
      | with_reducible assumption
      | with_reducible exact Keeps.rfl' _
      | with_reducible refine emit_keeps ?_
      | with_reducible refine Keeps.foldl _ ?_ (fun _ _ _ => ?_)
      | with_reducible refine Keeps.ite (fun _ => ?_) (fun _ => ?_)
      | (fail_if_no_progress with_reducible refine Keeps.upd (hd := rfl) ?_)
      | split

theorem cfgSlot_keepsP {r s a1 t x} (h : Keeps r s) (e : cfgSlot s a1 = (t, x)) : Keeps r t := by
  have := cfgSlot_keeps (a1 := a1) h
  rw [e] at this
  exact this

theorem cfgStart_keepsO {r s t} (h : Keeps r s) (e : cfgStart s = some t) : Keeps r t := by
  unfold cfgStart at e
  dsimp only at e
  have g := cfgDefaults_keeps (fsetb_keeps (a1 := F.SEC_BOOT_UNOWNED) (a2 := 0) (a3 := (cfgSlot (cfgSlot s 0).1 1).1.sec.keys.isEmpty)
    (cfgSlot_keeps (a1 := 1) (cfgSlot_keeps (a1 := 0) h)))
  generalize cfgDefaults (fsetb (cfgSlot (cfgSlot s 0).1 1).1 F.SEC_BOOT_UNOWNED 0 (cfgSlot (cfgSlot s 0).1 1).1.sec.keys.isEmpty) = u at e g
  split at e
  · split at e
    · obtain rfl := Option.some.inj e
      exact fset_keeps g
    · contradiction
  · obtain rfl := Option.some.inj e
    refine Keeps.upd (hd := rfl) ?_
    exact cfgApply_keeps (fset_keeps g)

theorem pickBank_keeps {r s} (h : Keeps r s) : Keeps r (pickBank s).1 := by
  unfold pickBank
  try dsimp only
  repeat'
    first
      | with_reducible assumption
      | with_reducible exact Keeps.rfl' _
      | with_reducible refine writeDir_keeps ?_
      | with_reducible refine emit_keeps ?_
      | with_reducible refine fset_keeps ?_
      | with_reducible refine Keeps.foldl _ ?_ (fun _ _ _ => ?_)
      | with_reducible refine Keeps.ite (fun _ => ?_) (fun _ => ?_)
      | (fail_if_no_progress with_reducible refine Keeps.upd (hd := rfl) ?_)
      | split

theorem pickBank_keepsP {r s t x} (h : Keeps r s) (e : pickBank s = (t, x)) : Keeps r t := by
  have := pickBank_keeps h
  rw [e] at this
  exact this

theorem bookScan_keeps {r s a1 a2} (h : Keeps r s) : Keeps r (bookScan s a1 a2) := by
  unfold bookScan
  try dsimp only
  repeat'
    first
      | with_reducible assumption
      | with_reducible exact Keeps.rfl' _
      | with_reducible refine emit_keeps ?_
      | with_reducible refine fset_keeps ?_
      | with_reducible refine bookAccount_keeps ?_
      | with_reducible refine Keeps.foldl _ ?_ (fun _ _ _ => ?_)
      | with_reducible refine Keeps.ite (fun _ => ?_) (fun _ => ?_)
      | (fail_if_no_progress with_reducible refine Keeps.upd (hd := rfl) ?_)

theorem bookStart_keeps {r s} (h : Keeps r s) : Keeps r (bookStart s) := by
  unfold bookStart
  try dsimp only
  repeat'
    first
      | with_reducible assumption
      | with_reducible exact Keeps.rfl' _
      | with_reducible refine fset_keeps ?_
      | with_reducible refine emit_keeps ?_
      | with_reducible refine bookA_keeps ?_
      | with_reducible refine Keeps.foldl _ ?_ (fun _ _ _ => ?_)
      | with_reducible refine Keeps.ite (fun _ => ?_) (fun _ => ?_)

theorem bookRestore_keeps {r s} (h : Keeps r s) : Keeps r (bookRestore s) := by
  unfold bookRestore
  try dsimp only
  repeat'
    first
      | with_reducible assumption
      | with_reducible exact Keeps.rfl' _
      | with_reducible refine fset_keeps ?_
      | with_reducible refine tset_keeps ?_
      | with_reducible refine blkSet_keeps ?_
      | with_reducible refine setGrp_keeps ?_
      | with_reducible refine Keeps.foldl _ ?_ (fun _ _ _ => ?_)
      | with_reducible refine Keeps.ite (fun _ => ?_) (fun _ => ?_)
      | (fail_if_no_progress with_reducible refine Keeps.upd (hd := rfl) ?_)
      | split

theorem trainChannel_keeps {r s a1 a2} (h : Keeps r s) : Keeps r (trainChannel s a1 a2) := by
  unfold trainChannel
  try dsimp only
  repeat'
    first
      | with_reducible assumption
      | with_reducible exact Keeps.rfl' _
      | with_reducible refine fset_keeps ?_
      | with_reducible refine useSpare_keeps ?_
      | with_reducible refine useErasure_keeps ?_
      | with_reducible refine emit_keeps ?_
      | with_reducible refine bookChannel_keeps ?_
      | with_reducible refine Keeps.foldl _ ?_ (fun _ _ _ => ?_)
      | with_reducible refine Keeps.ite (fun _ => ?_) (fun _ => ?_)
      | (fail_if_no_progress with_reducible refine Keeps.upd (hd := rfl) ?_)
      | split

theorem depotStart_keeps {r s vias} (h : Keeps r s) : Keeps r (depotStart s vias) := by
  unfold depotStart
  refine Keeps.foldl _ (Keeps.foldl _ (Keeps.foldl _ ?_ fun _ _ g => trainChannel_keeps g) fun _ _ g => bandAtTraining_keeps g)
    fun _ _ g => Keeps.ite (fun _ => g) (fun _ => fset_keeps g)
  exact ⟨h.1, h.2, h.3, h.4, fun _ => rfl⟩

theorem recovery_keeps {r s} (h : Keeps r s) : Keeps r (recovery s) := by
  unfold recovery
  try dsimp only
  repeat'
    first
      | with_reducible assumption
      | with_reducible exact Keeps.rfl' _
      | with_reducible refine fset_keeps ?_
      | with_reducible refine startFail_keeps ?_
      | with_reducible refine emit_keeps ?_

theorem unitsStart_keeps {r s} (h : Keeps r s) : Keeps r (unitsStart s) := by
  unfold unitsStart
  try dsimp only
  repeat'
    first
      | with_reducible assumption
      | with_reducible exact Keeps.rfl' _
      | with_reducible refine fset_keeps ?_
      | with_reducible refine powerStart_keeps ?_
      | with_reducible refine emit_keeps ?_
      | with_reducible refine fresh_keeps ?_
      | with_reducible refine Keeps.foldl _ ?_ (fun _ _ _ => ?_)
      | with_reducible refine Keeps.ite (fun _ => ?_) (fun _ => ?_)

theorem boot_keeps {r s a1} (h : Keeps r s) : Keeps r (boot s a1) := by
  unfold boot
  try dsimp only
  repeat'
    first
      | with_reducible assumption
      | with_reducible exact Keeps.rfl' _
      | with_reducible refine fset_keeps ?_
      | with_reducible refine startFail_keeps ?_
      | with_reducible refine pickBank_keeps ?_
      | with_reducible refine pickBank_keepsP ?_ (by assumption)
      | with_reducible refine recovery_keeps ?_
      | with_reducible refine showFw_keeps ?_
      | with_reducible refine bookScan_keeps ?_
      | with_reducible refine showOwners_keeps ?_
      | with_reducible refine cfgStart_keepsO ?_ (by assumption)
      | with_reducible refine bookStart_keeps ?_
      | with_reducible refine bookRestore_keeps ?_
      | with_reducible refine unitsStart_keeps ?_
      | with_reducible refine depotStart_keeps ?_
      | with_reducible refine brgStart_keeps ?_
      | with_reducible refine Keeps.foldl _ ?_ (fun _ _ _ => ?_)
      | with_reducible refine Keeps.ite (fun _ => ?_) (fun _ => ?_)
      | (fail_if_no_progress with_reducible refine Keeps.upd (hd := rfl) ?_)
      | split

theorem powerGood_keeps {r s a1} (h : Keeps r s) : Keeps r (powerGood s a1) := by
  unfold powerGood
  try dsimp only
  repeat'
    first
      | with_reducible assumption
      | with_reducible exact Keeps.rfl' _
      | with_reducible refine fset_keeps ?_
      | with_reducible refine boot_keeps ?_
      | with_reducible refine modeTo_keeps ?_
      | with_reducible refine Keeps.foldl _ ?_ (fun _ _ _ => ?_)
      | with_reducible refine Keeps.ite (fun _ => ?_) (fun _ => ?_)

theorem selfTestComplete_keeps {r s a1} (h : Keeps r s) : Keeps r (selfTestComplete s a1) := by
  unfold selfTestComplete
  try dsimp only
  repeat'
    first
      | with_reducible assumption
      | with_reducible exact Keeps.rfl' _
      | with_reducible refine thresholdCrossed_keeps ?_
      | with_reducible refine fset_keeps ?_
      | with_reducible refine Keeps.foldl _ ?_ (fun _ _ _ => ?_)
      | with_reducible refine Keeps.ite (fun _ => ?_) (fun _ => ?_)
      | (fail_if_no_progress with_reducible refine Keeps.upd (hd := rfl) ?_)

theorem discoveryDone_keeps {r s} (h : Keeps r s) : Keeps r (discoveryDone s) := by
  unfold discoveryDone
  try dsimp only
  repeat'
    first
      | with_reducible assumption
      | with_reducible exact Keeps.rfl' _
      | with_reducible refine formPropose_keeps ?_
      | with_reducible refine Keeps.foldl _ ?_ (fun _ _ _ => ?_)
      | with_reducible refine Keeps.ite (fun _ => ?_) (fun _ => ?_)
      | (fail_if_no_progress with_reducible refine Keeps.upd (hd := rfl) ?_)

theorem recoveryChunk_keeps {r s a1 a2 a3} (h : Keeps r s) : Keeps r (recoveryChunk s a1 a2 a3) := by
  unfold recoveryChunk
  try dsimp only
  repeat'
    first
      | with_reducible assumption
      | with_reducible exact Keeps.rfl' _
      | with_reducible refine secRefused_keeps ?_
      | with_reducible refine fset_keeps ?_
      | with_reducible refine fsetb_keeps ?_
      | with_reducible refine setBank_keeps ?_
      | with_reducible refine emit_keeps ?_
      | with_reducible refine writeDir_keeps ?_
      | with_reducible refine boot_keeps ?_
      | with_reducible refine lysDown_keeps ?_
      | with_reducible refine Keeps.foldl _ ?_ (fun _ _ _ => ?_)
      | with_reducible refine Keeps.ite (fun _ => ?_) (fun _ => ?_)
      | (fail_if_no_progress with_reducible refine Keeps.upd (hd := rfl) ?_)
      | split

theorem appCsrs_keeps {r s a1 a2 a3 a4} (h : Keeps r s) : Keeps r (appCsrs s a1 a2 a3 a4) := by
  unfold appCsrs
  try dsimp only
  repeat'
    first
      | with_reducible assumption
      | with_reducible exact Keeps.rfl' _
      | with_reducible refine Keeps.foldl _ ?_ (fun _ _ _ => ?_)
      | with_reducible refine Keeps.ite (fun _ => ?_) (fun _ => ?_)
      | (fail_if_no_progress with_reducible refine Keeps.upd (hd := rfl) ?_)

theorem appFault_keeps {r s a1 a2} (h : Keeps r s) : Keeps r (appFault s a1 a2) := by
  unfold appFault
  try dsimp only
  repeat'
    first
      | with_reducible assumption
      | with_reducible exact Keeps.rfl' _
      | with_reducible refine send_keeps ?_

theorem appLoad_keeps {r s a1 a2 a3 a4 a5} (h : Keeps r s) : Keeps r (appLoad s a1 a2 a3 a4 a5) := by
  unfold appLoad
  try dsimp only
  repeat'
    first
      | with_reducible assumption
      | with_reducible exact Keeps.rfl' _
      | with_reducible refine submit_keeps ?_
      | with_reducible refine send_keeps ?_
      | with_reducible refine newMsg_keeps ?_
      | with_reducible refine newMsg_keepsP ?_ (by assumption)
      | with_reducible refine fresh_keeps ?_
      | with_reducible refine Keeps.foldl _ ?_ (fun _ _ _ => ?_)
      | with_reducible refine Keeps.ite (fun _ => ?_) (fun _ => ?_)
      | (fail_if_no_progress with_reducible refine Keeps.upd (hd := rfl) ?_)
      | split

theorem appAccess_keeps {r s a1 a2 a3 a4 a5} (h : Keeps r s) : Keeps r (appAccess s a1 a2 a3 a4 a5) := by
  unfold appAccess
  try dsimp only
  repeat'
    first
      | with_reducible assumption
      | with_reducible exact Keeps.rfl' _
      | with_reducible refine appFault_keeps ?_
      | with_reducible refine send_keeps ?_
      | with_reducible refine appLoad_keeps ?_
      | with_reducible refine submit_keeps ?_
      | with_reducible refine Keeps.foldl _ ?_ (fun _ _ _ => ?_)
      | with_reducible refine Keeps.ite (fun _ => ?_) (fun _ => ?_)
      | (fail_if_no_progress with_reducible refine Keeps.upd (hd := rfl) ?_)
      | split

theorem appAmo_keeps {r s a1 a2 a3 a4 a5 a6 a7 a8} (h : Keeps r s) : Keeps r (appAmo s a1 a2 a3 a4 a5 a6 a7 a8) := by
  unfold appAmo
  try dsimp only
  repeat'
    first
      | with_reducible assumption
      | with_reducible exact Keeps.rfl' _
      | with_reducible refine appFault_keeps ?_
      | with_reducible refine submit_keeps ?_
      | with_reducible refine send_keeps ?_
      | with_reducible refine Keeps.foldl _ ?_ (fun _ _ _ => ?_)
      | with_reducible refine Keeps.ite (fun _ => ?_) (fun _ => ?_)
      | (fail_if_no_progress with_reducible refine Keeps.upd (hd := rfl) ?_)
      | split

theorem appResult_keeps {r s a1 a2 a3 a4 a5} (h : Keeps r s) : Keeps r (appResult s a1 a2 a3 a4 a5) := by
  unfold appResult
  try dsimp only
  repeat'
    first
      | with_reducible assumption
      | with_reducible exact Keeps.rfl' _
      | with_reducible refine appFault_keeps ?_
      | with_reducible refine send_keeps ?_
      | with_reducible refine Keeps.foldl _ ?_ (fun _ _ _ => ?_)
      | with_reducible refine Keeps.ite (fun _ => ?_) (fun _ => ?_)
      | (fail_if_no_progress with_reducible refine Keeps.upd (hd := rfl) ?_)
      | split

theorem brgAnswer_keeps {r s a1 a2 a3 a4 a5 a6 a7} (h : Keeps r s) : Keeps r (brgAnswer s a1 a2 a3 a4 a5 a6 a7) := by
  unfold brgAnswer
  try dsimp only
  repeat'
    first
      | with_reducible assumption
      | with_reducible exact Keeps.rfl' _
      | with_reducible refine brgSend_keeps ?_
      | with_reducible refine Keeps.foldl _ ?_ (fun _ _ _ => ?_)
      | with_reducible refine Keeps.ite (fun _ => ?_) (fun _ => ?_)

theorem deliver_keeps {r s a1} (h : Keeps r s) : Keeps r (deliver s a1) := by
  unfold deliver
  try dsimp only
  repeat'
    first
      | with_reducible assumption
      | with_reducible exact Keeps.rfl' _
      | with_reducible refine tset_keeps ?_
      | with_reducible refine appResult_keeps ?_
      | with_reducible refine lysResult_keeps ?_
      | with_reducible refine cueResult_keeps ?_
      | with_reducible refine shnResult_keeps ?_
      | with_reducible refine brgAnswer_keeps ?_
      | with_reducible refine Keeps.foldl _ ?_ (fun _ _ _ => ?_)
      | with_reducible refine Keeps.ite (fun _ => ?_) (fun _ => ?_)
      | (fail_if_no_progress with_reducible refine Keeps.upd (hd := rfl) ?_)
      | split

theorem startPoints_keeps {r s a1} (h : Keeps r s) : Keeps r (startPoints s a1) := by
  unfold startPoints
  try dsimp only
  repeat'
    first
      | with_reducible assumption
      | with_reducible exact Keeps.rfl' _
      | with_reducible refine runFail_keeps ?_
      | with_reducible refine steerAll_keeps ?_
      | with_reducible refine Keeps.foldl _ ?_ (fun _ _ _ => ?_)

theorem settleStep_keepsO {r s t} (h : Keeps r s) (e : settleStep s = some t) : Keeps r t := by
  unfold settleStep at e
  split at e
  · obtain rfl := Option.some.inj e
    exact fabStep_keepsO h (by assumption)
  split at e
  · obtain rfl := Option.some.inj e
    exact deliver_keeps (Keeps.upd (hd := rfl) h)
  by_cases c : recallWaits s = true
  · rw [if_pos c] at e
    obtain rfl := Option.some.inj e
    exact sendRecalls_keeps h
  rw [if_neg c] at e
  by_cases c : (readyStep s).isSome = true
  · rw [if_pos c] at e; exact readyStep_keepsO h e
  rw [if_neg c] at e
  by_cases c : (shnReserved s .up).isSome = true
  · rw [if_pos c] at e; exact shnReserved_keepsO h e
  rw [if_neg c] at e
  by_cases c : (shnReserved s .down).isSome = true
  · rw [if_pos c] at e; exact shnReserved_keepsO h e
  rw [if_neg c] at e
  by_cases c : (shnStep s .up).isSome = true
  · rw [if_pos c] at e; exact shnStep_keepsO h e
  rw [if_neg c] at e
  by_cases c : (shnStep s .down).isSome = true
  · rw [if_pos c] at e; exact shnStep_keepsO h e
  rw [if_neg c] at e
  by_cases c : (lysLate s).isSome = true
  · rw [if_pos c] at e; exact lysLate_keepsO h e
  rw [if_neg c] at e
  by_cases c : s.fab.stale = true
  · rw [if_pos c] at e
    obtain rfl := Option.some.inj e
    exact fetchAll_keeps (Keeps.upd (hd := rfl) h)
  rw [if_neg c] at e
  by_cases c : (!s.ilk.inbox.isEmpty) = true
  · rw [if_pos c] at e
    obtain rfl := Option.some.inj e
    exact takeOwn_keeps h
  rw [if_neg c] at e
  by_cases c : (!(unitView s .down).ilk.inbox.isEmpty) = true
  · rw [if_pos c] at e
    obtain rfl := Option.some.inj e
    exact asDown_keeps (fun _ g => takeOwn_keeps g) h
  rw [if_neg c] at e
  split at e
  · obtain rfl := Option.some.inj e
    exact startPoints_keeps (Keeps.upd (hd := rfl) h)
  · exact steerStep_keepsO h e

theorem settleN_keeps {r} {n} : ∀ {s}, Keeps r s → Keeps r (settleN n s) := by
  induction n with
  | zero => exact id
  | succ n ih =>
    intro s h
    unfold settleN
    split
    · exact ih (settleStep_keepsO h (by assumption))
    · exact h

theorem faultCheck_keeps {r s} (h : Keeps r s) : Keeps r (faultCheck s) := by
  unfold faultCheck
  try dsimp only
  repeat'
    first
      | with_reducible assumption
      | with_reducible exact Keeps.rfl' _
      | with_reducible refine fset_keeps ?_
      | with_reducible refine fence_keeps ?_
      | with_reducible refine Keeps.foldl _ ?_ (fun _ _ _ => ?_)
      | with_reducible refine Keeps.ite (fun _ => ?_) (fun _ => ?_)

theorem settlePost_keeps {r s} (h : Keeps r s) : Keeps r (settlePost s) := by
  unfold settlePost
  try dsimp only
  repeat'
    first
      | with_reducible assumption
      | with_reducible exact Keeps.rfl' _
      | with_reducible refine flushHeld_keeps ?_
      | with_reducible refine drainRun_keeps ?_
      | with_reducible refine marginEval_keeps ?_
      | with_reducible refine wakeAll_keeps ?_
      | with_reducible refine faultCheck_keeps ?_

theorem settle_keeps {r s} (h : Keeps r s) : Keeps r (settle s) := by
  unfold settle
  try dsimp only
  repeat'
    first
      | with_reducible assumption
      | with_reducible exact Keeps.rfl' _
      | with_reducible refine settleN_keeps ?_
      | with_reducible refine lanesOut_keeps ?_
      | with_reducible refine lysShow_keeps ?_
      | with_reducible refine brgShow_keeps ?_
      | with_reducible refine settlePost_keeps ?_

theorem settled_keepsR {r s u} (h : Keeps r s) (e : settled s = .next u) : Keeps r u := by
  obtain rfl := Host.Outcome.next.inj e
  exact settle_keeps h

theorem clearRead_keeps {r s a1 a2 a3 a4} (h : Keeps r s) : Keeps r (clearRead s a1 a2 a3 a4) := by
  unfold clearRead
  try dsimp only
  repeat'
    first
      | with_reducible assumption
      | with_reducible exact Keeps.rfl' _
      | with_reducible refine fset_keeps ?_
      | with_reducible refine setGrp_keeps ?_
      | with_reducible refine Keeps.foldl _ ?_ (fun _ _ _ => ?_)
      | with_reducible refine Keeps.ite (fun _ => ?_) (fun _ => ?_)

theorem mgmtBad_keeps {r s} (h : Keeps r s) : Keeps r (mgmtBad s) := by
  unfold mgmtBad
  try dsimp only
  repeat'
    first
      | with_reducible assumption
      | with_reducible exact Keeps.rfl' _
      | with_reducible refine emitLim_keeps ?_

theorem mgmtGone_keeps {r s a1} (h : Keeps r s) : Keeps r (mgmtGone s a1) := by
  unfold mgmtGone
  try dsimp only
  repeat'
    first
      | with_reducible assumption
      | with_reducible exact Keeps.rfl' _
      | with_reducible refine emitLim_keeps ?_

theorem mgmtRead_keeps {r s a1 a2} (h : Keeps r s) : Keeps r (mgmtRead s a1 a2).1 := by
  unfold mgmtRead
  try dsimp only
  repeat'
    first
      | with_reducible assumption
      | with_reducible exact Keeps.rfl' _
      | with_reducible refine mgmtBad_keeps ?_
      | with_reducible refine mgmtGone_keeps ?_
      | with_reducible refine clearRead_keeps ?_
      | with_reducible refine Keeps.foldl _ ?_ (fun _ _ _ => ?_)
      | with_reducible refine Keeps.ite (fun _ => ?_) (fun _ => ?_)
      | (fail_if_no_progress with_reducible refine Keeps.upd (hd := rfl) ?_)
      | split

theorem mgmtRead_keepsP {r s a1 a2 t x} (h : Keeps r s) (e : mgmtRead s a1 a2 = (t, x)) : Keeps r t := by
  have := mgmtRead_keeps (a1 := a1) (a2 := a2) h
  rw [e] at this
  exact this

theorem setFields_keeps {r s a1 a2 a3} (h : Keeps r s) : Keeps r (setFields s a1 a2 a3) := by
  unfold setFields
  try dsimp only
  repeat'
    first
      | with_reducible assumption
      | with_reducible exact Keeps.rfl' _
      | with_reducible refine fset_keeps ?_
      | with_reducible refine Keeps.foldl _ ?_ (fun _ _ _ => ?_)
      | with_reducible refine Keeps.ite (fun _ => ?_) (fun _ => ?_)
      | (fail_if_no_progress with_reducible refine Keeps.upd (hd := rfl) ?_)
      | split

theorem secCtl_keeps {r s a1} (h : Keeps r s) : Keeps r (secCtl s a1) := by
  unfold secCtl
  try dsimp only
  repeat'
    first
      | with_reducible assumption
      | with_reducible exact Keeps.rfl' _
      | with_reducible refine secBank_keeps ?_
      | with_reducible refine secConfig_keeps ?_
      | with_reducible refine secEnrol_keeps ?_
      | with_reducible refine secLive_keeps ?_
      | with_reducible refine Keeps.foldl _ ?_ (fun _ _ _ => ?_)
      | with_reducible refine Keeps.ite (fun _ => ?_) (fun _ => ?_)

theorem winCommit_keeps {r s a1} (h : Keeps r s) : Keeps r (winCommit s a1) := by
  unfold winCommit
  try dsimp only
  repeat'
    first
      | with_reducible assumption
      | with_reducible exact Keeps.rfl' _
      | with_reducible refine winWrite_keeps ?_
      | with_reducible refine winBind_keeps ?_
      | with_reducible refine winUnbind_keeps ?_
      | with_reducible refine winRefused_keeps ?_
      | with_reducible refine setFields_keeps ?_
      | with_reducible refine Keeps.foldl _ ?_ (fun _ _ _ => ?_)
      | with_reducible refine Keeps.ite (fun _ => ?_) (fun _ => ?_)
      | (fail_if_no_progress with_reducible refine Keeps.upd (hd := rfl) ?_)
      | split

theorem onBit_keeps {r s m n f} (g : ∀ t, Keeps r t → Keeps r (f t)) (h : Keeps r s) : Keeps r (onBit m n f s) := by
  unfold onBit
  exact Keeps.ite (fun _ => g _ h) (fun _ => h)

theorem lysRetrain_keeps {r s} (h : Keeps r s) : Keeps r (lysRetrain s) := by
  unfold lysRetrain
  try dsimp only
  repeat'
    first
      | with_reducible assumption
      | with_reducible exact Keeps.rfl' _
      | with_reducible refine lysDown_keeps ?_

theorem regWrite_keeps {r s g i m} (h : Keeps r s) : Keeps r (regWrite s g i m) := by
  unfold regWrite
  repeat'
    first
      | with_reducible assumption
      | with_reducible refine setFields_keeps ?_
      | with_reducible refine portGo_keeps ?_
      | with_reducible refine portEnable_keeps ?_
      | with_reducible refine onBit_keeps (fun _ _ => ?_) ?_
      | with_reducible refine fset_keeps ?_
      | with_reducible refine Keeps.ite (fun _ => ?_) (fun _ => ?_)
      | with_reducible refine announcing_keeps (fun _ _ => ?_) ?_
      | with_reducible refine tileStart_keeps ?_
      | with_reducible refine tileAbortAll_keeps ?_
      | with_reducible refine tileCntClr_keeps ?_
      | with_reducible refine tileRun_keeps ?_
      | with_reducible refine tileArrayCntClr_keeps ?_
      | with_reducible refine tileRefused_keeps ?_
      | with_reducible refine requestRetire_keeps ?_
      | with_reducible refine scrubNow_keeps ?_
      | with_reducible refine depCntClr_keeps ?_
      | with_reducible refine startRetrain_keeps ?_
      | with_reducible refine winCommit_keeps ?_
      | with_reducible refine cueAbort_keeps ?_
      | with_reducible refine replayOff_keeps ?_
      | with_reducible refine stmStart_keeps ?_
      | with_reducible refine stmJobStep_keeps ?_
      | with_reducible refine mapWritten_keeps ?_
      | with_reducible refine shnCntClr_keeps ?_
      | with_reducible refine announcing_keeps ?_
      | with_reducible refine portGo_keeps ?_
      | with_reducible refine portEnable_keeps ?_
      | with_reducible refine portRelock_keeps ?_
      | with_reducible refine portRetrain_keeps ?_
      | with_reducible refine portCntClr_keeps ?_
      | with_reducible refine steer_keeps ?_
      | with_reducible refine lasChange_keeps ?_
      | with_reducible refine routeWritten_keeps ?_
      | with_reducible refine ilkCtl_keeps ?_
      | with_reducible refine presetRequest_keeps ?_
      | with_reducible refine brgRetrain_keeps ?_
      | with_reducible refine modLocate_keeps ?_
      | with_reducible refine modReset_keeps ?_
      | with_reducible refine drainRequest_keeps ?_
      | with_reducible refine modPowerOff_keeps ?_
      | with_reducible refine modPowerOn_keeps ?_
      | with_reducible refine lysCntClr_keeps ?_
      | with_reducible refine lysRetrain_keeps ?_
      | with_reducible refine secCtl_keeps ?_
      | with_reducible refine secAttest_keeps ?_
      | with_reducible refine recoveryChunk_keeps ?_
      | with_reducible refine rateWritten_keeps ?_
      | with_reducible refine modeCfg_keeps ?_
      | with_reducible refine modeGo_keeps ?_
      | split

theorem mgmtWrite_keeps {r s a1 a2 a3} (h : Keeps r s) : Keeps r (mgmtWrite s a1 a2 a3).1 := by
  unfold mgmtWrite
  try dsimp only
  repeat'
    first
      | with_reducible assumption
      | with_reducible exact Keeps.rfl' _
      | with_reducible refine mgmtBad_keeps ?_
      | with_reducible refine mgmtGone_keeps ?_
      | with_reducible refine rangeEvent_keeps ?_
      | with_reducible refine regWrite_keeps ?_
      | with_reducible refine Keeps.foldl _ ?_ (fun _ _ _ => ?_)
      | with_reducible refine Keeps.ite (fun _ => ?_) (fun _ => ?_)
      | (fail_if_no_progress with_reducible refine Keeps.upd (hd := rfl) ?_)
      | split

theorem mgmtWrite_keepsP {r s a1 a2 a3 t x} (h : Keeps r s) (e : mgmtWrite s a1 a2 a3 = (t, x)) : Keeps r t := by
  have := mgmtWrite_keeps (a1 := a1) (a2 := a2) (a3 := a3) h
  rw [e] at this
  exact this

theorem mgmtCross_keeps {r s a1} (h : Keeps r s) : Keeps r (mgmtCross s a1) := by
  unfold mgmtCross
  try dsimp only
  repeat'
    first
      | with_reducible assumption
      | with_reducible exact Keeps.rfl' _
      | with_reducible refine brgCount_keeps ?_
      | with_reducible refine Keeps.foldl _ ?_ (fun _ _ _ => ?_)
      | with_reducible refine Keeps.ite (fun _ => ?_) (fun _ => ?_)

theorem i3cRefused_keeps {r s} (h : Keeps r s) : Keeps r (i3cRefused s) := by
  unfold i3cRefused
  try dsimp only
  repeat'
    first
      | with_reducible assumption
      | with_reducible exact Keeps.rfl' _
      | with_reducible refine emitLim_keeps ?_
      | with_reducible refine fcount_keeps ?_

theorem mgmtResp_keeps {r s a1 a2 a3} (h : Keeps r s) : Keeps r (mgmtResp s a1 a2 a3) := by
  unfold mgmtResp
  try dsimp only
  repeat'
    first
      | with_reducible assumption
      | with_reducible exact Keeps.rfl' _
      | with_reducible refine lysSend_keeps ?_

theorem lysMgmtRd_keeps {r s a1} (h : Keeps r s) : Keeps r (lysMgmtRd s a1) := by
  unfold lysMgmtRd
  try dsimp only
  repeat'
    first
      | with_reducible assumption
      | with_reducible exact Keeps.rfl' _
      | with_reducible refine lysTake_keeps ?_
      | with_reducible refine mgmtResp_keeps ?_
      | with_reducible refine mgmtBad_keeps ?_
      | with_reducible refine mgmtRead_keeps ?_
      | with_reducible refine mgmtRead_keepsP ?_ (by assumption)
      | with_reducible refine mgmtCross_keeps ?_
      | with_reducible refine Keeps.foldl _ ?_ (fun _ _ _ => ?_)
      | with_reducible refine Keeps.ite (fun _ => ?_) (fun _ => ?_)
      | (fail_if_no_progress with_reducible refine Keeps.upd (hd := rfl) ?_)
      | split

theorem lysMgmtWr_keeps {r s a1 a2} (h : Keeps r s) : Keeps r (lysMgmtWr s a1 a2) := by
  unfold lysMgmtWr
  try dsimp only
  repeat'
    first
      | with_reducible assumption
      | with_reducible exact Keeps.rfl' _
      | with_reducible refine lysTake_keeps ?_
      | with_reducible refine mgmtResp_keeps ?_
      | with_reducible refine mgmtBad_keeps ?_
      | with_reducible refine mgmtWrite_keeps ?_
      | with_reducible refine mgmtWrite_keepsP ?_ (by assumption)
      | with_reducible refine mgmtCross_keeps ?_
      | with_reducible refine Keeps.foldl _ ?_ (fun _ _ _ => ?_)
      | with_reducible refine Keeps.ite (fun _ => ?_) (fun _ => ?_)

theorem setSent_keeps {r s dst job seq f} (h : Keeps r s) : Keeps r (setSent s dst job seq f) := txSet_keeps h

theorem retransmit_keeps {r s a1 a2 a3} (h : Keeps r s) : Keeps r (retransmit s a1 a2 a3) := by
  unfold retransmit
  try dsimp only
  repeat'
    first
      | with_reducible assumption
      | with_reducible exact Keeps.rfl' _
      | with_reducible refine senderStatus_keeps ?_
      | with_reducible refine senderStatus_keepsP ?_ (by assumption)
      | with_reducible refine takeAnswer_keeps ?_
      | with_reducible refine noteRefusal_keeps ?_
      | with_reducible refine setSent_keeps ?_
      | with_reducible refine sendTo_keeps ?_
      | with_reducible refine fset_keeps ?_
      | with_reducible refine Keeps.foldl _ ?_ (fun _ _ _ => ?_)
      | with_reducible refine Keeps.ite (fun _ => ?_) (fun _ => ?_)
      | (fail_if_no_progress with_reducible refine Keeps.upd (hd := rfl) ?_)
      | split

theorem abandonStatus_keeps {r s a1} (h : Keeps r s) : Keeps r (abandonStatus s a1).1 := by
  unfold abandonStatus
  try dsimp only
  repeat'
    first
      | with_reducible assumption
      | with_reducible exact Keeps.rfl' _
      | with_reducible refine fresh_keeps ?_
      | with_reducible refine Keeps.foldl _ ?_ (fun _ _ _ => ?_)
      | with_reducible refine Keeps.ite (fun _ => ?_) (fun _ => ?_)
      | (fail_if_no_progress with_reducible refine Keeps.upd (hd := rfl) ?_)
      | split

theorem abandonStatus_keepsP {r s a1 t x} (h : Keeps r s) (e : abandonStatus s a1 = (t, x)) : Keeps r t := by
  have := abandonStatus_keeps (a1 := a1) h
  rw [e] at this
  exact this

theorem requestTimeout_keeps {r s a1 a2 a3} (h : Keeps r s) : Keeps r (requestTimeout s a1 a2 a3) := by
  unfold requestTimeout
  try dsimp only
  repeat'
    first
      | with_reducible assumption
      | with_reducible exact Keeps.rfl' _
      | with_reducible refine txSet_keeps ?_
      | with_reducible refine fcount_keeps ?_
      | with_reducible refine emit_keeps ?_
      | with_reducible refine fillDelayList_keeps ?_
      | with_reducible refine abandonStatus_keeps ?_
      | with_reducible refine abandonStatus_keepsP ?_ (by assumption)
      | with_reducible refine result_keeps ?_
      | with_reducible refine Keeps.foldl _ ?_ (fun _ _ _ => ?_)
      | with_reducible refine Keeps.ite (fun _ => ?_) (fun _ => ?_)
      | (fail_if_no_progress with_reducible refine Keeps.upd (hd := rfl) ?_)
      | split

theorem retryDue_keeps {r s a1 a2 a3} (h : Keeps r s) : Keeps r (retryDue s a1 a2 a3) := by
  unfold retryDue
  try dsimp only
  repeat'
    first
      | with_reducible assumption
      | with_reducible exact Keeps.rfl' _
      | with_reducible refine fillDelayList_keeps ?_
      | with_reducible refine setSent_keeps ?_
      | with_reducible refine Keeps.foldl _ ?_ (fun _ _ _ => ?_)
      | with_reducible refine Keeps.ite (fun _ => ?_) (fun _ => ?_)
      | (fail_if_no_progress with_reducible refine Keeps.upd (hd := rfl) ?_)
      | split

theorem idleAck_keeps {r s a1 a2} (h : Keeps r s) : Keeps r (idleAck s a1 a2) := by
  unfold idleAck
  try dsimp only
  repeat'
    first
      | with_reducible assumption
      | with_reducible exact Keeps.rfl' _
      | with_reducible refine sendTo_keeps ?_
      | with_reducible refine txSet_keeps ?_
      | with_reducible refine Keeps.foldl _ ?_ (fun _ _ _ => ?_)
      | with_reducible refine Keeps.ite (fun _ => ?_) (fun _ => ?_)

theorem brgMgmt_keeps {r s a1 a2 a3} (h : Keeps r s) : Keeps r (brgMgmt s a1 a2 a3) := by
  unfold brgMgmt
  try dsimp only
  repeat'
    first
      | with_reducible assumption
      | with_reducible exact Keeps.rfl' _
      | with_reducible refine brgSend_keeps ?_
      | with_reducible refine mgmtBad_keeps ?_
      | with_reducible refine mgmtWrite_keeps ?_
      | with_reducible refine mgmtWrite_keepsP ?_ (by assumption)
      | with_reducible refine mgmtRead_keeps ?_
      | with_reducible refine mgmtRead_keepsP ?_ (by assumption)
      | with_reducible refine Keeps.foldl _ ?_ (fun _ _ _ => ?_)
      | with_reducible refine Keeps.ite (fun _ => ?_) (fun _ => ?_)
      | (fail_if_no_progress with_reducible refine Keeps.upd (hd := rfl) ?_)
      | split

theorem brgDispatch_keeps {r s a1 a2 a3} (h : Keeps r s) : Keeps r (brgDispatch s a1 a2 a3) := by
  unfold brgDispatch
  try dsimp only
  repeat'
    first
      | with_reducible assumption
      | with_reducible exact Keeps.rfl' _
      | with_reducible refine submit_keeps ?_
      | with_reducible refine brgAnswer_keeps ?_
      | with_reducible refine enterEgress_keeps ?_
      | with_reducible refine packetIn_keeps ?_
      | with_reducible refine brgMgmt_keeps ?_
      | with_reducible refine powerMessage_keeps ?_
      | with_reducible refine Keeps.foldl _ ?_ (fun _ _ _ => ?_)
      | with_reducible refine Keeps.ite (fun _ => ?_) (fun _ => ?_)
      | (fail_if_no_progress with_reducible refine Keeps.upd (hd := rfl) ?_)
      | split

theorem brgRelease_keeps {r s} (h : Keeps r s) : Keeps r (brgRelease s) := by
  unfold brgRelease
  try dsimp only
  repeat'
    first
      | with_reducible assumption
      | with_reducible exact Keeps.rfl' _
      | with_reducible refine brgDispatch_keeps ?_
      | with_reducible refine Keeps.foldl _ ?_ (fun _ _ _ => ?_)
      | with_reducible refine Keeps.ite (fun _ => ?_) (fun _ => ?_)
      | (fail_if_no_progress with_reducible refine Keeps.upd (hd := rfl) ?_)

end Sys2Proof.Machine
end

