-- ==== Sys2Proof/WellFormed.lean ====
section
/-!
DEFINITION. Which commands are well formed: a row carries what its name says, and its operands are values that the spec gives them.
`exec` does not ask: it has a meaning for ill-formed commands too.
-/

namespace Sys2Proof

/-- Bits [lo+w-1:lo] of a number. -/
def bits (v lo w : Nat) : Nat := v / 2 ^ lo % 2 ^ w

/-- A depot address names a byte of the 48 GiB (R151), and a line number a line of them. -/
def inDepot (a : BitVec 36) : Bool := decide (a.toNat < 0xC00000000)
def inLines (l : BitVec 30) : Bool := decide (l.toNat < 0x30000000)

/-- A transaction header of kind `k` with as many data flits as its NFLIT says (R207). -/
def packetOk (hdr : BitVec 448) (k n : Nat) : Bool := bits hdr.toNat 0 8 == k && bits hdr.toNat 241 7 == n

/-- A lane that the port has: eight on a fabric port, two on a signal port (R18). -/
def laneOk (p : PortId) (n : BitVec 3) : Bool := match p with
  | .fab _ => true
  | .sig _ => decide (n.toNat < 2)

/-- The message types of the Lysdex link that the companion sends (R479). -/
def messageTypes : List Nat := [1, 2, 3, 4, 5, 6, 7, 8, 9, 0x0A, 0x10, 0x11, 0x20, 0x21]

/-- Well-formed commands. -/
def Instr.wf (i : Instr) : Bool :=
  match i with
  | .mgmtRegisterWrite _ wide value => wide || value.toNat / 2 ^ 32 == 0
  | .add .. => true
  | .sub .. => true
  | .and .. => true
  | .or .. => true
  | .xor .. => true
  | .shl .. => true
  | .shr .. => true
  | .sra .. => true
  | .mul .. => true
  | .mulh .. => true
  | .min .. => true
  | .max .. => true
  | .slt .. => true
  | .sltu .. => true
  | .div .. => true
  | .divu .. => true
  | .rem .. => true
  | .remu .. => true
  | .lui .. => true
  | .ld .. => true
  | .st .. => true
  | .b .. => true
  | .bcf .. => true
  | .jal .. => true
  | .jr .. => true
  | .mma4 .. => true
  | .mma8 .. => true
  | .mma16 .. => true
  | .mrd .. => true
  | .arrayAdmitOpener .. => true
  | .arrayGroupLatch .. => true
  | .arrayDrainDone .. => true
  | .tileScrubWrite .. => true
  | .vld .. => true
  | .vst .. => true
  | .vbc .. => true
  | .vadd .. => true
  | .vsub .. => true
  | .vmul .. => true
  | .vfma .. => true
  | .vfma2 .. => true
  | .vmin .. => true
  | .vmax .. => true
  | .vcmp .. => true
  | .vsel .. => true
  | .vdiv .. => true
  | .vrsq .. => true
  | .vexp2 .. => true
  | .vsexp .. => true
  | .vsmax .. => true
  | .vred .. => true
  | .vcvt .. => true
  | .vabs .. => true
  | .viadd .. => true
  | .vand .. => true
  | .vor .. => true
  | .vxor .. => true
  | .vlane .. => true
  | .xget .. => true
  | .xput .. => true
  | .xgetp .. => true
  | .xwait .. => true
  | .fence .. => true
  | .ldg .. => true
  | .stg .. => true
  | .amo .. => true
  | .tevInc .. => true
  | .tevWait .. => true
  | .halt .. => true
  | .tstart .. => true
  | .crd .. => true
  | .cwr .. => true
  | .remoteResponseArrival .. => true
  | .tileCtlRun .. => true
  | .tileCtlStart .. => true
  | .tileCtlAbort .. => true
  | .tileCtlCntClr .. => true
  | .tileArrayCntClr .. => true
  | .blkCtlRetire .. => true
  | .retirementTakesEffect .. => true
  | .retiredMapTaken .. => true
  | .homeLoad addr _ _ _ => inDepot addr
  | .homeStore addr _ _ _ => inDepot addr
  | .homeAdd addr wide operand _ => inDepot addr && (wide || operand.toNat / 2 ^ 32 == 0)
  | .homeMin addr wide operand _ => inDepot addr && (wide || operand.toNat / 2 ^ 32 == 0)
  | .homeMax addr wide operand _ => inDepot addr && (wide || operand.toNat / 2 ^ 32 == 0)
  | .homeXor addr wide operand _ => inDepot addr && (wide || operand.toNat / 2 ^ 32 == 0)
  | .homeSwap addr wide operand _ => inDepot addr && (wide || operand.toNat / 2 ^ 32 == 0)
  | .homeCompareAndSwap addr wide operand compare _ => inDepot addr && (wide || operand.toNat / 2 ^ 32 == 0 && compare.toNat / 2 ^ 32 == 0)
  | .homeExactInt32Accumulate addr _ _ => inDepot addr
  | .homeFp32Add addr _ _ => inDepot addr
  | .depotFillComplete line _ _ _ => inLines line
  | .hotLineSlot line => inLines line
  | .hotQueueRelease line => inLines line
  | .closureRecordMove .. => true
  | .depChRetrain .. => true
  | .channelRetrainDone .. => true
  | .depScrubNow .. => true
  | .depCntClr .. => true
  | .scrubAccess .. => true
  | .refreshTimer .. => true
  | .ingressLoad _ hdr data => packetOk hdr 1 data.length
  | .ingressStore _ hdr data => packetOk hdr 2 data.length
  | .ingressAtomic _ hdr data => packetOk hdr 3 data.length
  | .ingressRead _ hdr data => packetOk hdr 4 data.length
  | .ingressWrite _ hdr data => packetOk hdr 5 data.length
  | .ingressBatch _ hdr data => packetOk hdr 6 data.length
  | .ingressAck _ hdr data => packetOk hdr 7 data.length
  | .ingressTaken .. => true
  | .responseArrival _ hdr => bits hdr.toNat 0 8 == 0x80
  | .readDataArrival _ hdr data => bits hdr.toNat 0 8 == 0x81 && data.length == bits hdr.toNat 224 7
  | .retransmitTimer .. => true
  | .requestTimeout .. => true
  | .retryDelayExpiry .. => true
  | .idleAckTimer .. => true
  | .gatewayBatchDelay .. => true
  | .winWriteWindow .. => true
  | .winBindJob .. => true
  | .winUnbindJob .. => true
  | .winCommitComplete => true
  | .headFlitReceived .. => true
  | .dataFlitReceived .. => true
  | .idleFlitReceived .. => true
  | .controlFlitReceived .. => true
  | .linkNak .. => true
  | .linkReplay .. => true
  | .missNotice .. => true
  | .linkRtoExpiry .. => true
  | .creditReportTimer .. => true
  | .throttleRelease .. => true
  | .shnGather _ _ _ cmd => bits cmd.toNat 0 4 == 0
  | .shnGatherRange _ _ _ cmd => bits cmd.toNat 0 4 == 1
  | .shnScatter _ _ _ cmd => bits cmd.toNat 0 4 == 2
  | .shnCommandComplete .. => true
  | .shnCntClr => true
  | .markerReceived port lane _ _ => laneOk port lane
  | .laneRestoreTimer port lane => laneOk port lane
  | .widthChangeEffect .. => true
  | .ringLoopUpdate port _ lane _ => laneOk port lane
  | .ringRelockDone port lane _ _ => laneOk port lane
  | .ringResweepTimer port lane => laneOk port lane
  | .laserBiasLoop .. => true
  | .laserBiasDaily .. => true
  | .changeoverStart .. => true
  | .changeoverDeferExpiry .. => true
  | .understudyOnGrid .. => true
  | .laserFailure .. => true
  | .lasCtlChange .. => true
  | .presenceSeen .. => true
  | .presenceLost .. => true
  | .bankLightUp .. => true
  | .portTrainingComplete .. => true
  | .portCtlRetrain .. => true
  | .portCtlRelock .. => true
  | .portCtlCntClr .. => true
  | .rehearsalDwell .. => true
  | .rehearsalNoPattern .. => true
  | .portSteerGo .. => true
  | .steerSwitchDone .. => true
  | .steerTimeout .. => true
  | .converterSample .. => true
  | .lossOfLight port lane => laneOk port lane
  | .heartbeatSendTimer => true
  | .ilkHeartbeat _ rec => bits rec.toNat 0 8 == 1
  | .ilkProbe _ rec => bits rec.toNat 0 8 == 2
  | .ilkAnswer _ rec => bits rec.toNat 0 8 == 3
  | .ilkRequest _ rec => bits rec.toNat 0 8 == 4
  | .ilkPropose _ rec => bits rec.toNat 0 8 == 5
  | .ilkVote _ rec => bits rec.toNat 0 8 == 6
  | .epochRecord _ rec => bits rec.toNat 0 8 == 7
  | .ilkEpochAck _ rec => bits rec.toNat 0 8 == 8
  | .ilkFetch _ rec => bits rec.toNat 0 8 == 9
  | .ilkVerdict _ rec => bits rec.toNat 0 8 == 10
  | .ilkHall _ rec => bits rec.toNat 0 8 == 11
  | .ilkPortcheck _ rec => bits rec.toNat 0 8 == 12
  | .suspicionTimeout .. => true
  | .probeRepeat .. => true
  | .probeConfirmTimeout .. => true
  | .chairHandoverTimeout .. => true
  | .voteTimeout => true
  | .requestResend .. => true
  | .epochResendTimer => true
  | .epochCompleteTimeout => true
  | .epochLogbookTimer => true
  | .portcheckSendTimer => true
  | .portcheckMissing .. => true
  | .fetchRetry => true
  | .boxSilenceFence => true
  | .selfCheckDone .. => true
  | .formWaitExpiry => true
  | .hallWaitExpiry => true
  | .ilkCtlExpel .. => true
  | .ilkCtlLeave => true
  | .ilkCtlReadmit => true
  | .partnerCopyDone .. => true
  | .districtChangeEnd => true
  | .standbyPowerUp => true
  | .presenceDebounced .. => true
  | .presenceContactBreak .. => true
  | .hotSwapFault .. => true
  | .modPowerOn => true
  | .modPowerOff => true
  | .modDrain .. => true
  | .modReset => true
  | .resetRailsOn => true
  | .modLocate .. => true
  | .removalButton => true
  | .drainRelease => true
  | .drainWaitExpiry => true
  | .coolantWarning .. => true
  | .coolantFlowFault .. => true
  | .flowFaultSwitchOpen => true
  | .i3cPrivateWrite .. => true
  | .i3cPrivateRead .. => true
  | .entdaa .. => true
  | .setdasa .. => true
  | .setnewda .. => true
  | .rstdaa => true
  | .enec => true
  | .disec => true
  | .getpid => true
  | .getbcr => true
  | .getdcr => true
  | .getstatus => true
  | .getmwl => true
  | .getmrl => true
  | .lrstN .. => true
  | .lysLinkUp .. => true
  | .lysTrainRetry => true
  | .lysFeature hdr => bits hdr.toNat 0 8 == 33
  | .lysFeatureTimeout => true
  | .lysFlit .. => true
  | .lysReplayTimeout => true
  | .lysLoad hdr => bits hdr.toNat 0 8 == 1
  | .lysStore hdr payload => bits hdr.toNat 0 8 == 2 && payload.length == 1
  | .lysAtomic hdr payload => bits hdr.toNat 0 8 == 3 && payload.length == 1
  | .lysRead hdr => bits hdr.toNat 0 8 == 4
  | .lysWrite hdr payload => bits hdr.toNat 0 8 == 5 && payload.length == 4 * (bits hdr.toNat 40 6 + 1)
  | .lysReadShared hdr => bits hdr.toNat 0 8 == 6
  | .lysReadOwn hdr => bits hdr.toNat 0 8 == 7
  | .lysEvict hdr => bits hdr.toNat 0 8 == 8
  | .lysWriteback hdr payload => bits hdr.toNat 0 8 == 9 && payload.length == 4
  | .lysRecallAck hdr payload => bits hdr.toNat 0 8 == 10 && payload.length == 4 * bits hdr.toNat 32 1
  | .lysMgmtRd hdr => bits hdr.toNat 0 8 == 16
  | .lysMgmtWr hdr payload => bits hdr.toNat 0 8 == 17 && payload.length == 1
  | .lysCredit hdr => bits hdr.toNat 0 8 == 32
  | .lysReservedMt hdr => !messageTypes.contains (bits hdr.toNat 0 8)
  | .recallTimeout .. => true
  | .lysCtlRetrain => true
  | .lysCtlCntClr => true
  | .powerGood .. => true
  | .selfTestComplete .. => true
  | .switchDiscoveryDone => true
  | .recoveryChunkGo .. => true
  | .secWriteBank => true
  | .secWriteConfig => true
  | .secEnrol => true
  | .secLiveLoad => true
  | .secUpdateDone .. => true
  | .liveLoadCoreDone .. => true
  | .secAttest => true
  | .attestDone => true
  | .logbookAppend .. => true
  | .classBWriteTimer => true
  | .logRecordWrite => true
  | .cuePointWrite => true
  | .modeCtlGo .. => true
  | .modeCfgWrite .. => true
  | .modeRequestComplete => true
  | .appCoreGlobalAccess .. => true
  | .appCoreAmo .. => true
  | .cueNop .. => true
  | .cueShift .. => true
  | .cuePermute .. => true
  | .cueInc .. => true
  | .cueClose .. => true
  | .cueReady .. => true
  | .cuePoints .. => true
  | .mboxAnnounce _ record => bits record.toNat 0 8 == 1
  | .mboxInc _ record => bits record.toNat 0 8 == 2
  | .mboxArm _ record => bits record.toNat 0 8 == 3
  | .mboxArmc _ record => bits record.toNat 0 8 == 4
  | .mboxDone _ record => bits record.toNat 0 8 == 5
  | .mboxCommit _ record => bits record.toNat 0 8 == 6
  | .mboxAbort _ record => bits record.toNat 0 8 == 7
  | .mboxAccept _ record => bits record.toNat 0 8 == 8
  | .mboxReady _ record => bits record.toNat 0 8 == 16
  | .mboxNotYet _ record => bits record.toNat 0 8 == 17
  | .mboxPoison _ record => bits record.toNat 0 8 == 18
  | .mboxStepOpen _ record => bits record.toNat 0 8 == 19
  | .mboxConsist _ record => bits (record.getD 0 0).toNat 0 8 == 20
  | .mboxTakeover _ record => bits record.toNat 0 8 == 21
  | .consistStandbyAck .. => true
  | .cueMessageComplete .. => true
  | .closeRoundTimeout .. => true
  | .stepDeadline .. => true
  | .stepBackstop .. => true
  | .takeoverWaitExpiry .. => true
  | .stmReplayOff .. => true
  | .cueCtlAbort .. => true
  | .cueCtlCntClr => true
  | .brgControlFlit .. => true
  | .brgPacket .. => true
  | .brgPowerMessage .. => true
  | .brgRetryTimeout .. => true
  | .brgTrainStart msg => bits msg.toNat 0 8 == 1
  | .brgPrbsDone _ failed => failed.all (fun x => decide (x.1.toNat < 68))
  | .brgTrainMap msg => bits msg.toNat 0 8 == 2
  | .brgTrainAgree msg => bits msg.toNat 0 8 == 3
  | .brgTrainEcho msg => bits msg.toNat 0 8 == 4
  | .brgTrainRefuse msg => bits msg.toNat 0 8 == 5
  | .brgEchoTimeout => true
  | .brgRetrain => true
  | .brgPresetUp => true
  | .brgPresetDown => true
  | .brgCntClr => true
  | .watchdogExpiry .. => true
  | .blockLinkStall .. => true
  | .fwStoreUncorr .. => true
  | .presetReturn .. => true
  | .presetHoldExpiry .. => true
  | .clockLoss => true
  | .crystalLoss => true
  | .powerMessageTimer .. => true
  | .grantEffect .. => true
  | .slowControlTick .. => true
  | .fastTrip .. => true
  | .fastTripEnd .. => true
  | .adaptiveLoopTick .. => true
  | .thermalModelUpdate _ _ _ _ power => power.all (fun x => decide (x.1.toNat < 34))
  | .t4ThrottleStep .. => true
  | .calibration _ offsets _ => offsets.all (fun x => decide (x.1.toNat < 34))
  | .arrayInstructionComplete .. => true

end Sys2Proof
end

