-- ==== Sys2Proof/Tests/Slice0.lean ====
section
/-!
SUPPORT. Tests of the model on small states, and a state and operands that meet the hypotheses of each statement. What a test
expects is worked out by hand from the rule it names.
-/

namespace Sys2Proof.Tests

open Sys2Proof Sys2Proof.Machine

set_option Elab.async false

/-! ## Helpers -/

/-- Whether a command answers a next state that `p` accepts. -/
def after (o : Res) (p : State → Bool) : Bool := match o with
  | .next t => p t
  | _ => false

/-- An instruction's fields: each value at the lowest bit that the word gives it. -/
def ins (fs : List (Nat × Nat)) : BitVec 56 := BitVec.ofNat 56 ((fs.map (fun p => p.2 * 2 ^ (p.1 - 8))).sum)

/-- Thread 0 of tile 0. -/
def x0 : Issue := ⟨0, 0, [], 0⟩

/-- A tile whose thread 0 is `t`, and the state in which it runs. -/
def th0 (t : Thread) : Tile := { threads := t :: List.replicate 7 {} }
def run (ti : Tile) : State := tset (fset State.reset F.TILE_CTL_RUN 0 1) 0 ti

/-- Registers s1 = a and s2 = b of a ready thread. -/
def rdy (a b : W64) : State := run (th0 { st := .ready, s := [(1, a), (2, b)] })

/-! ## The tile -/

theorem test_ready : Ready x0 (rdy 5 7) := ⟨by decide +kernel, rfl, by decide +kernel, by decide +kernel⟩
theorem test_ready_top : Ready x0 (run (th0 { st := .ready, pc := 0x7FF8 })) :=
  ⟨by decide +kernel, rfl, by decide +kernel, by decide +kernel⟩

/-- ADD s3 = s1 + s2 (R106): bits [12:8] 3, [17:13] 1, [22:18] 2. -/
def addWord : BitVec 56 := ins [(8, 3), (13, 1), (18, 2)]
theorem test_scalar_form : opFn addWord = 0 ∧ opD addWord = 3 ∧ opA addWord = 1 ∧ opB addWord = 2 ∧ opI addWord = false := by decide
theorem test_add_wraps : after (exec (.add x0 addWord) (rdy (BitVec.allOnes 64) 2)) (fun t => (thr t x0).sreg 3 == 1 && (thr t x0).pc == 8) = true := by
  decide +kernel
theorem test_sra_sign : after (exec (.sra x0 addWord) (rdy 0x8000000000000000 63)) (fun t => (thr t x0).sreg 3 == BitVec.allOnes 64) = true := by
  decide +kernel
theorem test_s0_reads_zero : after (exec (.add x0 (ins [(13, 1), (18, 2)])) (rdy 5 7)) (fun t => (thr t x0).sreg 0 == 0) = true := by decide +kernel
theorem test_mulh_sign : after (exec (.mulh x0 addWord) (rdy (BitVec.allOnes 64) 2)) (fun t => (thr t x0).sreg 3 == BitVec.allOnes 64) = true := by
  decide +kernel
theorem test_lui : after (exec (.lui x0 (ins [(8, 3), (23, 1), (32, 0x80000000)])) (rdy 0 0)) (fun t => (thr t x0).sreg 3 == 0x8000000000000000) = true := by
  decide +kernel
theorem test_lui_form : opFn (ins [(8, 3), (23, 1), (32, 1)]) = 0 ∧ opI (ins [(8, 3), (23, 1), (32, 1)]) = true := by decide
theorem test_div_by_zero : after (exec (.div x0 addWord) (rdy 9 0)) (fun t => (thr t x0).sreg 3 == BitVec.allOnes 64) = true := by decide +kernel
theorem test_rem_corner : after (exec (.rem x0 addWord) (rdy 0x8000000000000000 (BitVec.allOnes 64))) (fun t => (thr t x0).sreg 3 == 0) = true := by
  decide +kernel
theorem test_division_witness : op2 (thr (rdy 9 0) x0) addWord = 0
    ∧ (thr (rdy 0x8000000000000000 (BitVec.allOnes 64)) x0).sreg (opA addWord) = BitVec.ofInt 64 (-2 ^ 63)
    ∧ op2 (thr (rdy 0x8000000000000000 (BitVec.allOnes 64)) x0) addWord = BitVec.ofInt 64 (-1) := by decide +kernel
/-- A reserved FN faults with cause 1 (R105, R131). -/
theorem test_illegal : after (exec (.add x0 (ins [(24, 1)])) (rdy 5 7)) (fun t =>
    (thr t x0).st == .faulted && fget t F.TILE_FAULT_CAUSE 0 == 1 && fget t F.TILE_FAULT_VALID 0 == 1) = true := by decide +kernel
theorem test_illegal_witness : (opFn (ins [(24, 1)]) == 0) = false := by decide
theorem test_not_ready : canIssue State.reset 0 0 = false ∧ fget State.reset F.TILE_CTL_RUN 0 ≠ 1 := by decide +kernel
theorem test_frame_witness : after (exec (.add x0 addWord) (rdy 5 7)) (fun t => fget t F.TILE_ISSUED_COUNT 0 == 1) = true := by decide +kernel

/-- LD of 2 bytes, sign-extended, at s1 + 2 (R108): FN 5, I 1. -/
def ldWord : BitVec 56 := ins [(8, 3), (13, 1), (23, 1), (24, 5), (32, 2)]
theorem test_ld : after (exec (.ld x0 ldWord) (run { th0 { st := .ready, s := [(1, 0x40)] } with store := [(0x42, 0xFE), (0x43, 0xFF)] }))
    (fun t => (thr t x0).sreg 3 == BitVec.ofInt 64 (-2)) = true := by decide +kernel
theorem test_ld_witness : opI ldWord = true ∧ opFn ldWord < 8 ∧ localAddr (rdy 0x7FFFC 0) x0 ldWord = 0x7FFFE
    ∧ localAddr (rdy 0x7FFFC 0) x0 ldWord % ldWidth ldWord = 0 ∧ blockPending (ati (rdy 0x7FFFC 0) x0) 0x1FFF = false := by decide +kernel
theorem test_st : after (exec (.st x0 (ins [(13, 1), (18, 2), (23, 1), (24, 1)])) (rdy 0x40 0x12345678))
    (fun t => mreadLE (ati t x0).store 0x40 4 == 0x5678) = true := by decide +kernel
theorem test_ld_misaligned : after (exec (.ld x0 ldWord) (rdy 0x41 0)) (fun t => fget t F.TILE_FAULT_CAUSE 0 == 2) = true := by decide +kernel
theorem test_ld_past_end : after (exec (.ld x0 ldWord) (rdy 0x7FFFE 0)) (fun t => fget t F.TILE_FAULT_CAUSE 0 == 2) = true := by decide +kernel
/-- Six wrong symbols of a block are beyond the code (R50). -/
def bad6 : Damage := 0x0000060005000400030201
theorem test_uncorrectable : decodeBlock 4 [] bad6 = .uncorrectable := by decide +kernel
def badStore : State := run { th0 { st := .ready, s := [(1, 0x3E)] } with storeErr := [(1, bad6)] }
theorem test_ld_uncorrectable_witness : Ready x0 badStore ∧ localAddr badStore x0 ldWord = 0x40
    ∧ blockPending (ati badStore x0) 1 = false ∧ decodeBlock 4 [] (mget (ati badStore x0).storeErr 1 0) = .uncorrectable :=
  ⟨⟨by decide +kernel, rfl, by decide +kernel, by decide +kernel⟩, by decide +kernel⟩
theorem test_ld_uncorrectable : after (exec (.ld x0 ldWord) badStore) (fun t => fget t F.TILE_FAULT_CAUSE 0 == 3) = true := by decide +kernel

/-- B with CC 2 (signed less), OFF −1 (R109). -/
def bWord : BitVec 56 := ins [(13, 1), (18, 2), (24, 2), (32, 0xFFFFFFFF)]
def at8 (a b : W64) : State := run (th0 { st := .ready, pc := 8, s := [(1, a), (2, b)] })
theorem test_branch_form : bResOk bWord true = true ∧ opCc bWord = 2 ∧ bResOk (ins [(13, 1)]) false = true := by decide
theorem test_branch_taken : after (exec (.b x0 bWord) (at8 (BitVec.allOnes 64) 0)) (fun t => (thr t x0).pc == 0) = true := by decide +kernel
theorem test_branch_not_taken : after (exec (.b x0 bWord) (at8 0 0)) (fun t => (thr t x0).pc == 16) = true := by decide +kernel
theorem test_branch_outside : after (exec (.b x0 bWord) (rdy (BitVec.allOnes 64) 0)) (fun t => fget t F.TILE_FAULT_CAUSE 0 == 2) = true := by
  decide +kernel
theorem test_jal_link : after (exec (.jal x0 (ins [(8, 3), (32, 2)])) (at8 0 0)) (fun t => (thr t x0).pc == 24 && (thr t x0).sreg 3 == 16) = true := by
  decide +kernel
/-! ## Vector operations -/

/-- VADD v2 = v0 + v1 (R115): VD [11:8], VA [15:12], VB [19:16]. -/
def vWord : BitVec 56 := ins [(8, 2), (16, 1)]
def vst8 : State := run (th0 { st := .ready, s := [(1, 0x7FF00)], v := [(0, 0x3F800000), (64, 0x40000000)] })
theorem test_lane_witness : Ready x0 vst8 ∧ vResOk vWord false false = true ∧ vFn vWord < 4 :=
  ⟨⟨by decide +kernel, rfl, by decide +kernel, by decide +kernel⟩, by decide⟩
theorem test_vadd : after (exec (.vadd x0 vWord) vst8) (fun t => ln t x0 2 0 == 0x40400000 && ln t x0 2 1 == 0) = true := by decide +kernel
theorem test_vred_form : vResOk (ins [(26, 2), (38, 1)]) false true = true ∧ vFn (ins [(26, 2), (38, 1)]) < 3 ∧ vFn (ins [(38, 1)]) % 4 ≠ 0 := by decide
theorem test_vld_witness : vResOk (ins [(28, 1)]) true false = true
    ∧ ((thr vst8 x0).sreg (vSA (ins [(28, 1)])) + BitVec.ofInt 64 (vOff (ins [(28, 1)]))).toNat = 0x7FF00 ∧ vBlocks (vTy (ins [(28, 1)])) = 4
    ∧ (∀ k < 4, blockPending (ati vst8 x0) (0x7FF00 / 64 + k) = false) := by decide +kernel

/-! ## The array -/

def grp1 : Group where
  id := 0
  owner := 0
  packed := false
  fa := 0
  fb := 0
  ma := false
  mb := false
  align := 0
  pdesc := 0
  plist := none
  listWait := false
  listLost := false
  count := 1
  cells := []
  flags := 0
  poison := false
  readOut := none
def mat (a : ArrayState) : State := run { th0 { st := .ready } with array := a }
theorem test_open_witness : Ready x0 (mat {}) ∧ wf (ins [(20, 1)]) 47 17 = 0 ∧ wb (ins [(20, 1)]) 20 = true ∧ (ati (mat {}) x0).array.open? = none :=
  ⟨⟨by decide +kernel, rfl, by decide +kernel, by decide +kernel⟩, by decide +kernel⟩
theorem test_join_witness : (ati (mat { groups := [grp1], openG := some 0, nextId := 1 }) x0).array.open? = some grp1 ∧ wb 0 20 = false := by decide +kernel
theorem test_foreign_witness : (ati (mat { groups := [{ grp1 with owner := 3 }], openG := some 0 }) x0).array.open?.map (·.owner) = some 3 := by decide +kernel
/-- A matrix instruction that joins no open group of its thread is a sequence error (R42). -/
theorem test_mma_sequence : after (exec (.mma8 x0 0) (mat {})) (fun t => fget t F.TILE_FLAGS_SEQ 0 == 1 && (thr t x0).pc == 8) = true := by decide +kernel
theorem test_mma_opens : after (exec (.mma8 x0 (ins [(20, 1)])) (mat {})) (fun t => (ati t x0).array.openG == some 0 && inArray (ati t x0) == 1) = true := by
  decide +kernel
theorem test_mrd_closes : after (exec (.mrd x0 0) (mat { groups := [grp1], openG := some 0 })) (fun t => (ati t x0).array.openG == none) = true := by
  decide +kernel

def q0 : QInstr := ⟨0, 0, 1, 0, 0, 0, false, false, 0, []⟩
def ro0 : ReadOut := ⟨0, 0x1000, 0, false, 0, 0, 0, 0, 0⟩
def heldOpener : State := run { threads := { st := .held } :: List.replicate 7 {}, array := { waiters := [⟨0, 0, 0, 0, 0⟩] } }
theorem test_admit_witness : ((tget heldOpener 0).th 0).st = .held ∧ (tget heldOpener 0).array.openG = none ∧ (tget heldOpener 0).array.queue.length < 4 := by
  decide +kernel
theorem test_complete_witness : feedWaits (tget (mat { groups := [grp1], running := some q0 }) 0).array q0 = false := by decide +kernel
def latched : State := run { th0 {} with array := { latch := some { grp1 with readOut := some ro0 } } }
theorem test_drain_witness : ∃ ds, destBlocks { grp1 with readOut := some ro0 } ro0 = some ds ∧ (ds.map (·.1)).Nodup ∧ ro0.thread < (tget latched 0).threads.length :=
  ⟨_, rfl, by decide +kernel, by decide +kernel⟩
def upset : State := run { th0 {} with storeErr := [(1, 0x41)], scrubs := [1] }
theorem test_scrub_witness : ∃ e, 1 ∈ (tget upset 0).scrubs ∧ decodeBlock 4 [] (mget (tget upset 0).storeErr 1 0) = .corrected e :=
  ⟨0, by decide +kernel, by decide +kernel⟩
theorem test_scrub : after (exec (.tileScrubWrite 0 1) upset) (fun t => (tget t 0).storeErr == [] && (tget t 0).scrubs == []) = true := by decide +kernel

/-! ## Threads, retirement and remote accesses -/

theorem test_tev_witness : opI (ins [(23, 1), (24, 15), (32, 255)]) = true ∧ opFn (ins [(23, 1), (24, 15), (32, 255)]) < 16
    ∧ wf (ins [(23, 1), (24, 15), (32, 255)]) 32 32 = 255 ∧ readOutPending (ati (rdy 0 0) x0) 0 = false := by decide +kernel
theorem test_tev_inc : after (exec (.tevInc x0 (ins [(23, 1), (24, 15), (32, 255)])) (rdy 0 0)) (fun t => mget (ati t x0).events 15 0 == 255) = true := by
  decide +kernel
theorem test_tstart : after (exec (.tstart x0 (ins [(8, 1), (13, 1), (18, 2)])) (rdy 3 0x7FF8)) (fun t =>
    ((ati t x0).th 3).pc == 0x7FF8 && ((ati t x0).th 3).sreg 1 == 3 && ((ati t x0).th 3).st == .ready) = true := by decide +kernel
theorem test_tstart_busy : after (exec (.tstart x0 (ins [(13, 1), (18, 2)])) (rdy 0 0)) (fun t => fget t F.TILE_FAULT_CAUSE 0 == 8) = true := by decide +kernel
theorem test_crd_tile : (1, 0) ∈ controlRegs (rdy 0 0) x0 ∧ (0x7F, 0) ∈ controlRegs (rdy 0 0) x0 := by decide +kernel
theorem test_cwr_readonly : after (exec (.cwr x0 0) (rdy 0 0)) (fun t => fget t F.TILE_FAULT_CAUSE 0 == 7) = true := by decide +kernel
theorem test_tile_control_witness : tileRetired State.reset 4095 = false ∧ allIdle (tget State.reset 4095) = true ∧ outstanding State.reset 4095 = 0
    ∧ tileRetired (fset State.reset F.BLK_RETIRED_MAP 63 (2 ^ 63)) 4095 = true := by decide +kernel
theorem test_retire_pends : bitAt (fget (fset State.reset F.BLK_RETIRE_PEND_MAP 63 (2 ^ 63)) F.BLK_RETIRE_PEND_MAP 63) 63 = true := by decide +kernel
theorem test_ldg_witness : opI (ins [(23, 1)]) = true ∧ opFn (ins [(23, 1)]) < 2 ∧ canSendNow (rdy 0 0) 0 0 1 = true ∧ canRecord (rdy 0 0) (thr (rdy 0 0) x0) 0 0 = true
    ∧ xfersOpen (ati (rdy 0 0) x0) < 32 := by decide +kernel
def full : State := { rdy 0 0 with
  fab := { tx := [⟨0, 0, 0, 0, [], [(req0 1 0 0, .none)], 0⟩] }, regs := (fset (fset (fset (fset (rdy 0 0) F.MOD_DEVICE_ID_ID 0 0) F.MOD_DEVICE_ID_VALID 0 1)
    F.WIN_JOB_BOUND 0 1) F.ILK_MEMBERS_MAP 0 1).regs }
theorem test_ldg_held_witness : canSendNow full 0 0 1 = false := by decide +kernel
theorem test_xwait_witness : wf (ins [(23, 1), (32, 31)]) 32 32 < 32 ∧ fenceDone (rdy 0 0) 0 0 = true := by decide +kernel
def waiting : State := run { th0 { st := .out, wait := .op 0 } with ops := [⟨0, 0, 0, .load 3 true, 1, 0, true, none, 1⟩], nextOp := 1, arrivals := [⟨0, 0, 0, 77, []⟩] }
theorem test_arrival_witness : (tget waiting 0).ops.find? (fun o => o.id == 0) = some ⟨0, 0, 0, .load 3 true, 1, 0, true, none, 1⟩ := by decide +kernel
theorem test_arrival : after (exec (.remoteResponseArrival 0) waiting) (fun t => ((tget t 0).th 0).st == .ready && ((tget t 0).th 0).sreg 3 == 77) = true := by
  decide +kernel
/-! ## The depot -/

/-- The depot cache holds line 0. -/
def hit0 : State := { State.reset with dep := { cache := [(0, { ways := [(0, some ⟨0, false⟩)] })], mem := [(0, 5)] } }
theorem test_at_home : AtHome hit0 0 where
  inside := by decide
  room := by decide +kernel
  opened := by decide +kernel
  cold := by decide +kernel
  free := by decide +kernel
  ours := by decide +kernel
  hit := by decide +kernel
  sound := by decide +kernel
theorem test_unheld_top : Unheld State.reset 0xBFFFFFFFF :=
  ⟨by decide, by decide +kernel, by decide +kernel, by decide +kernel, by decide +kernel, by decide +kernel⟩
theorem test_miss_witness : cached State.reset (0xBFFFFFFC0 / 64) = false ∧ 0xBFFFFFFC0 < depotSize ∧ 0xBFFFFFFC4 % 64 ≠ 0 := by decide +kernel
theorem test_home_fault : exec (.homeLoad 0xC00000000 .w4 0 0) State.reset = .fault .depotAddress := by rfl
theorem test_home_add : after (exec (.homeAdd 0 false 0xFFFFFFFF 9) hit0) (fun t =>
    depRead t 0 4 == 4 && t.outbox == [.home 9 ⟨0, 5, some 1, 0⟩]) = true := by decide +kernel
/-- The marker of the exact accumulate (R176). -/
theorem test_accumulate_marker : after (exec (.homeExactInt32Accumulate 0 0x7FFFFFFF 9) hit0) (fun t => depRead t 0 4 == 0x80000000) = true := by
  decide +kernel
def fill0 : LineOp := ⟨.load, 0, 4, 0, 0, true, none, 0, false, false, false, .row 3⟩
def filling : State := { State.reset with dep := { fills := [fill0] } }
theorem test_fill_witness : filling.dep.fills.find? (fun o => o.line == 0) = some fill0 ∧ fget filling F.DEP_CH_STATUS_RETRAINING (lineChan 0) ≠ 1
    ∧ fget filling F.DEP_CH_STATUS_FAILED (lineChan 0) ≠ 1 ∧ lineErr filling 0 = 0
    ∧ decodeDepot (strict filling 0) (erasures filling (lineChan 0)) (lineErr filling 0 ^^^ bad6) = .uncorrectable := by decide +kernel
theorem test_fill_retrain_witness : fget (fset filling F.DEP_CH_STATUS_RETRAINING (lineChan 0) 1) F.DEP_CH_STATUS_RETRAINING (lineChan 0) = 1 := by
  decide +kernel
def hot0 : State := { State.reset with dep := { hot := [⟨0, [fill0], 0⟩] } }
theorem test_hot_witness : hotOf hot0 0 = some ⟨0, [fill0], 0⟩ ∧ inService hot0 0 = false ∧ inService filling 0 = true := by decide +kernel
def closures : State := { State.reset with dep := { blocks := [⟨1, 0, 0, 0, true⟩] } }
theorem test_closure_witness : poolHasRoom closures .up = true ∧ closures.dep.blocks.find? (fun b => b.closure && lineHalf b.line == .up) = some ⟨1, 0, 0, 0, true⟩ := by
  decide +kernel
theorem test_scrub_wraps : after (exec (.scrubAccess .up 0 0) { State.reset with dep := { scrub := [(0, halfLines - 1)] } }) (fun t =>
    mget t.dep.scrub 0 0 == 0 && fget t F.DEP_SCRUB_PASSES 0 == 1) = true := by decide +kernel

/-! ## One memory space -/

/-- Device 0 of a district in which device 1 is a member too, with job 5 in slot 0. -/
def inService2 : State :=
  [(F.MOD_DEVICE_ID_ID, 0), (F.MOD_DEVICE_ID_VALID, 1), (F.ILK_MEMBERS_MAP, 3), (F.ILK_STATUS_MEMBER, 1), (F.WIN_JOB_BOUND, 1), (F.WIN_JOB_JOB, 5)].foldl
    (fun s x => fset s x.1 0 x.2) State.reset
/-- A STORE of one word from device 1 under job 5 with number 1: OP 2, JOB 5, SRC 1. -/
def storeHdr (seq : Nat) : BitVec 448 := BitVec.ofNat 448 (2 + 5 * 2 ^ 16 + 2 ^ 32 + seq * 2 ^ 64)
theorem test_arrives : Arrives inService2 31 (storeHdr 0) 1 5 0 :=
  ⟨by decide +kernel, by decide +kernel, .inl (by decide +kernel), by decide +kernel, by decide +kernel, by decide +kernel, by decide +kernel⟩
theorem test_taken_witness : member inService2 1 = true ∧ 5 ∉ inService2.fab.unbound ∧ fget inService2 F.ILK_STATUS_FENCED 0 ≠ 1
    ∧ (rxGet inService2 1 5).wait = [] ∧ 0 = ((rxGet inService2 1 5).taken + 1) % 2 ^ 32 ∧ (BitVec.ofNat 32 1023 - BitVec.ofNat 32 (rxGet inService2 1 5).cum).toNat ≤ 1024
    ∧ seqNewer 1023 (rxGet inService2 1 5).taken = true := by decide +kernel
/-- Device 0 after slot 0 was unbound. -/
def unbound5 : State := { inService2 with fab := { unbound := [5] } }
theorem test_refused_witness : admitted inService2 9 5 2 = false ∧ admitted unbound5 1 5 2 = true ∧ 5 ∈ unbound5.fab.unbound
    ∧ fget unbound5 F.ILK_STATUS_FENCED 0 ≠ 1 ∧ reqDefined (storeHdr 1) [] = true := by decide +kernel
theorem test_unbound_job : after (exec (.ingressStore 31 (storeHdr 1) []) unbound5) (fun t => fget t F.WIN_LAST_REFUSAL_STATUS == 1) = true := by
  decide +kernel
theorem test_not_member : after (exec (.ingressStore 31 (storeHdr 1 + 8 * 2 ^ 32) []) inService2) (fun t => fget t F.WIN_LAST_REFUSAL_STATUS == 8) = true := by
  decide +kernel
def ackHdr : BitVec 448 := BitVec.ofNat 448 (7 + 5 * 2 ^ 16 + 2 ^ 32 + 3 * 2 ^ 384)
def rxOpen : State := { inService2 with fab := { rx := [⟨1, 5, 3, [], [], [⟨2, 0, none⟩, ⟨4, 0, none⟩], []⟩] } }
theorem test_ack_witness : Arrives rxOpen 31 ackHdr 1 5 0 ∧ rxOpen.fab.rx.any (fun r => r.src == 1 && r.job == 5) = true :=
  ⟨⟨by decide +kernel, by decide +kernel, .inl (by decide +kernel), by decide +kernel, by decide +kernel, by decide +kernel, by decide +kernel⟩, by decide +kernel⟩
theorem test_ack : after (exec (.ingressAck 31 ackHdr []) rxOpen) (fun t => (rxGet t 1 5).retained.map (·.seq) == [4]) = true := by decide +kernel
def sent1 : Sent := ⟨1, 1, false, 0, { req0 4 5 (2 ^ 48) with total := 1 }, .app 0 2 3, 0, 0, none, false, false, false, false, []⟩
def txOpen (e : Sent) : State := { inService2 with fab := { tx := [⟨1, 5, 2, 0, [e], [], 0⟩] } }
theorem test_answer_witness : Arrives (txOpen sent1) 0 (BitVec.ofNat 448 (0x80 + 5 * 2 ^ 16 + 2 ^ 32 + 2 ^ 64)) 1 5 1
    ∧ (txGet (txOpen sent1) 1 5).sent.find? (fun e => e.seq == 1) = some sent1 ∧ sent1.who ≠ .none :=
  ⟨⟨by decide +kernel, by decide +kernel, .inl (by decide +kernel), by decide +kernel, by decide +kernel, by decide +kernel, by decide +kernel⟩, by decide +kernel⟩
theorem test_timer_witness : isOwn (txOpen sent1) 1 = false ∧ mayOriginate (txOpen sent1) = true
    ∧ (txGet (txOpen { sent1 with answered := some 7, delayed := true }) 1 5).sent.map (·.delayed) = [true]
    ∧ (txGet (txOpen { sent1 with who := .tile 0 0 0 }) 1 5).sent.map (·.who) = [.tile 0 0 0] := by decide +kernel
theorem test_retransmit_counts : after (exec (.retransmitTimer 1 5 1) (txOpen sent1)) (fun t => fget t F.WIN_RETX_COUNT == 1) = true := by decide +kernel
def waits : State := { inService2 with fab := { rx := [⟨1, 5, 0, [(storeHdr 1, [])], [], [], []⟩] } }
theorem test_wait_witness : (rxGet waits 1 5).wait.find? (fun w => hb w.1 64 32 == 1) = some (storeHdr 1, []) ∧ hb (storeHdr 1) 32 16 = 1 ∧ hb (storeHdr 1) 16 12 = 5 := by
  decide +kernel
theorem test_commit_witness : fget inService2 F.WIN_STATUS_BUSY ≠ 1 ∧ fget inService2 F.WIN_JOB_BOUND 0 = 1 ∧ stageBad State.reset = false
    ∧ jobSlot inService2 4095 = none ∧ devState State.reset = dsStart := by decide +kernel
theorem test_bind : after (exec (.winBindJob 63 0) State.reset) (fun t => fget t F.WIN_JOB_BOUND 63 == 1 && fget t F.WIN_STATUS_BUSY == 1) = true := by decide +kernel
/-! ## Links and the shunter -/

/-- Registers set in the reset state, each as field, index and value. -/
def withRegs (l : List (Fld × Nat × Nat)) : State := l.foldl (fun s x => fset s x.1 x.2.1 x.2.2) State.reset
def up33 : State := withRegs [(F.FAB_PORT_STATUS_LINK, 33, 1)]
theorem test_link_witness : canTake up33 33 = true ∧ canSend up33 33 = true ∧ fget up33 F.FAB_PORT_STATUS_HELD 33 ≠ 1
    ∧ fget up33 F.FAB_PORT_STATUS_DISCARD 33 ≠ 1 ∧ (lget up33 33).replayAt = none ∧ (lget up33 33).unacked = []
    ∧ canTake (fset up33 F.FAB_PORT_STATUS_DISCARD 33 1) 33 = true := by decide +kernel
def rxp : State := { up33 with links := { link := [(33, { rxPkt := some ⟨0, [], 1, false⟩ })] } }
theorem test_data_witness : (lget rxp 33).rxPkt ≠ none ∧ canTake rxp 33 = true := by decide +kernel
/-- An uncorrectable slot brings a NAK (R348). -/
theorem test_nak : after (exec (.dataFlitReceived (.sig .down) 0 bad6) up33) (fun t =>
    fget t F.FAB_PORT_STATUS_DISCARD 33 == 1 && fget t F.FAB_PORT_REPLAYS_NAKS 33 == 1 && t.outbox.length == 1) = true := by decide +kernel
theorem test_rto_witness : (lget { up33 with links := { link := [(33, { unacked := [⟨0, 0, 0, false, ⟨.up, 0, 0, false, 0, none, true, 0, []⟩⟩], replays := 8 })] } } 33).unacked.length = 1 := by
  decide +kernel
/-- GATHER of one row by tile 0: TADDR 0x40, EV 15. -/
def gather : BitVec 512 := BitVec.ofNat 512 (15 * 2 ^ 8 + 0x40 * 2 ^ 96)
theorem test_shn_witness : shnBad State.reset .up 0 gather = none ∧ shnRange gather (shCount gather) = false ∧ shnPending State.reset .up < 256
    ∧ shnBad State.reset .up 0 (gather + 15) = some 1 ∧ shnBad State.reset .down 0 gather = some 3 ∧ (∀ x ∈ State.reset.shn.cmds, x.id ≠ State.reset.shn.nextId) := by
  decide +kernel
theorem test_shn_refused : after (exec (.shnGather .down 0 0 gather) State.reset) (fun t =>
    mget (tget t 0).events 15 0 == 1 && fget t F.DEP_SHN_LAST_ERR_KIND == 3) = true := by decide +kernel

/-! ## Registers, the sideband and the cores -/

theorem test_newer_edges : seqNewer 0 0xFFFFFFFF = true ∧ seqNewer 0x7FFFFFFF 0 = true ∧ seqNewer 0x80000000 0 = false ∧ seqNewer 5 5 = false := by
  decide
/-- `DEP_CFG` of the up half (R184). -/
theorem test_register_witness : ∃ a i b, mgmtAt State.reset a false = .reg .DEP_CFG i b
    ∧ outOfRange State.reset .DEP_CFG i b 4 (merged State.reset .DEP_CFG i b 4 0) = true
    ∧ outOfRange State.reset .DEP_CFG i b 4 (merged State.reset .DEP_CFG i b 4 (bitsAt (regRead State.reset .DEP_CFG i) 0 32)) = false
    ∧ actingRegs.contains .DEP_CFG = false :=
  ⟨0x1400004, 0, 0, by decide +kernel⟩
theorem test_refused_register : mgmtAt State.reset 1 false = .bad ∧ mgmtAt (withRegs [(F.MOD_STATUS_UP_PRESET, 0, 1)]) 0x1100000 false = .gone .up
    ∧ mgmtAt (withRegs [(F.MODE_STATE_STATE, 0, 0)]) 0 false = .off := by decide +kernel
def busyTile : State := run (th0 { st := .ready })
theorem test_idle_only_witness : ∃ a b, mgmtAt busyTile a false = .reg .TILE_STEP 0 b ∧ allIdle (tget busyTile 0) = false
    ∧ allIdle (tget State.reset 0) = true ∧ outOfRange busyTile .TILE_STEP 0 b 4 (merged busyTile .TILE_STEP 0 b 4 7) = false :=
  ⟨17834072, 0, by decide +kernel⟩
theorem test_i3c_witness : i3cReach State.reset 0x7000FFC true = true ∧ i3cReach State.reset 0x7001000 true = false
    ∧ i3cReach State.reset 0x7000000 false = true ∧ ∃ i b, mgmtAt State.reset 0x7000000 false = .reg .MOD_MSTATUS i b :=
  ⟨by decide, by decide, by decide, 0, 0, by decide +kernel⟩
theorem test_i3c_assign : after (exec (.entdaa 9) State.reset) (fun t => fget t F.MOD_I3C_DA == 9) = true := by decide +kernel
theorem test_core_witness : inPreset State.reset (appHalf 15) = false ∧ (0xFFFF8 : BitVec 56).toNat + 8 ≤ 2 ^ 20
    ∧ ((2 : BitVec 56) <<< 54).toNat / 2 ^ 54 = 2 ∧ inPreset (withRegs [(F.MOD_STATUS_DOWN_PRESET, 0, 1)]) (appHalf 15) = true := by decide +kernel
theorem test_core_store : after (exec (.appCoreGlobalAccess 15 0 0 0xFFFF8 (.store true 0x1122334455667788) 0) State.reset) (fun t =>
    mreadLE t.app.sram (15 * 2 ^ 20 + 0xFFFF8) 8 == 0x1122334455667788) = true := by decide +kernel

/-! ## Light -/

/-- A marker's bits with SYNC and CRC put right. -/
def marker (v : Nat) : BitVec 72 := BitVec.ofNat 72 (0xB3 + v + crc8 (0xB3 + v) * 2 ^ 64)
def lit0 : State := withRegs [(F.PORT_CFG_ENABLE, 0, 1), (F.LAS_STATUS_LIT, 0, 1), (F.LAS_STATUS_PRESENCE, 0, 1)]
theorem test_marker_witness : mkValid (marker 0) = true ∧ mkValid 0xB3 = false ∧ fget lit0 F.PORT_CFG_ENABLE 0 = 1 ∧ laneCount 0 = 8
    ∧ laneCount 33 = 2 ∧ bitAt (laneOf { lit0 with opt := { ports := [(0, { lanes := [(0, { why := 0 })] })] } } 0 0).why 0 = false
    ∧ mkLane (marker (7 * 2 ^ 8)) = 7 ∧ mkRxPwr (marker (0x200 * 2 ^ 53)) = 0x200 := by decide +kernel
theorem test_marker_power : after (exec (.markerReceived (.fab 0) 0 (marker (0x3FF * 2 ^ 53)) true) lit0) (fun t =>
    fget t (farPwr 0) 0 == 0xFFFB && bitAt (fget t F.PORT_RING_LOCKED 0) 0) = true := by decide +kernel
def good0 : State := { lit0 with opt := { ports := [(0, { lanes := [(0, { why := 2 })], txNext := some 0x0F, rxNext := some 0xFF, trained := true })] } }
theorem test_restore_witness : (laneOf good0 0 0).why = 2 ∧ (laneOf good0 0 0).miss = 0 ∧ (oget good0 0).trained = true
    ∧ fget good0 F.PORT_STATUS_TRAINING 0 ≠ 1 ∧ bitAt (fget (fset good0 F.PORT_RING_RELOCKING 0 1) F.PORT_RING_RELOCKING 0) 0 = true := by decide +kernel
def dwells (n k : Nat) : State := { lit0 with opt := { ports := [(0, { reh := some (n, k), prb := true })], rehQ := [0] } }
theorem test_rehearsal_witness : (oget (dwells 7 9) 0).reh = some (7, 9) ∧ rehActive (dwells 7 9) 0 = some 0 ∧ (oget (dwells 7 9) 0).prb = true
    ∧ (1 : BitVec 32).toNat * 10000 ≤ (10000 : BitVec 32).toNat := by decide +kernel
theorem test_dwell_fails_early : after (exec (.rehearsalDwell 0 2 10000) (dwells 0 3)) (fun t =>
    fget t (marginFld 0) 0 == 15 && fget t F.PORT_STATUS_REH_FAIL 0 == 1) = true := by decide +kernel
theorem test_laser_witness : lasState (withRegs [(F.LAS_LASER_STATE, 0, 2)]) 0 = 2 ∧ lasState (withRegs [(F.LAS_LASER_STATE, 95, 1)]) 95 = 1
    ∧ fget (withRegs [(F.PORT_SLASER_STATE1, 1, 2)]) F.PORT_SLASER_STATE1 1 = 2 := by decide +kernel
theorem test_laser_limit : after (exec (.laserBiasLoop 0 0 1000 0 true) (withRegs [(F.LAS_LASER_STATE, 0, 2)])) (fun t => lasState t 0 == 4) = true := by
  decide +kernel
def marked : State := { withRegs [(F.LAS_STATUS_UND_FREE, 0, 255)] with opt := { marks := [⟨0, true, false, false, false⟩] } }
theorem test_changeover_witness : undFree marked 0 = true ∧ (∀ p ∈ groupPorts 0 0, portQuiet marked p = true) ∧ (∀ p ∈ groupPorts 0 0, steering marked p = false)
    ∧ ∃ p ∈ groupPorts 0 0, steering (withRegs [(F.PORT_STATUS_STEERING, p, 1)]) p = true :=
  ⟨by decide +kernel, by decide +kernel, by decide +kernel, 0, by decide +kernel⟩
def warm : State := { withRegs [(F.LAS_LASER_STATE, 16, 1)] with opt := { changes := [⟨0, false, .warming, false, false⟩] } }
theorem test_on_grid_witness : warm.opt.changes.find? (fun x => undOf x.laser == 16 && x.phase == .warming) = some ⟨0, false, .warming, false, false⟩ ∧ lasState warm 16 = 1
    ∧ carrying warm 0 = [] ∧ carrying (fset warm F.PORT_LANES_TX_LIVE 0 1) 0 ≠ [] := by decide +kernel
theorem test_training_witness : fget (withRegs [(F.PORT_STATUS_TRAINING, 33, 1), (F.PORT_PEER_VALID, 33, 1)]) F.PORT_PEER_VALID 33 = 1 ∧ isSig 33 = true ∧ isSig 31 = false := by
  decide +kernel
theorem test_steer_witness : steerRefusal lit0 0 10 = none ∧ steerRefusal lit0 0 11 = some 1 ∧ fget lit0 F.PORT_STEER_CUR 0 = 0
    ∧ (oget { lit0 with opt := { ports := [(0, { steerTo := some (10, none) })] } } 0).steerTo = some (10, none) := by decide +kernel
theorem test_converter_witness : mget { lit0 with opt := { conv := [(3, (0, 7))] } }.opt.conv 3 (0, 0) = (0, 7) ∧ mget lit0.opt.conv 0 (0, 0) = (0, 0) := by decide +kernel
/-! ## The interlocking -/

/-- A box of a formed district of devices 0 and 1. -/
def boxes : State := withRegs [(F.MOD_DEVICE_ID_ID, 0, 0), (F.MOD_DEVICE_ID_VALID, 0, 1), (F.ILK_MEMBERS_MAP, 0, 3), (F.ILK_STATUS_MEMBER, 0, 1),
  (F.ILK_STATUS_BOX, 0, 1), (F.ILK_STATUS_FORMED, 0, 1), (F.ILK_BOXES_BOX0, 0, 0), (F.ILK_BOXES_BOX1, 0, 1), (F.ILK_STATUS_NBOX, 0, 2),
  (F.PORT_STATUS_UP, 0, 1)]
/-- A record of device 1 with a kind and a body. -/
def rec1 (kind body : Nat) : BitVec 448 := BitVec.ofNat 448 (kind + 2 ^ 16 + body)
theorem test_record_witness : ilkOk (rec1 1 0) = true ∧ ilkOk (rec1 12 (31 * 2 ^ 96)) = true ∧ ilkOk (rec1 13 0) = false
    ∧ districtOf (rb (rec1 1 0) 16 16) = districtOf (deviceId boxes) ∧ validDevice (rb (rec1 1 0) 16 16) = true := by decide +kernel
theorem test_answer_record_witness : (seen { boxes with ilk := { seen := [(1, { nonce := some 7 })] } } 1).nonce = some (rb (rec1 3 (7 * 2 ^ 96)) 96 32)
    ∧ ilkOk (rec1 3 (7 * 2 ^ 96)) = true := by decide +kernel
def prop1 : IlkProp := ⟨⟨2, 1, 5, 0⟩, 1, 1, [0, 1], [0], []⟩
theorem test_vote_witness : ilkOk (rec1 6 (2 ^ 8 + 2 * 2 ^ 96 + 2 ^ 112 + 2 ^ 128 + 5 * 2 ^ 160)) = true ∧ quorum prop1.voters.length ≤ prop1.yes.length + 1
    ∧ 1 ∈ prop1.voters ∧ 1 ∉ prop1.yes ∧ quorum [0, 1, 2, 3].length + [2].length ≤ [0, 1, 2, 3].length ∧ [0, 1].length < quorum [0, 1].length + [0].length + 1 := by
  decide +kernel
theorem test_epoch_witness : ilkOk (rec1 7 (2 ^ 96 + 2 ^ 128 + 2 ^ 160 + 3 * 2 ^ 192)) = true ∧ seqNewer 1 (epoch boxes) = true ∧ bitAt 3 (deviceId boxes % 64) = true := by
  decide +kernel
theorem test_hall_witness : ilkOk (rec1 11 (255 * 2 ^ 289)) = true ∧ hallFilled boxes 255 = false ∧ (255 : Nat) ≠ districtOf (deviceId boxes) := by decide +kernel
theorem test_heartbeat : after (exec (.ilkHeartbeat .up (rec1 1 (9 * 2 ^ 80))) boxes) (fun t => (seen t 1).onA == some 0) = true := by decide +kernel
theorem test_suspect_witness : memberDev boxes 1 = 1 ∧ memberDev boxes 0 = deviceId boxes ∧ bitAt (fget boxes F.ILK_SUSPECT_MAP) 1 = false ∧ (seen boxes 1).conf = none
    ∧ boxes.drain = none ∧ (boxList boxes).contains 1 = true := by decide +kernel
theorem test_suspicion : after (exec (.suspicionTimeout 1) boxes) (fun t => bitAt (fget t F.ILK_SUSPECT_MAP) 1 && (seen t 1).nonce == some 1) = true := by
  decide +kernel
def held1 : State := { boxes with ilk := { reqs := [⟨⟨2, 1, 5, 0⟩, 1, 0⟩], prop := some prop1, deliver := some ⟨⟨2, 1, 5, 0⟩, 1, 1, [0], [0], [], false⟩ } }
theorem test_change_witness : held1.ilk.reqs.find? (fun r => r.chg.op == 2 && r.chg.subj == 1) = some ⟨⟨2, 1, 5, 0⟩, 1, 0⟩ ∧ held1.ilk.prop = some prop1
    ∧ held1.ilk.deliver.isSome = true := by decide +kernel
theorem test_form_witness : ((heard { boxes with ilk := { forming := true } }).filter (fun m => !hDown (healthOf { boxes with ilk := { forming := true } } m))).head? = some 0
    ∧ fget boxes F.ILK_STATUS_REQ_PEND ≠ 1 := by decide +kernel

/-! ## The bridge -/

def bridged : State := { withRegs [(F.BRG_STATUS_UP, 0, 1), (F.BRG_EPOCH_TEPOCH, 0, 1)] with brg := { record := [(0, some ⟨1, 64, 2 ^ 68 - 1⟩), (1, some ⟨1, 64, 2 ^ 68 - 1⟩)] } }
theorem test_bridge_witness : brec bridged .up = some ⟨1, 64, 2 ^ 68 - 1⟩ ∧ (brx bridged .up).discard = false ∧ (brx bridged .up).exp = 0
    ∧ decodeBlock 4 [] bad6 = .uncorrectable ∧ decodeBlock 4 [] 0 = .clean 0 ∧ kindOk 1 3 = true ∧ kindOk 1 0 = false ∧ kindOk 6 4 = true := by decide +kernel
theorem test_bridge_head : after (exec (.brgPacket .up 0 [(BitVec.ofNat 512 (2 + 64 * 2 ^ 5 + 2 * 2 ^ 12), 0)]) bridged) (fun t => (brx t .up).exp == 1) = true := by
  decide +kernel
def trains (a : Option (Nat × Nat)) : State := { bridged with brg := { bridged.brg with train := some ⟨1, 5, [(0, 2 ^ 68)], a⟩, lastEp := 5 } }
theorem test_training_messages : trainOk (trainMsg 1 0 5 0 0) 1 = true ∧ trainOk (trainMsg 2 0 5 0 (2 ^ 68 - 1)) 2 = true ∧ trainOk (trainMsg 3 4 5 0 0) 3 = true
    ∧ trainOk (trainMsg 4 4 5 0 (2 ^ 68 - 1)) 4 = true ∧ trainOk (trainMsg 5 0 5 0 0) 5 = true ∧ widthOf (2 ^ 68 - 1) = 4 ∧ widthOf (2 ^ 15 - 1) = 0
    ∧ (trains none).brg.refused < 2 := by decide +kernel
theorem test_echo_starts : after (exec (.brgTrainEcho (trainMsg 4 4 5 0 (2 ^ 68 - 1))) (trains (some (2 ^ 68 - 1, 4)))) (fun t =>
    fget t F.BRG_STATUS_UP == 1 && fget t F.BRG_STATUS_WIDTH == 64 && fget t F.BRG_EPOCH_TEPOCH == 5) = true := by decide +kernel
theorem test_preset_witness : inPreset State.reset .down = false ∧ inPreset (withRegs [(F.MOD_STATUS_UP_PRESET, 0, 1), (F.BRG_STATUS_UP, 0, 1)]) .up = true
    ∧ fget (withRegs [(F.ILK_STATUS_CHANGE, 0, 1)]) F.ILK_STATUS_CHANGE = 1 := by decide +kernel

/-! ## Power and heat -/

theorem test_power_witness : (pwrGet { State.reset with pwr := { half := [(0, ⟨some ⟨1, 9600, 4000⟩, some ⟨1, 9600, 6000⟩, 0, false⟩)] } } .up).own = some ⟨1, 9600, 4000⟩
    ∧ (([] : List (BitVec 6 × BitVec 16)).map (·.1)).Nodup ∧ fget (withRegs [(F.PWR_STATUS_FAST, 1, 1)]) F.PWR_STATUS_FAST 1 = 1
    ∧ fget (withRegs [(F.THM_BLK_BAND, 63, 4)]) F.THM_BLK_BAND 63 = 4 := by decide +kernel
theorem neighbours_cold (l : List Nat) : ((l.map (fun _ => (0 : Rat))).foldl (· + ·) 0) = 0 := by
  induction l with
  | nil => rfl
  | cons a l ih => rw [List.map_cons, List.foldl_cons, Rat.add_zero]; exact ih
theorem test_thermal_witness : (elStep State.reset 0 (elGet State.reset 0) 10 30 (1 / 100000)).tj < 110 := by
  show (30 : Rat) + 1 / 100000 / (4 / 10000) * (10 - (30 - 30) / (6 / 10) - ((Config.neighbours 0).map (fun _ => (0 : Rat))).foldl (· + ·) 0) < 110
  rw [neighbours_cold]
  norm_num
theorem test_fast_trip : after (exec (.fastTrip .down) (withRegs [(F.PWR_STATUS_TARGET, 1, 200)])) (fun t =>
    fget t F.PWR_STATUS_FAST 1 == 1 && fget t F.PWR_STATUS_TARGET 1 == 150 && fget t F.PWR_EXCH_TRIPS 1 == 1) = true := by decide +kernel
theorem test_t4_floor : after (exec (.t4ThrottleStep 0) (fset (withRegs [(F.PWR_CFG_RATE, 0, 82)]) F.THM_BLK_BAND 0 4)) (fun t => (blkGet t 0).limit.isSome) = true := by
  decide +kernel

/-! ## The module, the start, security and logs -/

def slotted : State := withRegs [(F.MOD_MSTATUS_PRESENT, 0, 1), (F.MOD_MSTATUS_SLOT_OK, 0, 1), (F.MOD_MSTATUS_INPUT_OK, 0, 1), (F.MOD_COOLANT_FLOW, 0, 120)]
theorem test_module_witness : mayClose slotted = true ∧ mayClose State.reset = false ∧ State.reset.drain = none ∧ cool State.reset = true
    ∧ devState State.reset = dsStart ∧ fget (fset slotted F.MOD_MSTATUS_HS_ON 0 1) F.MOD_MSTATUS_HS_ON = 1 := by decide +kernel
theorem test_power_on : after (exec .modPowerOn slotted) (fun t => fget t F.MOD_MSTATUS_HS_ON == 1) = true := by decide +kernel
def boot0 : BootIn := ⟨false, false, false, false, [], [], none⟩
theorem test_start_witness : fget (fset slotted F.MOD_MSTATUS_HS_ON 0 1) F.MOD_MSTATUS_PGOOD ≠ 1 ∧ boot0.noFlash = false ∧ State.reset.flash.pend = none
    ∧ State.reset.mmc.resetting = false := by decide +kernel
theorem test_self_test_witness : fget (withRegs [(F.SEC_BOOT_STAGE, 0, 4), (F.BRG_STATUS_UP, 0, 1), (F.LYS_STATUS_FEAT_DONE, 0, 1)]) F.SEC_BOOT_STAGE = 4
    ∧ fget State.reset F.MOD_STATUS_DEV_FAULT ≠ 1 ∧ fget (withRegs [(F.SEC_BOOT_STAGE, 0, 6)]) F.SEC_BOOT_STAGE = 6 := by decide +kernel
theorem test_no_flash : after (exec (.powerGood { boot0 with noFlash := true }) (fset slotted F.MOD_MSTATUS_HS_ON 0 1)) (fun t =>
    fget t F.SEC_BOOT_STAGE == 7 && fget t F.SEC_BOOT_FAIL == 1) = true := by decide +kernel
def serves : State := withRegs [(F.SEC_BOOT_STAGE, 0, 5), (F.LYS_FEATURES_BITS, 0, 127), (F.MODE_STATE_STATE, 0, 3)]
theorem test_security_witness : fget serves F.SEC_UPD_STATUS_BUSY ≠ 1 ∧ lysOn serves 5 = true ∧ lysOn State.reset 5 = false ∧ devState serves = dsService
    ∧ serves.flash.pend = none ∧ (stageRead serves).2.isNone = true := by decide +kernel
theorem test_write_bank_unstaged : after (exec .secWriteBank serves) (fun t => fget t F.SEC_UPD_STATUS_OP == 1 && fget t F.SEC_UPD_STATUS_RESULT == 1) = true := by
  decide +kernel
def rec2 : BookRec := ⟨3, 0, false, [(7, 8)]⟩
def queued : State := { withRegs [(F.LOG_BOOK_STATE, 0, 1)] with logw := { book := [rec2], ringOpen := true, queue := [.log ⟨0x0104, .up, 3, false, 0, []⟩] } }
theorem test_log_witness : queued.logw.book.find? (bookMay queued) = some rec2 ∧ fget queued F.LOG_BOOK_STATE ≠ 0
    ∧ queued.logw.queue = .log ⟨0x0104, .up, 3, false, 0, []⟩ :: [] ∧ queued.logw.ringOpen = true := by decide +kernel
theorem test_log_written : after (exec .logRecordWrite queued) (fun t => t.logw.queue == [] && fget t F.LOG_RING_HEAD_INDEX == 1) = true := by decide +kernel
theorem test_mode_witness : fget (withRegs [(F.MODE_STATE_STATE, 0, 2), (F.MODE_STATE_REQ_PEND, 0, 1)]) F.MODE_STATE_REQ_PEND = 1 ∧ traceBad State.reset = true ∨ traceBad State.reset = false := by
  decide +kernel

/-! ## The Lysdex link -/

def linked : State := { withRegs [(F.LYS_STATUS_UP, 0, 1), (F.MOD_MSTATUS_PGOOD, 0, 1), (F.MOD_DEVICE_ID_ID, 0, 0), (F.MOD_DEVICE_ID_VALID, 0, 1)] with lys := { peer := true } }
theorem test_lysdex_witness : lysReserved (0x21 : BitVec 128) = 0 ∧ lysReserved (0x10 : BitVec 128) = 0 ∧ lysReserved (0x20 : BitVec 128) = 0
    ∧ recallBy { linked with dep := { recalls := [⟨some 4095, 0, false, []⟩] } } 4095 = some ⟨some 4095, 0, false, []⟩
    ∧ linked.lys.lrst = false := by decide +kernel
theorem crc_of_zeros (n : Nat) : (List.replicate n 0).foldl crc64Byte 0#64 = 0#64 := by
  induction n with
  | zero => rfl
  | succ n ih => rw [List.replicate_succ, List.foldl_cons, show crc64Byte 0#64 0 = 0#64 by decide]; exact ih
theorem flit_of_zeros (f : BitVec 2000) (h : leBytes f.toNat 244 = List.replicate 244 0) (c : bitsAt f.toNat 1952 48 = 0) : lysFlitOk f = true := by
  unfold lysFlitOk crc64
  rw [h, crc_of_zeros, c]
  rfl
/-- The flit of zeros has the CRC 0 (R477). -/
theorem test_flit_crc : lysFlitOk 0 = true := flit_of_zeros 0 (by decide +kernel) (by decide +kernel)
theorem test_message_witness : (match (translate linked .up { req0 4 0 0 with total := 1 } (deviceId linked)).2 with | .error st => st | .ok _ => 0) = 1
    ∧ (dirEntry { linked with dep := { dir := [⟨0, true, 1⟩] } } 0).map (·.owned) = some true := by decide +kernel
theorem test_reserved_type : after (exec (.lysReservedMt 0x7F) linked) (fun t => t.lys.queue != [] || t.outbox != []) = true := by decide +kernel

/-! ## Cues -/

/-- Slot 0 holds an armed NOP with threshold 0, NEXT 0x7FFF; the slot's range is counters 0 to 63. -/
def nopLine : Line := BitVec.ofNat 512 (0x7FFF * 2 ^ 96 + 63 * 2 ^ 64)
def armed : State := { withRegs [(F.CUE_STATUS_READY, 0, 1), (F.CUE_JOB_VALID, 0, 1), (F.CUE_JOB_CTR_CNT, 0, 64)] with cue := { armed := [⟨0, 1, nopLine⟩], nextId := 2 } }
theorem test_cue_witness : cueBad armed nopLine = none ∧ cueBad armed (nopLine + 15) = some 1 ∧ ctrReached armed 0 0 = true ∧ collLive armed 0 = false
    ∧ armed.cue.armed.find? (fun a => a.slot == 0 && lb a.line 0 4 == 0 && ctrReached armed (lb a.line 16 12) (lb a.line 32 32)) = some ⟨0, 1, nopLine⟩
    ∧ (∀ r ∈ armed.cue.runs, r.id ≠ armed.cue.nextId) := by decide +kernel
theorem test_cue_nop : after (exec (.cueNop 0) armed) (fun t => fget t F.CUE_CTR_VALUE 63 == 1 && fget t F.CUE_FIRED_COUNT == 1) = true := by decide +kernel
theorem test_mailbox_witness : recOk [(2 + 255 * 2 ^ 80 : BitVec 512)] = true ∧ recOk [(2 : BitVec 512)] = false ∧ ctrOk armed 0 63 = true ∧ ctrOk armed 0 64 = false
    ∧ recOk [(0x10 + 2 ^ 104 : BitVec 512)] = true ∧ recOk [(0x15 : BitVec 512)] = true ∧ (storeLine armed 0).isSome = true := by decide +kernel
/-- Device 0 leads collective 1, or device 9 does; the job map has device 5 at position 1. -/
def leads (d : Nat) : State :=
  let s := fset (fset (fset (fset armed F.MOD_DEVICE_ID_ID 0 0) F.CUE_MAP_VALID 0 1) F.CUE_MAP_N 0 2) F.CUE_MAP_ADDR 0 0
  { s with dep := { mem := [(2, 5)] }, cue := { colls := [⟨1, 0, 0, [d, 7, 5], 77, [], [], false, [], []⟩] } }
theorem test_done_witness : (collGet (leads 0) 1).map (fun y => (y.ids.getD 0 0xFFFF == deviceId (leads 0), y.hash)) = some (true, 77)
    ∧ (collGet (leads 9) 1).map (fun y => y.ids.getD 0 0xFFFF == deviceId (leads 9)) = some false
    ∧ jobMap (leads 0) 0 = some [0, 5]
    ∧ recOk [(BitVec.ofNat 512 (5 + 2 ^ 64 + 77 * 2 ^ 128))] = true := by decide +kernel
/-- Position 1 of the job map is device 5, position 2 of the collective's own map (R240, R245). -/
theorem test_done : after (exec (.mboxDone 0 (BitVec.ofNat 512 (5 + 2 ^ 16 + 2 ^ 64 + 77 * 2 ^ 128))) (leads 0)) (fun t =>
    (collGet t 1).map (·.dones) == some [2]) = true := by decide +kernel
theorem test_inc : after (exec (.mboxInc 0 (BitVec.ofNat 512 (2 + 63 * 2 ^ 64 + 255 * 2 ^ 80))) armed) (fun t => fget t F.CUE_CTR_VALUE 63 == 255) = true := by decide +kernel
def stepping : State := { fset armed F.STM_STATUS_ACTIVE 0 1 with cue := { stm := [(0, { opened := true, step := 4 })] } }
theorem test_step_witness : (stmGet stepping 0).opened = true ∧ (stmGet stepping 0).closing = false ∧ fget stepping F.STM_STATUS_ACTIVE 0 ≠ 0
    ∧ (stmGet { stepping with cue := { stm := [(0, { opened := true, force := { replay := true } })] } } 0).force.replay = true := by decide +kernel

/-! ## The block as a whole -/

theorem test_front : after (step { rdy 5 7 with pending := [.add x0 addWord, .rstdaa] }) (fun t => (thr t x0).sreg 3 == 12 && t.pending == [.rstdaa]) = true := by
  decide +kernel
theorem test_idle : after (step (withRegs [(F.MOD_MSTATUS_PGOOD, 0, 1)])) (fun t => t.timeUp == 1 && t.timeDn == 1) = true := by decide +kernel
theorem test_reset_inv : Machine.Inv State.reset := ⟨List.Pairwise.nil, by decide, Nat.le_refl _⟩
theorem test_step_witness_inv : after (step State.reset) (fun t => t == State.reset) = true := by decide +kernel
theorem test_no_word (n w : Nat) : decodeTableWord n w = none := rfl

/-! ## Well-formed commands: an ill-formed one for each check -/


/-! ## Forms and clauses with more than one condition -/

/-- The words of add s3 = s1 + s2, of a jump-and-link of 2 words and of a halt, bit by bit (R104, R105). -/
theorem test_words : decodeTile x0 0x0000000000082300 = some (.add x0 addWord)
    ∧ decodeTile x0 0x0000000200000332 = some (.jal x0 (ins [(8, 3), (32, 2)])) ∧ decodeTile x0 0x00000000000000A4 = some (.halt x0 0) := ⟨rfl, rfl, rfl⟩
theorem test_reserved_witness : tileRow 0x13 = none ∧ tileRow 0x83 = none ∧ tileRow 0xFF = none ∧ tileCode (.add x0 addWord) = some (0, x0, addWord) :=
  ⟨rfl, rfl, rfl, rfl⟩
/-- A reserved opcode faults with cause 1 (R105). -/
theorem test_reserved_opcode : after (execTileWord x0 0x13 (rdy 5 7)) (fun t =>
    (thr t x0).st == .faulted && fget t F.TILE_FAULT_CAUSE 0 == 1) = true := by decide +kernel
/-- The word that stands in the program store runs (R98). -/
theorem test_program : after (execProgram x0 (run { th0 { st := .ready, s := [(1, 5), (2, 7)] } with prog := [(1, 0x23), (2, 8)] })) (fun t =>
    (thr t x0).sreg 3 == 12) = true := by decide +kernel

/-- What the dispatcher has for a tile is loaded before the start (R98). -/
def loads : State := fset (run { image := [(511, 7)] }) F.TILE_ENTRY_ENTRY 0 2
theorem test_load_witness : ((tget loads 0).image.map (·.1)).Nodup ∧ allIdle (tget loads 0) = true ∧ outstanding loads 0 = 0 ∧ 0 < (tget loads 0).threads.length := by
  decide +kernel
theorem test_start_loads : after (exec (.tileCtlStart 0) loads) (fun t =>
    mline (tget t 0).prog 511 == 7 && fget t F.BLK_LINK_RD_BYTES 0 == 64 && ((tget t 0).th 0).pc == 16) = true := by decide +kernel

def open_ : State := withRegs [(F.BRG_STATUS_UP, 0, 1)]
theorem test_crossing_witness : brgOpen open_ = true ∧ addrHalf 0x1800000 = some .down ∧ addrHalf 0x1400004 = some .up ∧ brgOpen State.reset = false := by
  decide +kernel
theorem test_crossing : after (exec (.mgmtRegisterWrite 0x1800000 false 0) open_) (fun t =>
    fget t F.BRG_FLITS_UD_COUNT == 1 && fget t F.BRG_FLITS_DU_COUNT == 1) = true := by decide +kernel
theorem test_return_witness : inPreset (withRegs [(F.MOD_STATUS_UP_PRESET, 0, 1), (F.BRG_STATUS_UP, 0, 1)]) .up = true
    ∧ (withRegs [(F.BRG_STATUS_UP, 0, 1)]).brg.clkLost = false ∧ State.reset.brg.lone = none ∧ State.reset.ilk.plane ≠ some .down := by decide +kernel
def apart : State := { boxes with ilk := { plane := some .up }, brg := { lone := some ⟨{ plane := some .down }, unitRegs boxes⟩ } }
theorem test_lone_witness : apart.brg.lone = some ⟨{ plane := some .down }, unitRegs boxes⟩ ∧ apart.ilk.plane ≠ some .down := by decide +kernel
/-- A lone unit's own heartbeats (R376). -/
theorem test_lone_heartbeat : after (exec .heartbeatSendTimer apart) (fun t =>
    t.ilk.hbseq == 1 && t.brg.lone.map (·.unit.hbseq) == some 1) = true := by decide +kernel

theorem test_replayed_witness : (lget { up33 with links := { link := [(33, { rxNum := 5, rxExp := 6 })] } } 33).rxNum
    ≠ (lget { up33 with links := { link := [(33, { rxNum := 5, rxExp := 6 })] } } 33).rxExp ∧ seqNewer16 5 6 = false ∧ seqNewer16 6 5 = true := by decide +kernel
theorem test_sender_witness : (senderStatus inService2 5 1).2 = none ∧ (senderStatus inService2 5 2).2 = some 9 ∧ (senderStatus inService2 6 1).2 = some 1 := by
  decide +kernel
theorem test_restored_witness : bitAt (fget (withRegs [(F.PORT_RING_LOCKED, 0, 1)]) F.PORT_RING_LOCKED 0) 0 = true ∧ steering lit0 0 = false := by decide +kernel
def waitsOn : State := { lit0 with opt := { changes := [⟨0, false, .waiting, false, false⟩] } }
theorem test_waiting_witness : bankLit waitsOn 0 = true ∧ waitsOn.opt.marks.find? (fun k => k.laser == 0) = none
    ∧ waitsOn.opt.changes.find? (fun x => x.laser == 0) = some ⟨0, false, .waiting, false, false⟩ ∧ (∀ p ∈ groupPorts 0 0, portQuiet waitsOn p = true) := by
  decide +kernel
theorem test_understudy_witness : undFree (withRegs [(F.LAS_STATUS_UND_FREE, 0, 0)]) 16 = false ∧ mget State.reset.opt.serves 16 0 ≤ 2 ∧ clocked lit0 31 = true := by
  decide +kernel

/-- A cue that reports readiness waits for the gradient sends of its step, and not for those of another (R256). -/
def sends : State := { armed with cue := { armed.cue with stm := [(0, { gradFail := [4] })] } }
theorem test_ready_witness : gradsDone armed 0 4 = true ∧ gradsDone sends 0 4 = false ∧ gradsDone sends 0 5 = true ∧ armed.drain = none ∧ armed.brg.noReady = [] := by
  decide +kernel
/-- Line 0, which holds the cue store's first slot and the map, is cached and undamaged. -/
def stores : State := { armed with dep := { cache := [(0, { ways := [(0, some ⟨0, false⟩)] })] } }
theorem test_sound_witness : cached stores (storeSlot stores 0) = true ∧ copyErr stores (storeSlot stores 0) = 0 ∧ (storeLine stores 0).isSome = true
    ∧ fget stores F.CUE_MAP_VALID 0 ≠ 1 ∧ mget { stores.cue with doomed := [(1, some (3, false))] }.doomed 1 none = some (3, false) := by decide +kernel
def overs : State := { fset armed F.CUE_COLL_STATE 1 4 with cue := { armed.cue with past := [(1, some ⟨77, [], []⟩)] } }
theorem test_late_witness : lateDone overs 1 5 77 = true ∧ lateDone overs 1 5 78 = false ∧ lateDone armed 1 5 77 = false := by decide +kernel
/-- A line returned to the down half waits for a bridge that is closed; one of the up half does not (R22, R24). -/
def returns (l : Nat) : State := { linked with dep := { recalls := [⟨some 4095, l, false, []⟩] } }
theorem test_far_witness : lysFar (returns 0x18000000) (0x0A + 4095 * 2 ^ 8) = true ∧ lysFar (returns 0x17FFFFFF) (0x0A + 4095 * 2 ^ 8) = false
    ∧ (returns 0).lys.late = [] ∧ brgOpen (returns 0) = false := by decide +kernel

theorem test_recovery_retry : let s := withRegs [(F.LYS_STATUS_UP, 0, 1), (F.SEC_BOOT_STAGE, 0, 6), (F.LYS_STATUS_FEAT_DONE, 0, 1)]
    fbit s F.LYS_STATUS_UP = true ∧ lysOn s 4 = false ∧ fget (lysTrainRetry s) F.LYS_STATUS_UP = 0 := by decide +kernel
theorem test_uh1_rehearses : fieldRead (withRegs [(F.PORT_CFG_MODE, 3, 1)]) F.MODE_PORTS_REH 0 = 8 := by decide +kernel
theorem test_corrections_by_lane : let s := brgCorr (setGrp (withRegs [(F.BRG_CFG_ERASE_THR, 0, 4)]) 1 0 { hits := [(5, [0, 0, 0]), (9, [0, 0])] }) .up 0 5
    (grp s 1 0).erase = some 5 ∧ mget (grp s 1 0).hits 5 [] = [] ∧ mget (grp s 1 0).hits 9 [] = [0, 0] := by decide +kernel
theorem test_ill_formed_1 : ([
    .mgmtRegisterWrite 0 false (2 ^ 32), .homeLoad 0xC00000000 .w4 0 0, .homeStore 0xC00000000 .w4 0 0, .homeAdd 0xC00000000 true 0 0,
    .homeAdd 0 false (2 ^ 32) 0, .homeMin 0xC00000000 true 0 0, .homeMin 0 false (2 ^ 32) 0, .homeMax 0xC00000000 true 0 0,
    .homeMax 0 false (2 ^ 32) 0, .homeXor 0xC00000000 true 0 0, .homeXor 0 false (2 ^ 32) 0, .homeSwap 0xC00000000 true 0 0,
    .homeSwap 0 false (2 ^ 32) 0, .homeCompareAndSwap 0xC00000000 true 0 0 0, .homeCompareAndSwap 0 false (2 ^ 32) 0 0,
    .homeCompareAndSwap 0 false 0 (2 ^ 32) 0, .homeExactInt32Accumulate 0xC00000000 0 0, .homeFp32Add 0xC00000000 0 0,
    .depotFillComplete 0x30000000 0 0 0, .hotLineSlot 0x30000000, .hotQueueRelease 0x30000000, .ingressLoad 0 0 [], .ingressLoad 0 1 [0],
    .ingressStore 0 0 [], .ingressStore 0 2 [0], .ingressAtomic 0 0 [], .ingressAtomic 0 3 [0], .ingressRead 0 0 [], .ingressRead 0 4 [0],
    .ingressWrite 0 0 []] : List Instr).all (fun i => !i.wf) = true := by decide +kernel
theorem test_ill_formed_2 : ([
    .ingressWrite 0 5 [0], .ingressBatch 0 0 [], .ingressBatch 0 6 [0], .ingressAck 0 0 [], .ingressAck 0 7 [0], .responseArrival 0 0,
    .readDataArrival 0 0 [], .readDataArrival 0 0x81 [0], .shnGather .up 0 0 3, .shnGatherRange .up 0 0 0, .shnScatter .up 0 0 0,
    .markerReceived (.sig .up) 2 0 true, .laneRestoreTimer (.sig .up) 2, .ringLoopUpdate (.sig .up) true 2 0, .ringRelockDone (.sig .up) 2 true 0,
    .ringResweepTimer (.sig .up) 2, .lossOfLight (.sig .up) 2, .ilkHeartbeat .up 0, .ilkProbe .up 0, .ilkAnswer .up 0, .ilkRequest .up 0,
    .ilkPropose .up 0, .ilkVote .up 0, .epochRecord .up 0, .ilkEpochAck .up 0, .ilkFetch .up 0, .ilkVerdict .up 0, .ilkHall .up 0, .ilkPortcheck 0 0,
    .lysFeature 0] : List Instr).all (fun i => !i.wf) = true := by decide +kernel
theorem test_ill_formed_3 : ([
    .lysLoad 0, .lysRead 0, .lysReadShared 0, .lysReadOwn 0, .lysEvict 0, .lysMgmtRd 0, .lysCredit 0, .lysStore 0 [0], .lysStore 2 [],
    .lysAtomic 0 [0], .lysAtomic 3 [], .lysMgmtWr 0 [0], .lysMgmtWr 17 [], .lysWrite 0 [0], .lysWrite 5 [], .lysWriteback 0 [0], .lysWriteback 9 [],
    .lysRecallAck 0 [], .lysRecallAck 10 [0], .lysReservedMt 1, .mboxAnnounce 0 0, .mboxInc 0 0, .mboxArm 0 0, .mboxArmc 0 0, .mboxDone 0 0,
    .mboxCommit 0 0, .mboxAbort 0 0, .mboxAccept 0 0, .mboxReady 0 0, .mboxNotYet 0 0] : List Instr).all (fun i => !i.wf) = true := by decide +kernel
theorem test_ill_formed_4 : ([
    .mboxPoison 0 0, .mboxStepOpen 0 0, .mboxTakeover 0 0, .mboxConsist 0 [], .brgTrainStart 0, .brgTrainMap 0, .brgTrainAgree 0, .brgTrainEcho 0,
    .brgTrainRefuse 0, .brgPrbsDone .up [(68, 0)], .thermalModelUpdate .up false 0 0 [(34, 0)], .calibration .up [(34, 0)] 0] : List Instr).all (fun i => !i.wf) = true := by decide +kernel
theorem test_well_formed : ([.add x0 addWord, .homeLoad 0xBFFFFFFFF .w4 0 0, .ingressStore 0 (storeHdr 1) [], .ilkHeartbeat .up (rec1 1 0), .mboxInc 0 2,
    .markerReceived (.sig .up) 1 0 true, .brgTrainStart 1] : List Instr).all Instr.wf = true := by decide +kernel

end Sys2Proof.Tests
end

section
namespace Sys2Proof.Proofs

open Sys2Proof Sys2Proof.Machine

/-- On words, the comparison looks at the wrapped difference alone: it is not 0 and lies below half the space (R29). -/
theorem seqNewer_toNat (a b : BitVec 32) :
    seqNewer a.toNat b.toNat = true ↔ (a - b).toNat ≠ 0 ∧ (a - b).toNat < 2 ^ 31 := by
  simp [seqNewer]

/-- Settles O34: the comparison reads the wrapped difference, and "not 0, below 2^31" is the range of R29. -/
theorem sequenceCompare : Obligations.SequenceCompare := by
  intro a b
  rw [seqNewer_toNat]
  omega

end Sys2Proof.Proofs
end

section
/-!
SUPPORT. What counters, events and faults do to the register file and the threads of a tile, beside Laws/State and Laws/Issue.
-/
namespace Sys2Proof.Proofs

open Sys2Proof Sys2Proof.Machine

variable {s u : State} {x : Issue} {t h : Nat} {f g : Fld} {i j : Nat}

/-! ### Register fields -/

/-- Fields that start at different places of the register map share no key. -/
theorem key_ne (h : f.reg.ctorIdx * 64 + f.lo ≠ g.reg.ctorIdx * 64 + g.lo) (hi : i < 65536) (hj : j < 65536) :
    f.key i ≠ g.key j := by
  unfold Fld.key
  omega

theorem fget_fcount_ne {n : Nat} (h : g.key j ≠ f.key i) : fget (fcount s f i n) g j = fget s g j :=
  fget_fset_ne _ _ _ _ _ _ h

/-- A field of the bits it was written from reads as those bits. -/
theorem fget_fset_bitsAt (m : Nat) : fget (fset s f i (bitsAt m f.lo f.width)) f i = bitsAt m f.lo f.width := by
  rw [fget_fset]
  exact Nat.mod_mod _ _

/-! ### Events -/

@[simp] theorem emit_tiles (half : Half) (unit code : Nat) (args : List (Nat × Nat)) : (emit s half unit code args).tiles = s.tiles := by
  unfold emit
  split_ifs <;> rfl

/-- Of the registers, an event can change only the count of records dropped on the down half (R517). -/
theorem emit_regs (half : Half) (unit code : Nat) (args : List (Nat × Nat)) :
    (emit s half unit code args).regs = s.regs ∨ (emit s half unit code args).regs = (fcount s F.LOG_STATUS_HELD_DROP 0 1).regs := by
  unfold emit
  split
  · left; split_ifs <;> rfl
  · split
    · split
      · exact .inl rfl
      · exact .inr rfl
    · exact .inl rfl

theorem fget_emit_ne (half : Half) (unit code : Nat) (args : List (Nat × Nat)) (hk : g.key i ≠ F.LOG_STATUS_HELD_DROP.key 0) :
    fget (emit s half unit code args) g i = fget s g i := by
  rcases emit_regs (s := s) half unit code args with hr | hr
  · exact fget_congr _ _ hr
  · rw [fget_congr _ _ hr, fget_fcount_ne hk]

/-- Once the ring is open, an event of a half that is not cut off joins the writer's queue (R517). -/
theorem emit_queue {half : Half} {unit code : Nat} {args : List (Nat × Nat)} (hopen : s.logw.ringOpen = true)
    (hhalf : half = .up ∨ downIsolated s = false) :
    ∃ e, (emit s half unit code args).logw.queue = s.logw.queue ++ [.log e] ∧ e.code = code ∧ e.args = args := by
  have hn : ¬ (half = .down ∧ downIsolated s = true) := by
    rintro ⟨rfl, hd⟩
    simp [hd] at hhalf
  refine ⟨{ code := code, half := half, unit := unit, defer := false, time := now s half, args := args }, ?_, rfl, rfl⟩
  simp [emit, hopen, hn]

/-- An event of limited rate leaves the tiles alone, and all registers but the count of dropped records. -/
theorem emitLim_frame (half : Half) (unit code sub every : Nat) (args : List (Nat × Nat)) :
    (emitLim s half unit code sub every args).tiles = s.tiles ∧
      SameRegs s (emitLim s half unit code sub every args) (only F.LOG_STATUS_HELD_DROP 0) := by
  unfold emitLim
  dsimp only
  split
  · exact ⟨emit_tiles _ _ _ _, fun g i hk => fget_emit_ne _ _ _ _ hk⟩
  · exact ⟨rfl, fun _ _ _ => rfl⟩

/-- An event of limited rate is raised where its last one lies far enough back. -/
theorem emitLim_queue {half : Half} {unit code sub every : Nat} {args : List (Nat × Nat)} (hopen : s.logw.ringOpen = true)
    (hhalf : half = .up ∨ downIsolated s = false)
    (hlast : mget s.logw.lastLog (code * 2 ^ 24 + sub) 0 = 0 ∨ mget s.logw.lastLog (code * 2 ^ 24 + sub) 0 + every ≤ now s half + 1) :
    ∃ e, (emitLim s half unit code sub every args).logw.queue = s.logw.queue ++ [.log e] ∧ e.code = code ∧ e.args = args := by
  unfold emitLim
  rw [if_pos hlast]
  exact emit_queue hopen hhalf

/-! ### Faults (R131) -/

theorem leaveArray_regs : (leaveArray s t h).regs = s.regs := by
  unfold leaveArray
  dsimp only
  split <;> rfl

theorem leaveArray_threads : (tget (leaveArray s t h) t).threads = (tget s t).threads := by
  unfold leaveArray
  dsimp only
  split <;> simp [setArray]

theorem tget_congr (he : u.tiles = s.tiles) : tget u t = tget s t := by simp only [tget, he]

/-- A fault stops its thread and leaves the other threads of the tile as they are. -/
theorem faultThread_threads (cause blk pc : Nat) :
    (tget (faultThread s t h cause blk pc) t).threads =
      (tget s t).threads.set h { (tget s t).th h with st := .faulted, wait := .none } := by
  unfold faultThread
  dsimp only
  rw [tget_congr (emit_tiles _ _ _ _)]
  have hth : (tget (leaveArray s t h) t).th h = (tget s t).th h := by simp only [Tile.th, leaveArray_threads]
  split <;> simp [Tile.setTh, leaveArray_threads, hth]

theorem faultThread_th (cause blk pc : Nat) (hl : h < (tget s t).threads.length) :
    (tget (faultThread s t h cause blk pc) t).th h = { (tget s t).th h with st := .faulted, wait := .none } := by
  simp [Tile.th, faultThread_threads, hl]

/-- A fault leaves the tile's fault record valid. -/
theorem faultThread_valid (cause blk pc : Nat) (ht : t < 65536) :
    fget (faultThread s t h cause blk pc) F.TILE_FAULT_VALID t = 1 := by
  unfold faultThread
  dsimp only
  rw [fget_emit_ne _ _ _ _ (key_ne (by decide) ht (by decide))]
  split
  next hv => simpa [fbit] using hv
  next => rw [fget_fset_ne _ _ _ _ _ _ (key_ne (by decide) ht ht), fget_fset]; rfl

/-- The first fault of a tile records its cause and its thread. -/
theorem faultThread_first {cause : Nat} (blk pc : Nat) (ht : t < 65536) (hc : cause < 16) (hh : h < 8)
    (hv : fget s F.TILE_FAULT_VALID t ≠ 1) :
    fget (faultThread s t h cause blk pc) F.TILE_FAULT_CAUSE t = cause
      ∧ fget (faultThread s t h cause blk pc) F.TILE_FAULT_THREAD t = h := by
  unfold faultThread
  dsimp only
  rw [if_neg (by simpa [fbit, fget, leaveArray_regs] using hv)]
  constructor
  · rw [fget_emit_ne _ _ _ _ (key_ne (by decide) ht (by decide))]
    iterate 4 rw [fget_fset_ne _ _ _ _ _ _ (key_ne (by decide) ht ht)]
    rw [fget_fset]
    exact Nat.mod_eq_of_lt hc
  · rw [fget_emit_ne _ _ _ _ (key_ne (by decide) ht (by decide))]
    iterate 3 rw [fget_fset_ne _ _ _ _ _ _ (key_ne (by decide) ht ht)]
    rw [fget_fset]
    exact Nat.mod_eq_of_lt hh

/-! ### The end of an issue -/

/-- An instruction that answers its issue's outcome completes as that outcome does. -/
theorem yields_of_issue {c : Instr} {body : State → Nat → Nat → IRes} {q : State → Prop} (hc : exec c s = issue x s body)
    (hr : Ready x s) (hq : q (finish x.tile.toNat x.thread.toNat (body (atIssue s x) x.tile.toNat x.thread.toNat))) : Yields c s q :=
  ⟨_, hc.trans (issue_ready hr body), hq⟩

theorem thr_atIssue : thr (atIssue s x) x = thr s x := by
  unfold thr ati
  rw [tget_atIssue]
  rfl

/-- The thread as an instruction's body reads it. -/
theorem th_atIssue : (tget (atIssue s x) x.tile.toNat).th x.thread.toNat = thr s x := thr_atIssue

theorem ready_lt_atIssue (hr : Ready x s) : x.thread.toNat < (ati (atIssue s x) x).threads.length := by
  unfold ati
  rw [tget_atIssue]
  exact ready_lt hr

theorem thr_setThread (th : Thread) (hl : x.thread.toNat < (ati u x).threads.length) :
    thr (setThread u x.tile.toNat x.thread.toNat th) x = th := by
  unfold thr ati
  rw [tget_setThread]
  exact th_setTh _ _ _ hl

theorem lt_length_setThread (th : Thread) (hl : x.thread.toNat < (ati u x).threads.length) :
    x.thread.toNat < (ati (setThread u x.tile.toNat x.thread.toNat th) x).threads.length := by
  simpa [ati] using hl

theorem thr_finish_go (hl : x.thread.toNat < (ati u x).threads.length) :
    thr (finish x.tile.toNat x.thread.toNat (.go u)) x = { thr u x with st := .ready, pc := (thr u x).pc + 8, wait := .none } :=
  finish_go_th hl

theorem thr_finish_jump (pc : Nat) (hl : x.thread.toNat < (ati u x).threads.length) :
    thr (finish x.tile.toNat x.thread.toNat (.jump u pc)) x = { thr u x with st := .ready, pc := pc, wait := .none } := by
  simp only [thr, ati, finish, tget_fcount, tget_setThread]
  exact th_setTh _ _ _ hl

theorem thr_finish_fault (cause blk : Nat) (hl : x.thread.toNat < (ati u x).threads.length) :
    thr (finish x.tile.toNat x.thread.toNat (.fault u cause blk)) x = { thr u x with st := .faulted, wait := .none } :=
  faultThread_th _ _ _ hl

/-- An instruction that faults before it has any effect: the thread has faulted at it, with the cause recorded. -/
theorem faults_finish {cause : Nat} (hr : Ready x s) (hc : cause < 16) (blk : Nat) :
    Faults x s (finish x.tile.toNat x.thread.toNat (.fault (atIssue s x) cause blk)) cause := by
  have ht : x.tile.toNat < 65536 := by omega
  have hth := thr_finish_fault cause blk (ready_lt_atIssue hr)
  rw [thr_atIssue] at hth
  refine ⟨by rw [hth], by rw [hth], faultThread_valid _ _ _ ht, fun hv => ?_⟩
  refine faultThread_first _ _ ht hc (by omega) ?_
  rwa [fget_fcount_ne (key_ne (by decide) ht ht), fget_atIssue]

end Sys2Proof.Proofs
end

section
/-!
Scalar operations and branches: R106, R107, R109.
-/
namespace Sys2Proof.Proofs

open Sys2Proof Sys2Proof.Machine

variable {s : State} {x : Issue} {f : BitVec 56}

/-! ### Scalar operations (R106, R107) -/

@[simp] theorem setS_pc (th : Thread) (r : Nat) (v : W64) : (th.setS r v).pc = th.pc := by
  unfold Thread.setS
  split <;> rfl

theorem holdsS_of_setS {t : State} {th : Thread} {r : Nat} {v : W64} (h : (thr t x).s = (th.setS r v).s) : HoldsS t x r v := by
  have hs : (thr t x).sreg r = (th.setS r v).sreg r := by simp only [Thread.sreg, h]
  rw [HoldsS, hs, sreg_setS]

/-- Writing a scalar register at the end of an instruction: it holds the value, and the thread goes on. -/
theorem finish_goS (hr : Ready x s) (sd : Nat) (v : W64) :
    HoldsS (finish x.tile.toNat x.thread.toNat (goS (atIssue s x) x.tile.toNat x.thread.toNat sd v)) x sd v ∧
      GoesOn x s (finish x.tile.toNat x.thread.toNat (goS (atIssue s x) x.tile.toNat x.thread.toNat sd v)) := by
  have hl := ready_lt_atIssue hr
  have hgo := thr_finish_go (lt_length_setThread ((thr s x).setS sd v) hl)
  rw [thr_setThread _ hl] at hgo
  rw [goS, th_atIssue]
  generalize finish _ _ _ = t at hgo ⊢
  exact ⟨holdsS_of_setS (th := thr s x) (by rw [hgo]), by rw [hgo, setS_pc], by rw [hgo]⟩

/-- A scalar operation with FN 0 writes its value to sd, and the thread goes on. -/
theorem yields_scalarOp {c : Instr} {op : W64 → W64 → W64} (hc : exec c s = scalarOp x f s op) (hr : Ready x s) (hf : opFn f = 0) :
    Yields c s fun t => HoldsS t x (opD f) (op ((thr s x).sreg (opA f)) (op2 (thr s x) f)) ∧ GoesOn x s t := by
  refine yields_of_issue hc hr ?_
  simp only [hf, ne_eq, not_true_eq_false, if_false, th_atIssue]
  exact finish_goS hr _ _

theorem yields_imp {c : Instr} {p q : State → Prop} (h : Yields c s p) (hpq : ∀ t, p t → q t) : Yields c s q := by
  obtain ⟨t, ht, hp⟩ := h
  exact ⟨t, ht, hpq t hp⟩

/-- A scalar operation whose operands give `v` leaves `v` in sd. -/
theorem yields_scalarOp_value {c : Instr} {op : W64 → W64 → W64} {v : W64} (hc : exec c s = scalarOp x f s op) (hr : Ready x s)
    (hf : opFn f = 0) (hv : op ((thr s x).sreg (opA f)) (op2 (thr s x) f) = v) : Yields c s fun t => HoldsS t x (opD f) v := by
  subst hv
  exact yields_imp (yields_scalarOp hc hr hf) fun _ h => h.1

/-- The signed quotient and remainder of −2^63 by −1 (R107). -/
theorem aluDiv_overflow : aluDiv (BitVec.ofInt 64 (-2 ^ 63)) (BitVec.ofInt 64 (-1)) = BitVec.ofInt 64 (-2 ^ 63) := by decide
theorem aluRem_overflow : aluRem (BitVec.ofInt 64 (-2 ^ 63)) (BitVec.ofInt 64 (-1)) = 0 := by decide

/-- Settles O7: each division is a scalar operation, which goes on with its value in sd, and the corners are values of that operation. -/
theorem divisionCorners : Obligations.DivisionCorners := by
  intro x f s hr hf
  refine ⟨fun c hc => ?_, fun hb => ?_, fun ha hb => ?_⟩
  · simp only [List.mem_cons, List.not_mem_nil, or_false] at hc
    have hop : ∃ op, exec (c x f) s = scalarOp x f s op := by
      rcases hc with rfl | rfl | rfl | rfl
      exacts [⟨aluDiv, rfl⟩, ⟨aluDivu, rfl⟩, ⟨aluRem, rfl⟩, ⟨aluRemu, rfl⟩]
    obtain ⟨op, hop⟩ := hop
    exact yields_imp (yields_scalarOp hop hr hf) fun _ h => h.2
  · exact ⟨yields_scalarOp_value (op := aluDiv) rfl hr hf (if_pos hb), yields_scalarOp_value (op := aluDivu) rfl hr hf (if_pos hb),
      yields_scalarOp_value (op := aluRem) rfl hr hf (if_pos hb), yields_scalarOp_value (op := aluRemu) rfl hr hf (if_pos hb)⟩
  · exact ⟨yields_scalarOp_value (op := aluDiv) rfl hr hf (by rw [ha, hb, aluDiv_overflow]),
      yields_scalarOp_value (op := aluRem) rfl hr hf (by rw [ha, hb, aluRem_overflow])⟩

/-! ### Branches (R109) -/

theorem SameThread.refl (a : Thread) : SameThread a a := ⟨rfl, rfl, rfl, rfl⟩

theorem branchTo_inside {u : State} {p : Int} (hp : 0 ≤ p ∧ p ≤ 0x7FF8 ∧ p % 8 = 0) : branchTo u p = .jump u p.toNat :=
  if_neg (by omega)

theorem branchTo_outside {u : State} {p : Int} (hp : ¬ (0 ≤ p ∧ p ≤ 0x7FF8 ∧ p % 8 = 0)) : branchTo u p = .fault u cAddress 0 :=
  if_pos (by omega)

theorem jumpsTo_finish {u : State} {p : Int} (hl : x.thread.toNat < (ati u x).threads.length) (hp : 0 ≤ p) :
    JumpsTo x (finish x.tile.toNat x.thread.toNat (.jump u p.toNat)) p := by
  unfold JumpsTo
  rw [thr_finish_jump _ hl]
  exact ⟨Int.toNat_of_nonneg hp, rfl⟩

/-- A taken branch goes to its target, or faults where none can be, and changes no register of its thread. -/
theorem finish_branchTo (hr : Ready x s) (p : Int) :
    SameThread (thr (finish x.tile.toNat x.thread.toNat (branchTo (atIssue s x) p)) x) (thr s x) ∧
      BranchesTo x s (finish x.tile.toNat x.thread.toNat (branchTo (atIssue s x) p)) p := by
  have hl := ready_lt_atIssue hr
  unfold BranchesTo
  by_cases hp : 0 ≤ p ∧ p ≤ 0x7FF8 ∧ p % 8 = 0
  · rw [branchTo_inside hp, if_pos hp, thr_finish_jump _ hl, thr_atIssue]
    exact ⟨SameThread.refl _, jumpsTo_finish hl hp.1⟩
  · rw [branchTo_outside hp, if_neg hp, thr_finish_fault _ _ hl, thr_atIssue]
    exact ⟨SameThread.refl _, faults_finish hr (by decide) 0⟩

/-- A branch not taken goes on, and changes no register of its thread. -/
theorem finish_go_atIssue (hr : Ready x s) :
    SameThread (thr (finish x.tile.toNat x.thread.toNat (.go (atIssue s x))) x) (thr s x) ∧
      GoesOn x s (finish x.tile.toNat x.thread.toNat (.go (atIssue s x))) := by
  unfold GoesOn
  rw [thr_finish_go (ready_lt_atIssue hr), thr_atIssue]
  exact ⟨SameThread.refl _, rfl, rfl⟩

/-- A conditional branch is taken where its condition holds, and goes on elsewhere. -/
theorem finish_branch_if {c P : Prop} [Decidable c] [Decidable P] {r : IRes} {p : Int} (hr : Ready x s) (hP : c ↔ P)
    (hres : r = if c then branchTo (atIssue s x) p else .go (atIssue s x)) :
    SameThread (thr (finish x.tile.toNat x.thread.toNat r) x) (thr s x) ∧
      if P then BranchesTo x s (finish x.tile.toNat x.thread.toNat r) p else GoesOn x s (finish x.tile.toNat x.thread.toNat r) := by
  by_cases hc : c
  · rw [hres, if_pos hc, if_pos (hP.1 hc)]
    exact finish_branchTo hr p
  · rw [hres, if_neg hc, if_neg (mt hP.2 hc)]
    exact finish_go_atIssue hr

/-- The condition that CC names between two registers (R109). -/
def BranchHolds (cc : Nat) (a b : W64) : Prop :=
  (cc = 0 ∧ a = b) ∨ (cc = 1 ∧ a ≠ b) ∨ (cc = 2 ∧ a.toInt < b.toInt) ∨ (cc = 3 ∧ b.toInt ≤ a.toInt)
    ∨ (cc = 4 ∧ a.toNat < b.toNat) ∨ (cc = 5 ∧ b.toNat ≤ a.toNat) ∨ cc = 6

/-- Every CC up to 6 names a condition, and the model decides it. -/
theorem branchCond_eq_some {cc : Nat} (a b : W64) (hcc : cc ≤ 6) :
    ∃ c : Bool, branchCond cc a b = some c ∧ (c = true ↔ BranchHolds cc a b) := by
  unfold BranchHolds
  interval_cases cc <;> simp [branchCond]

/-- B: the condition of CC between sa and sb decides the branch. -/
theorem yields_b {P : Prop} [Decidable P] (hr : Ready x s) (hf : bResOk f true = true) (hcc : opCc f ≤ 6)
    (hP : BranchHolds (opCc f) ((thr s x).sreg (opA f)) ((thr s x).sreg (opB f)) ↔ P) :
    Yields (.b x f) s fun t => SameThread (thr t x) (thr s x) ∧
      if P then BranchesTo x s t ((thr s x).pc + opOff8 f) else GoesOn x s t := by
  obtain ⟨c, hc, hiff⟩ := branchCond_eq_some ((thr s x).sreg (opA f)) ((thr s x).sreg (opB f)) hcc
  refine yields_of_issue (show exec (.b x f) s = execB x f s from rfl) hr (finish_branch_if hr (hiff.trans hP) ?_)
  simp only [th_atIssue, hc, hf, Bool.not_true, Bool.false_eq_true, if_false]

/-- BCF: a bit that the condition field and sa share decides the branch. -/
theorem yields_bcf (hr : Ready x s) (hf : bResOk f false = true) :
    Yields (.bcf x f) s fun t => SameThread (thr t x) (thr s x) ∧
      if Nat.land (thr s x).cond ((thr s x).sreg (opA f)).toNat ≠ 0 then BranchesTo x s t ((thr s x).pc + opOff8 f) else GoesOn x s t := by
  refine yields_of_issue (show exec (.bcf x f) s = execBcf x f s from rfl) hr (finish_branch_if hr Iff.rfl ?_)
  simp only [th_atIssue, hf, Bool.not_true, Bool.false_eq_true, if_false]

/-- JR: the branch to sa + OFF × 8. -/
theorem yields_jr (hr : Ready x s) (hf : bResOk f false = true) :
    Yields (.jr x f) s fun t => SameThread (thr t x) (thr s x) ∧
      BranchesTo x s t ((thr s x).sreg (opA f) + BitVec.ofInt 64 (opOff8 f)).toNat := by
  refine yields_of_issue (show exec (.jr x f) s = execJr x f s from rfl) hr ?_
  simp only [th_atIssue, hf, Bool.not_true, Bool.false_eq_true, if_false]
  exact finish_branchTo hr _

/-- JAL: the branch, and where it is taken the address of the next instruction in sd. -/
theorem yields_jal (hr : Ready x s) (hf : bResOk f false = true) :
    Yields (.jal x f) s fun t => BranchesTo x s t ((thr s x).pc + opOff8 f) ∧
      (0 ≤ ((thr s x).pc : Int) + opOff8 f ∧ ((thr s x).pc : Int) + opOff8 f ≤ 0x7FF8 ∧ (((thr s x).pc : Int) + opOff8 f) % 8 = 0 →
        HoldsS t x (opD f) (BitVec.ofNat 64 ((thr s x).pc + 8))) := by
  refine yields_of_issue (show exec (.jal x f) s = execJal x f s from rfl) hr ?_
  simp only [th_atIssue, hf, Bool.not_true, Bool.false_eq_true, if_false]
  have hl := ready_lt_atIssue hr
  unfold BranchesTo
  generalize ((thr s x).pc : Int) + opOff8 f = p
  by_cases hp : 0 ≤ p ∧ p ≤ 0x7FF8 ∧ p % 8 = 0
  · rw [branchTo_inside hp, if_pos hp]
    have hls := lt_length_setThread ((thr s x).setS (opD f) (BitVec.ofNat 64 ((thr s x).pc + 8))) hl
    refine ⟨jumpsTo_finish hls hp.1, fun _ => holdsS_of_setS (th := thr s x) ?_⟩
    rw [thr_finish_jump _ hls, thr_setThread _ hl]
  · rw [branchTo_outside hp, if_neg hp]
    exact ⟨faults_finish hr (by decide) 0, fun h => absurd h hp⟩

/-- Settles O13, one branch at a time. -/
theorem branchResult : Obligations.BranchResult := by
  intro x f s hr
  exact ⟨fun hf hcc => yields_b hr hf hcc Iff.rfl, fun hf => ⟨yields_bcf hr hf, yields_jal hr hf, yields_jr hr hf⟩⟩

end Sys2Proof.Proofs
end

section
/-!
Management writes of the registers that only an idle tile takes: R8, R133.
-/
namespace Sys2Proof.Proofs

open Sys2Proof Sys2Proof.Machine

variable {s : State} {r : Reg} {i b m : Nat}

/-- A write in range that reaches a register acts as that register's write does. -/
theorem mgmtWrite_reg {a v : Nat} {wide : Bool} (ha : mgmtAt s a wide = .reg r i b)
    (hm : outOfRange s r i b (if wide then 8 else 4) (merged s r i b (if wide then 8 else 4) v) = false) :
    (mgmtWrite s a wide v).1 = regWrite s r i (merged s r i b (if wide then 8 else 4) v) := by
  unfold mgmtWrite
  rw [ha]
  simp [hm]

/-- The registers of R133, each one writable field, are written only while every thread of their tile is idle. -/
theorem idleOnly_write (hr : r ∈ [Reg.TILE_LOGICAL, .TILE_JOB, .TILE_JOB_SEED, .TILE_STEP, .TILE_ENTRY]) :
    ∃ f : Fld, r.fields = [f] ∧
      regWrite s r i m = if allIdle (tget s i) then fset s f i (bitsAt m f.lo f.width) else tileRefused s i := by
  simp only [List.mem_cons, List.not_mem_nil, or_false] at hr
  rcases hr with rfl | rfl | rfl | rfl | rfl <;> exact ⟨_, rfl, rfl⟩

/-- A refused write changes no tile, and no register but the count of dropped records. -/
theorem tileRefused_frame (t : Nat) : (tileRefused s t).tiles = s.tiles ∧ SameRegs s (tileRefused s t) (only F.LOG_STATUS_HELD_DROP 0) :=
  emitLim_frame _ _ _ _ _ _

/-- Settles O37: the write of such a register is one test of the tile's threads, which sets the register's field or raises event 0x010A. -/
theorem idleOnlyRegisters : Obligations.IdleOnlyRegisters := by
  intro addr wide value s0 r i b s ha hr n m hm
  obtain ⟨f, hfields, hwrite⟩ := idleOnly_write (s := s) (i := i) (m := m) hr
  have hexec : exec (.mgmtRegisterWrite addr wide value) s0 = .next (settle (regWrite s r i m)) := by
    rw [← mgmtWrite_reg ha hm]
    rfl
  refine ⟨fun hidle => ⟨_, hexec, ?_⟩, fun hbusy => ⟨_, hexec, ?_⟩⟩
  · rw [hwrite, if_pos hidle, hfields]
    intro g hg _
    rw [List.mem_singleton.1 hg]
    exact fget_fset_bitsAt m
  · rw [hwrite, if_neg (by simp [hbusy])]
    obtain ⟨htiles, hregs⟩ := tileRefused_frame (s := s) i
    exact ⟨hregs, htiles, fun hhalf hopen hlast => emitLim_queue hopen hhalf hlast⟩

end Sys2Proof.Proofs
end
